-- ==== Sys2Proof/Word.lean ====
section
/-!
DEFINITION. Words, sparse word maps and the plainest arithmetic on them (spec/00_scope.md R8 to R10).
-/

namespace Sys2Proof

/-- A word is 16 bits, bit 0 the least significant (R8). -/
abbrev Word := BitVec 16

/-- A sparse memory of words: (word address, word) pairs, addresses strictly rising, no entry equal to what an
unlisted address reads as. The spec's addresses name words and no region is byte-addressable (R9). -/
abbrev WMap := List (Nat × Word)

/-- The low `n` bits of `x`. -/
def lowBits (n x : Nat) : Nat := x % 2 ^ n

/-- Bits `hi` down to `lo` of `x`. -/
def bitsOf (x hi lo : Nat) : Nat := (x / 2 ^ lo) % 2 ^ (hi + 1 - lo)

/-- Bit `k` of `x`. -/
def bitOf (x k : Nat) : Bool := (x / 2 ^ k) % 2 == 1

/-- The signed reading of the low `n` bits of `x`. -/
def signedOf (n x : Nat) : Int :=
  let y := x % 2 ^ n
  if y < 2 ^ (n - 1) then (y : Int) else (y : Int) - (2 ^ n : Nat)

/-- The two's-complement pattern of `v` in `n` bits. -/
def unsignedOf (n : Nat) (v : Int) : Nat := (v % ((2 ^ n : Nat) : Int)).toNat

/-- `v` clamped between `lo` and `hi`. -/
def clampInt (lo hi v : Int) : Int := if v < lo then lo else if hi < v then hi else v

/-- 1 for true, 0 for false. -/
def b2n (b : Bool) : Nat := if b then 1 else 0

end Sys2Proof
end

