-- ==== Sys2Proof/Syntax.lean ====
section
/-!
DEFINITION. The commands of the block: one constructor of `Instr` for each row of spec/opcode_table.json, with the row's
operands. An event's operands are what its occurrence brings from outside: a measured value, an edge, a received frame.
-/

namespace Sys2Proof

/-- A master ID (R18). -/
abbrev Master := Fin 16

/-- A global word address (R9). -/
abbrev Gwa := BitVec 24

/-- The blocks with a COMMIT register (R30). -/
inductive CommitBlock where
  | fe | lo | dfe | ch | srch | tb | tp | syn | slc | plc | cfl
  deriving DecidableEq, Repr

/-- The supply rails, in the order of R57. -/
inductive Rail where
  | core | mem | ret | a10 | a18 | ioA | ioB | vin
  deriving DecidableEq, Repr

/-- A code that a pair of ADCs gives, I and Q (R85). -/
abbrev Adc := BitVec 8 × BitVec 8

/-- What a lock window of the synthesiser measured: system clocks, and the mean of the control value (R276, R277). -/
structure LockWin where
  count : Nat
  cval : Nat := 0
  deriving DecidableEq, Repr

/-- What a path's calibration measured (R98). -/
structure PathCal where
  band : Fin 3
  /-- In 1/16 LSB. -/
  dcI : Int
  dcQ : Int
  gain : Int
  phase : Int
  /-- Image below the tone after correction, in dB. -/
  imageDb : Int
  /-- Gain code the calibration sequence ended with (R83). -/
  agc : Fin 121
  deriving DecidableEq, Repr

/-- A guard of a long instruction (R325). -/
structure Guard where
  gp : Fin 8 := 0
  gn : Bool := false
  deriving DecidableEq, Repr

/-- How an instruction issues: on which engine, stall cycles beyond those that the spec fixes (contention, migration:
R318, R333), and whether a parcel of it fails instruction parity (R346). -/
structure Issue where
  e : Fin 8
  stall : Nat := 0
  parity : Bool := false
  deriving DecidableEq, Repr

/-- Operands of the shared ALU operations (R361, R362). -/
inductive AluForm where
  | short (d s : Fin 16)
  | long (g : Guard) (d s t : Fin 16)
  deriving DecidableEq, Repr

/-- MOVI and ADDI (R363, R371). -/
inductive ImmForm where
  | short (d : Fin 16) (imm : BitVec 6)
  | long (g : Guard) (d : Fin 16) (imm : Word)
  deriving DecidableEq, Repr

/-- Addressing of a long load or store (R369). A pre-decrement by an immediate holds s − 1. -/
inductive LongMode where
  | offset (k : Fin 8) (o : BitVec 12)
  | postImm (k : Fin 8) (s : BitVec 4)
  | postM (k j : Fin 8)
  | preImm (k : Fin 8) (s : Fin 8)
  | preM (k j : Fin 8)
  | index (k : Fin 8) (j : Fin 16) (sh : Fin 4)
  | absolute (a : Word)
  deriving DecidableEq, Repr

/-- Addressing and register of LOAD and STORE (R364, R370). Short MODE 3 is reserved. -/
inductive MemForm where
  | short (mode : Fin 4) (k : Fin 8) (r : Fin 16)
  | long (g : Guard) (r : Fin 32) (mode : LongMode)
  deriving DecidableEq, Repr

/-- MPY, MAC and MSU (R365, R375). -/
inductive MulForm where
  | short (d : Fin 4) (s t : Fin 16)
  | long (g : Guard) (d : Fin 4) (s t : Fin 16)
  deriving DecidableEq, Repr

/-- Layout M2 of the multiply group (R375). -/
structure M2 where
  d : Fin 4
  p : Fin 8
  q : Fin 8
  neg : Bool
  clr : Bool
  deriving DecidableEq, Repr

/-- A register named by KIND, IDX and PART (R367). -/
structure RegName where
  kind : Fin 16
  idx : Fin 8
  part : Bool
  deriving DecidableEq, Repr

/-- Addressing of LDS and STS (R379). A pre-decrement holds s − 1 in bits 2 to 0; bit 3 is 0. -/
structure SpecMode where
  k : Fin 8
  pre : Bool
  step : BitVec 4
  deriving DecidableEq, Repr

/-- Bits of a stored word that have gone wrong since it was written: a soft error met by a read (R434, R435, R439). -/
structure Upset where
  gwa : Gwa
  data : Word
  check : Fin 64
  deriving DecidableEq, Repr

/-- A character that a Confluence receiver has decoded (R492): free of code and disparity errors, and a comma. -/
structure LinkChar where
  good : Bool := true
  comma : Bool := false
  deriving DecidableEq, Repr

/-- What a tick brings from outside: measured values of the tick that ends. -/
structure TickEnv where
  /-- Current of each aerial's bias switch over the tick, in 0.125 mA (R78). -/
  bias : List Nat := [0, 0]
  /-- VIN_ANT in 10 mV. -/
  vin : Nat := 500
  /-- What each path's ADCs gave since the command that brought their last samples. A path gives no sample that is listed
  nowhere. -/
  adc : List (List Adc) := []
  /-- Temperature of the die, in 0.001 °C, and of TEMP_EXT's pin in µV. -/
  die : Int := 25000
  ext : Nat := 0
  /-- The loop's control value (R274). -/
  cval : Nat := 0
  /-- Edges of the input that the low-power counter counts (R547). -/
  lpc : Nat := 0
  deriving DecidableEq, Repr

/-- The commands: one constructor per row of the table. -/
inductive Instr where
  -- Registers and tick (chapters 00, 01)
  | registerWrite (m : Master) (gwa : Gwa) (v : Word)
  | commit (m : Master) (b : CommitBlock)
  | shadowRead (m : Master) (gwa : Gwa)
  | rcRead (m : Master) (gwa : Gwa)
  /-- `w`: the word of a write; `none` is a read. -/
  | reservedAccess (m : Master) (gwa : Gwa) (w : Option Word)
  | tick (env : TickEnv)
  -- Supplies, reset and boot (chapters 02, 18)
  /-- `v33`: the rail of an I/O bank is at 3.3 V (R59). -/
  | powerUp (r : Rail) (v33 : Bool)
  | porTrip (r : Rail)
  | rstNFall
  | reset
  /-- `mode`: the BOOT_MODE balls; `n`: edges that the low-power counter has not taken yet (R547). -/
  | resetEnd (mode : Fin 8) (n : Nat)
  | sysResetGo (m : Master)
  /-- `a`, `b`: edges of REF_A and REF_B in 100 µs (R540); `bad`: Pool banks that fail BIST (R450); `lock`: the loop locks
  and the release follows within this command. -/
  | boot (a b : Nat) (bad : List (Fin 32)) (lock : Bool)
  | refDetectRetry (a b : Nat)
  | hostBootImage
  /-- `env`: what is measured at the first edge; its samples count for nothing. -/
  | bootComplete (env : TickEnv)
  -- Aerial front ends (chapter 03)
  | feEnable (m : Master) (a : Fin 2)
  | feDisable (m : Master) (a : Fin 2)
  | pathDisable (m : Master) (a : Fin 2) (b : Fin 3)
  | pathEnable (m : Master) (a : Fin 2) (b : Fin 3)
  | clear (m : Master) (a : Fin 2)
  | recal (m : Master) (a : Fin 2) (b : Fin 3)
  | biasSettle (a : Fin 2)
  | biasShort (a : Fin 2)
  /-- `held`: the current limit held for t_SC again (R79). -/
  | biasRetry (a : Fin 2) (held : Bool)
  /-- `volt`: VIN_ANT in 10 mV. -/
  | vinFault (volt : Nat)
  | vinRecover
  /-- `ok`: a VCO band that locks was found for every LO; `bands`: the VCO bands chosen. -/
  | loCalDone (ok : Bool) (bands : List (Fin 64))
  /-- `counts`: LO cycles that the windows of the frequency check counted since the band's last such command (R88). -/
  | loLock (b : Fin 3) (counts : List Nat)
  | loLockLost (b : Fin 3) (counts : List Nat)
  /-- The timeout of aerial `a` in LO_SETTLE, or of a loss in RUN (`none`). -/
  | loLockTimeout (a : Option (Fin 2))
  /-- `cal`: what the paths that end their calibration measured. -/
  | pathCalDone (a : Fin 2) (cal : List PathCal)
  /-- `adc`: what the path's ADCs gave up to the end of the window, since the command that brought their last samples. -/
  | agcWindow (i : Fin 6) (adc : List Adc)
  -- Sample conditioning (chapter 04)
  /-- `badParity`: (path, word) pairs that arrive with wrong parity (R560). -/
  | spectrum (badParity : List (Nat × Nat))
  /-- `up`: output power is lower one unit up (R113). -/
  | notchTrack (k : Fin 48) (up : Bool)
  -- Correlator channels, diversity and records (chapters 05, 06)
  | start (m : Master) (c : Fin 192)
  | track (m : Master) (c : Fin 192)
  | pull (m : Master) (c : Fin 192)
  | stop (m : Master) (c : Fin 192)
  | release (m : Master) (c : Fin 192)
  | descWrite (m : Master) (c : Fin 192) (word : Fin 64) (v : Word)
  | staleLimit (c : Fin 192)
  /-- `badParity`: words of the record that reach the bank with wrong parity (R560). -/
  | periodEnd (c : Fin 192) (badParity : List (Fin 48))
  /-- `a`, `b`: what the ADCs of the channel's two paths gave since the command that brought their last samples. -/
  | divDecision (c : Fin 192) (a b : List Adc)
  | dphiLapse (c : Fin 192)
  | dirSuspect (g : Fin 8)
  -- Search engine (chapter 07)
  /-- `w`: the word 0 written, with STATE 1. -/
  | jobSubmit (m : Master) (j : Fin 6144) (w : Word)
  | jobEntryWrite (m : Master) (j : Fin 6144) (word : Fin 8) (w : Word)
  | jobDispatch
  /-- `u`: words of the capture buffer that have gone wrong (R215). -/
  | jobComplete (pipe : Fin 4) (u : List Upset)
  | captureOverwrite (pipe : Fin 4)
  | srchAbort (m : Master) (j : Fin 8192)
  | resRdWrite (m : Master) (rd : Word)
  | snapDone
  -- Time base, time pulses, events (chapter 08)
  /-- `v`: the word written to TB_DISC. -/
  | disciplineUpdate (m : Master) (v : Word)
  | coastEntry
  | plannedCoast (m : Master) (n : Fin 32)
  | plannedCoastExpiry
  | qualifyingRun
  | approve (m : Master) (slew : Bool)
  | step
  | leapSecond
  /-- `taps`: N_CAL as measured. -/
  | fineCal (taps : Fin 128)
  | timePulse (n : Fin 4)
  /-- `n` is 4 for CFL_PPS_OUT (R508). -/
  | timePulseEnd (n : Fin 5)
  | todMessage
  /-- `ofs`: instant of the edge at the ball, after the clock in progress, in 2⁻¹⁶ ns. -/
  | eventCapture (n : Fin 8) (falling : Bool) (ofs : Nat)
  | evtFifoRead (m : Master)
  -- Timing synthesiser (chapter 09); `j`: phase error J in ps, as measured
  | synEnable (m : Master) (v : Word)
  | synDisable (m : Master) (v : Word)
  /-- `wins`: the lock windows that have ended since the loop's last such command (R276). -/
  | synLock (wins : List LockWin)
  | synLockLost (wins : List LockWin)
  | syncRelease
  | lockedAndSettled
  | acqTimeout
  | refLos (i : Fin 2) (j : Int)
  | refReturn (i : Fin 2)
  /-- `freqs`: frequencies in mHz that the input's validation windows measured since its last such command (R279). -/
  | refValid (i : Fin 2) (j : Int) (freqs : List Nat)
  | refInvalid (i : Fin 2) (freqs : List Nat)
  | revalDone (j : Int) (freqs : List Nat)
  | refRevert (j : Int)
  | switch (m : Master) (j : Int)
  | alignNow (m : Master)
  | fstepArm (m : Master) (hi : Word)
  | rampStart (m : Master) (v : Word)
  /-- `cause`: 1 reference check, 2 limp check, 3 stop check, 4 multiplier; `n`: the clocks it counted (R295). -/
  | clockMonitorFailure (cause : Fin 5) (n : Nat)
  -- Sluice unit (chapter 10)
  | arm (m : Master) (n : Fin 16)
  | disable (m : Master) (n : Fin 16)
  | closeNow (m : Master) (n : Fin 16)
  | gateBoundary (n : Fin 16)
  | gateEdge (n : Fin 16)
  | gateTrip (n : Fin 16)
  | armTimeout (n : Fin 16)
  -- Placement, Weir and engine control (chapters 11, 13). `p`: P_EST in mW; `sens`: sensor readings in 0.25 °C
  | weirDecision (p : Fin 65536) (sens : List Int)
  | weirLower
  | placement
  | taskEntry (e : Fin 8)
  | spanOverrun (e : Fin 8)
  /-- `u`: engines 0 to 7, lane groups 8 to 15, pipelines 16 to 19. -/
  | unitPowerDown (u : Fin 20)
  | unitWake
  | restart (m : Master) (e : Fin 8)
  | brk (m : Master) (e : Fin 8)
  /-- `brk`: the BRK trap; otherwise the CLK trap. -/
  | asyncTrap (e : Fin 8) (brk : Bool)
  | semRead (m : Master) (n : Fin 32)
  | semRelease (m : Master) (n : Fin 32)
  -- Engine instructions (chapters 11, 12)
  | nop (i : Issue)
  /-- `g`: guard of the long form. -/
  | ret (i : Issue) (g : Option Guard)
  | rtt (i : Issue)
  | fence (i : Issue)
  | swi (i : Issue) (code : Fin 256)
  | brr (i : Issue) (k : Fin 8)
  | callr (i : Issue) (k : Fin 8)
  | lbrk (i : Issue) (level : Fin 2)
  | tend (i : Issue)
  | mov (i : Issue) (f : AluForm)
  | add (i : Issue) (f : AluForm)
  | addc (i : Issue) (f : AluForm)
  | sub (i : Issue) (f : AluForm)
  | subb (i : Issue) (f : AluForm)
  | and (i : Issue) (f : AluForm)
  | or (i : Issue) (f : AluForm)
  | xor (i : Issue) (f : AluForm)
  | andn (i : Issue) (f : AluForm)
  | not (i : Issue) (f : AluForm)
  | neg (i : Issue) (f : AluForm)
  | abs (i : Issue) (f : AluForm)
  | lsh (i : Issue) (f : AluForm)
  | ash (i : Issue) (f : AluForm)
  | min (i : Issue) (f : AluForm)
  | max (i : Issue) (f : AluForm)
  | swapb (i : Issue) (f : AluForm)
  | sxb (i : Issue) (f : AluForm)
  | zxb (i : Issue) (f : AluForm)
  | normw (i : Issue) (f : AluForm)
  | movi (i : Issue) (f : ImmForm)
  | addi (i : Issue) (f : ImmForm)
  | lshi (i : Issue) (d : Fin 16) (imm : BitVec 6)
  | ashi (i : Issue) (d : Fin 16) (imm : BitVec 6)
  | bclr (i : Issue) (d : Fin 16) (imm : BitVec 6)
  | bset (i : Issue) (d : Fin 16) (imm : BitVec 6)
  | btgl (i : Issue) (d : Fin 16) (imm : BitVec 6)
  | andi (i : Issue) (g : Guard) (d : Fin 16) (imm : Word)
  | ori (i : Issue) (g : Guard) (d : Fin 16) (imm : Word)
  | movx (i : Issue) (g : Guard) (high : Bool) (k : Fin 8) (imm : Word)
  | movm (i : Issue) (g : Guard) (k : Fin 8) (imm : Word)
  | movl (i : Issue) (g : Guard) (k : Fin 8) (imm : Word)
  /-- `u`: words that have gone wrong in memory; an address below 0x8000 is a local word that fails parity. -/
  | load (i : Issue) (f : MemForm) (u : List Upset)
  /-- `other`: a write of the same word of a mailbox bank by the other port in the same clock (R433). -/
  | store (i : Issue) (f : MemForm) (other : Option (Master × Word))
  | eccWriteback
  | mpy (i : Issue) (f : MulForm)
  | mac (i : Issue) (f : MulForm)
  | msu (i : Issue) (f : MulForm)
  | mpyw (i : Issue) (g : Guard) (d s t : Fin 16)
  | dmac (i : Issue) (g : Guard) (f : M2)
  | cmac (i : Issue) (g : Guard) (f : M2)
  | cmacj (i : Issue) (g : Guard) (f : M2)
  | qmac (i : Issue) (g : Guard) (f : M2)
  | bra (i : Issue) (ofs : BitVec 12)
  /-- The short form holds an offset, the long form a target. -/
  | call (i : Issue) (f : BitVec 12 ⊕ (Guard × BitVec 15))
  | br (i : Issue) (g : Guard) (target : BitVec 15)
  | moveToRegister (i : Issue) (r : RegName) (w : Fin 16)
  | moveFromRegister (i : Issue) (r : RegName) (w : Fin 16)
  | cmp (i : Issue) (g : Guard) (d : Fin 8) (cond : Fin 16) (s t : Fin 16)
  | cmpi (i : Issue) (g : Guard) (d : Fin 8) (cond : Fin 16) (s : Fin 16) (imm : BitVec 9)
  | acmp (i : Issue) (g : Guard) (d : Fin 8) (cond : Fin 16) (s t : Fin 4)
  | plog (i : Issue) (g : Guard) (d a b : Fin 8) (op : Fin 8)
  | btst (i : Issue) (g : Guard) (d : Fin 8) (s : Fin 16) (bit : Fin 16) (inv : Bool)
  | aadd (i : Issue) (g : Guard) (d a b : Fin 4)
  | asub (i : Issue) (g : Guard) (d a b : Fin 4)
  | aneg (i : Issue) (g : Guard) (d a : Fin 4)
  | aabs (i : Issue) (g : Guard) (d a : Fin 4)
  | ashiAcc (i : Issue) (g : Guard) (d a : Fin 4) (count : BitVec 7) (log : Bool)
  | ashr (i : Issue) (g : Guard) (d a : Fin 4) (c : Fin 16) (log : Bool)
  | amovw (i : Issue) (g : Guard) (d : Fin 4) (s : Fin 16)
  | narrow (i : Issue) (g : Guard) (d : Fin 16) (a : Fin 4)
  | asat (i : Issue) (g : Guard) (d a : Fin 4)
  | norm (i : Issue) (g : Guard) (d : Fin 16) (a : Fin 4)
  | ld2 (i : Issue) (g : Guard) (p : Fin 8) (xa : Fin 8) (ma : Fin 4) (xb : Fin 8) (mb : Fin 4) (u : List Upset)
  | div (i : Issue) (g : Guard) (q r s t : Fin 16)
  | lds (i : Issue) (g : Guard) (a : SpecMode) (r : RegName) (u : List Upset)
  | sts (i : Issue) (g : Guard) (a : SpecMode) (r : RegName)
  | tbl (i : Issue) (g : Guard) (d s : Fin 16) (k : Fin 8) (u : List Upset)
  | tbli (i : Issue) (g : Guard) (d s : Fin 16) (k : Fin 8) (u : List Upset)
  | loopi (i : Issue) (g : Guard) (level : Fin 2) (count : BitVec 10) (len : BitVec 6)
  | loopr (i : Issue) (g : Guard) (level : Fin 2) (s : Fin 16) (len : BitVec 12)
  /-- `slot`: OPC − 0x1C0; `body`: parcel 1 (R324, R396); `badUc`: words of the decode table (0 to 63) and of the microcode
  store (64 + micro-address) that have gone wrong. -/
  | userOpcode (i : Issue) (g : Guard) (slot : Fin 64) (body : Word) (u : List Upset) (badUc : List (Fin 320))
  -- Memory system (chapter 14)
  /-- `upset`: soft errors in the word read. -/
  | scrub (upset : List Upset)
  /-- `hold`: the test has borrowed the slice and still holds it; `mismatch`: a march read was wrong (R441). -/
  | testSlice (hold mismatch : Bool) (upset : List Upset)
  | retain (m : Master)
  | resume (m : Master)
  | bwReady
  | wipe (m : Master)
  /-- `ok`: every word read back as zero (R448). -/
  | wipeDone (ok : Bool)
  | accLock (m : Master) (k : Fin 4) (bits : Word)
  -- Host and flash ports (chapter 15)
  /-- `n`: the select. `ws`: the words after the header, with the CRC word. `bits`: bits of a word cut short. `both`: the
  other select fell during the frame. -/
  | hostWriteFrame (n : Fin 2) (off : BitVec 7) (ws : List Word) (bits : Fin 16) (both : Bool)
  /-- `k`: words clocked after the header. `late`: data words whose value came late. -/
  | hostReadFrame (n : Fin 2) (off : BitVec 7) (k : Nat) (late : List Nat) (bits : Fin 16) (both : Bool)
  /-- `res`: the reserved bits of the control word. `ws`: the words after it, with the CRC word. -/
  | rawWriteFrame (n : Fin 2) (res : BitVec 3) (len : BitVec 12) (ws : List Word) (bits : Fin 16) (both : Bool)
  /-- `k`: words clocked after the control word. -/
  | rawReadFrame (n : Fin 2) (res : BitVec 3) (len : BitVec 12) (k : Nat) (bits : Fin 16) (both : Bool)
  /-- A window read by master `m`. -/
  | xipFetch (m : Master) (w : BitVec 23)
  | gatherFlush
  | xipFlush (m : Master)
  | progDone
  /-- `wel`: false, a status read found WEL clear; true, PROG_TMO expired. -/
  | progTimeout (wel : Bool)
  /-- `v`: the word written to FP_CMD_CTRL. `rx`: bytes the flash gives. `change`: words of the flash that the frame changes. -/
  | cmdFrame (m : Master) (v : Word) (rx : List (BitVec 8)) (change : List (BitVec 31 × Word))
  | cmdFrameDone
  | cmdTimeout
  -- Confluence (chapter 16)
  /-- `chars`: characters received since the port's last such command (R492). -/
  | linkUp (p : Fin 2) (chars : List LinkChar)
  | linkDown (p : Fin 2) (chars : List LinkChar)
  | beaconTx
  /-- `frame`: bytes of the message between its start and end characters, body and CRC; `whole`: its characters are good; `ofs`:
  arrival of the start character at the ball, after the clock in progress, in 2⁻¹⁶ ns. -/
  | beaconRx (p : Fin 2) (frame : List (BitVec 8)) (whole : Bool) (ofs : Nat)
  | leaveRx (p : Fin 2) (frame : List (BitVec 8)) (whole : Bool)
  | neighbourTimeout (p : Fin 2)
  | agreementLoss
  | agreementRise
  | degraded
  /-- `v`: the word written to CFL_CTRL. -/
  | cflEnable (m : Master) (v : Word)
  | cflDisable (m : Master) (v : Word)
  | portDisable (m : Master) (v : Word)
  /-- `v`: the word written to CFL_TX_CMD. -/
  | userTx (m : Master) (v : Word)
  | userRx (p : Fin 2) (frame : List (BitVec 8)) (whole : Bool)
  | cflPpsOut
  /-- `ofs`: instant of the edge after the clock in progress, in 2⁻¹⁶ ns. -/
  | cflPpsIn (ofs : Nat)
  -- Lifecycle, OTP, security (chapter 17)
  | lifecycleTransition (m : Master) (v : Word)
  | otpProgram (m : Master) (v : Word)
  | keyRevoke (m : Master) (v : Word)
  | keysOk (m : Master)
  /-- `stays`: the condition is still present after the trigger. -/
  | tamper (src : Fin 4) (stays : Bool)
  /-- `src`: sources that have become inactive; `v`: the word written to LCS_TAMPER_STAT. -/
  | tamperClear (m : Master) (inactive : List (Fin 4)) (v : Word)
  | hash (m : Master)
  | hashStart (m : Master)
  | hashCont (m : Master)
  | hashFinal (m : Master)
  | verify (m : Master)
  | cryptoDone
  /-- `fail`: words of the row that read back wrong. -/
  | otpProgramDone (fail : List (Fin 16 × Word))
  | lcTransitionDone
  -- Sleep and update (chapter 18); `n`: edges of the recorded input since the last command that brought any
  | secstep (m : Master)
  | sleepArm (m : Master)
  /-- `ofs`: instant of the edge at the ball, after the clock in progress, in 2⁻¹⁶ ns. -/
  | lpcArmEdge (ofs : Nat)
  | snap (m : Master)
  | lpcSnapEdge (n ofs : Nat)
  | lpcLos (n : Nat)
  | lpcOverflow
  | updVerify (m : Master)
  | updVerifyDone
  | updSwitch (m : Master)
  | updCancel (m : Master)
  | switchEdge
  /-- `bad`: the copy met an uncorrectable word (R555). -/
  | updCopy (bad : Bool)
  -- Faults and the rest (chapters 02, 19)
  | fltPop (m : Master) (v : Word)
  | fltSwGo (m : Master)
  | fltPendClear (m : Master) (i : Fin 2) (v : Word)
  | vddRetLoss
  /-- `on`: an IEEE 1149.1 instruction is in force; false: the TAP is reset (R52). -/
  | tapInstruction (on : Bool)
  deriving DecidableEq, Repr

end Sys2Proof
end

