-- ==== Sys2Proof/Config.lean ====
section
/-!
DEFINITION. What one part fixes and the spec leaves open: free values, opaque constants with no body, so that a claim
holds whatever they are. Each is named in the assumption log.
-/

namespace Sys2Proof.Config

/-- Whether a quotient that the spec rounds in no stated way is rounded up (log entry 10). -/
opaque roundUp : Int → Nat → Bool

/-- How many gain codes an AGC window moves toward its target, before the limit of STEP_MAX (R81; log entry 11). -/
opaque agcSteps : Nat → Nat → Nat

/-- The syndrome of a word with the given bits in error (R434, R435; log entry 12). -/
opaque syndrome : Nat → Nat → Nat

/-- A value the spec leaves open, numbered by the counter `State.free` (log entry 13). -/
opaque freeValue : Nat → Nat

/-- The median of an even number of bins, from its two middle values (R112, R118; log entry 14). -/
opaque medianOf : Nat → Nat → Nat

/-- INT_LEN in ticks of a channel whose active INT_LEN is 0, less 1 (R135 states no period for it; log entry 13). -/
opaque intLenZero : Nat → Nat

/-- EPOCH_OFS of a record whose period holds no primary wrap (R136 states none; log entry 13). -/
opaque epochNone : Nat → Nat

/-- cos (2πn ÷ m) in 2⁻³⁰, as the tables of the mixers and transforms hold it away from quarter turns (R107, R115, R122,
R199; log entry 108). -/
opaque cosine : Nat → Nat → Int

/-- Coefficient `k` of a notch of width `bw` at frequency `f`, complex, in 2⁻³⁰: 0 to 2 on the inputs, 3 and 4 on the outputs
(R111; log entry 109). -/
opaque notchCoef : Nat → Int → Nat → Int × Int

/-- Tap `k` of the decimator's filter at decimation `d`, in 2⁻³⁰ (R122; log entry 110). -/
opaque decTap : Nat → Nat → Int

/-- What a sum of squared transform outputs, in 2⁻¹⁰⁰, is divided by to give a bin's power in LSB² (R115; log entry 111). -/
opaque specScale : Nat

/-- The word of a bin whose power is below 1 LSB² and not zero, from the power as a quotient (R115; log entry 111). -/
opaque weakBin : Nat → Nat → Word

/-- What a sum of |r|² is divided by, less 1, to give a cell in a pipeline's internal unit (R200, R218; log entry 126). -/
opaque cellUnit : Nat

/-- The level of an output that runs unaligned, at a clock count (R292; log entry 131). -/
opaque outFree : Nat → Nat → Bool

end Sys2Proof.Config
end

