-- ==== Sys2Proof/Machine/Regs.lean ====
section
/-!
DEFINITION. The register map of spec/: one row per register or group of equal registers of the register blocks, the
Channel Table, the Search Job Table, the Task Table and the gate schedules (field tables of chapters 00 to 19), with
field places, types (R11), change classes (R13), accepted values (R17) and reset words, and a name for every field.
-/

namespace Sys2Proof.Machine

/-- The field types of R11. -/
inductive FieldType where
  | rw | ro | w1c | wo | rc
  deriving DecidableEq, Repr

/-- The change classes of R13. -/
inductive FieldClass where
  | live | tick | stopped
  deriving DecidableEq, Repr

/-- One field of a register: bits `hi` to `lo`, its type and class, and the ranges of values a write may hold
(R17; the empty list accepts every value). -/
structure RegField where
  hi : Nat
  lo : Nat
  ty : FieldType
  cls : FieldClass
  ok : List (Nat × Nat)
  deriving DecidableEq, Repr

/-- A group of registers with the same fields. Register `i` stands at `base + (i / per) * big + (i % per) * stride`;
`resets` gives its reset word, one for all or one each. -/
structure RegGroup where
  base : Nat
  count : Nat
  stride : Nat
  per : Nat
  big : Nat
  resets : List Nat
  fields : List RegField
  deriving DecidableEq, Repr

/-- A named field of the register at `gwa`. -/
structure Fld where
  gwa : Nat
  hi : Nat
  lo : Nat
  deriving DecidableEq, Repr

/-- A value of `n` words, least significant first (R10), from `gwa`. -/
structure Wide where
  gwa : Nat
  n : Nat
  deriving DecidableEq, Repr

namespace R

def CH_BAND (i : Nat) : Fld := ⟨0x640000 + i * 64, 15, 14⟩
def CH_AER (i : Nat) : Fld := ⟨0x640000 + i * 64, 13, 12⟩
def CH_GEN (i : Nat) : Fld := ⟨0x640000 + i * 64, 11, 10⟩
def CH_SUBC (i : Nat) : Fld := ⟨0x640000 + i * 64, 9, 7⟩
def CH_TDM (i : Nat) : Fld := ⟨0x640000 + i * 64, 6, 5⟩
def CH_PAIR (i : Nat) : Fld := ⟨0x640000 + i * 64, 4, 4⟩
def CH_HO_OK (i : Nat) : Fld := ⟨0x640000 + i * 64, 3, 3⟩
def CH_SUBC_RATIO (i : Nat) : Fld := ⟨0x640001 + i * 64, 15, 10⟩
def CH_SEC_EN (i : Nat) : Fld := ⟨0x640001 + i * 64, 9, 9⟩
def CH_SEC_WIPE (i : Nat) : Fld := ⟨0x640001 + i * 64, 8, 8⟩
def CH_CLASS (i : Nat) : Fld := ⟨0x640001 + i * 64, 7, 6⟩
def CH_CODE_LEN (i : Nat) : Fld := ⟨0x640002 + i * 64, 15, 0⟩
def CH_SEC_LEN (i : Nat) : Fld := ⟨0x640003 + i * 64, 15, 4⟩
def CH_CODE_LEN_W3 (i : Nat) : Fld := ⟨0x640003 + i * 64, 3, 0⟩
def CH_SEC_PH_INIT (i : Nat) : Fld := ⟨0x640012 + i * 64, 10, 0⟩
def CH_SEC_ADV (i : Nat) : Fld := ⟨0x640013 + i * 64, 10, 0⟩
def CH_LADDER_SP (i : Nat) : Fld := ⟨0x640014 + i * 64, 8, 0⟩
def CH_ROAM_OFS (i : Nat) : Fld := ⟨0x640015 + i * 64, 11, 0⟩
def CH_ROAM_MODE (i : Nat) : Fld := ⟨0x640016 + i * 64, 15, 15⟩
def CH_ROAM_N (i : Nat) : Fld := ⟨0x640016 + i * 64, 14, 11⟩
def CH_ROAM_STEP (i : Nat) : Fld := ⟨0x640016 + i * 64, 7, 0⟩
def CH_INT_LEN (i : Nat) : Fld := ⟨0x640019 + i * 64, 4, 0⟩
def CH_START_TICK (i : Nat) : Fld := ⟨0x64001A + i * 64, 15, 0⟩
def CH_START_NOW (i : Nat) : Fld := ⟨0x64001B + i * 64, 15, 15⟩
def CH_PAIR_NUM (i : Nat) : Fld := ⟨0x64002E + i * 64, 15, 0⟩
def CH_PAIR_DEN (i : Nat) : Fld := ⟨0x64002F + i * 64, 15, 0⟩
def CH_DIV_MODE (i : Nat) : Fld := ⟨0x640030 + i * 64, 15, 14⟩
def CH_INIT_AER (i : Nat) : Fld := ⟨0x640030 + i * 64, 13, 13⟩
def CH_HYST (i : Nat) : Fld := ⟨0x640030 + i * 64, 12, 7⟩
def CH_DPHI_TC (i : Nat) : Fld := ⟨0x640030 + i * 64, 6, 4⟩
def CH_DIR_EN (i : Nat) : Fld := ⟨0x640030 + i * 64, 3, 3⟩
def CH_DIR_GRP (i : Nat) : Fld := ⟨0x640030 + i * 64, 2, 0⟩
def CH_FRAME_LEN (i : Nat) : Fld := ⟨0x640031 + i * 64, 15, 0⟩
def CH_FRAME_OFS (i : Nat) : Fld := ⟨0x640032 + i * 64, 15, 0⟩
def CH_WORD_LEN (i : Nat) : Fld := ⟨0x640033 + i * 64, 15, 8⟩
def CH_DPHI_LAPSE (i : Nat) : Fld := ⟨0x640033 + i * 64, 7, 0⟩
def CH_STATE (i : Nat) : Fld := ⟨0x640038 + i * 64, 15, 13⟩
def CH_CAUSE (i : Nat) : Fld := ⟨0x640038 + i * 64, 12, 10⟩
def CH_PREV (i : Nat) : Fld := ⟨0x640038 + i * 64, 9, 9⟩
def CH_HO (i : Nat) : Fld := ⟨0x640038 + i * 64, 8, 8⟩
def CH_SAT_A (i : Nat) : Fld := ⟨0x640038 + i * 64, 7, 7⟩
def CH_SAT_B (i : Nat) : Fld := ⟨0x640038 + i * 64, 6, 6⟩
def CH_STALE_RUN (i : Nat) : Fld := ⟨0x640039 + i * 64, 7, 0⟩
def JOB_STATE (i : Nat) : Fld := ⟨0x650000 + i * 8, 15, 13⟩
def JOB_CLASS (i : Nat) : Fld := ⟨0x650000 + i * 8, 12, 11⟩
def JOB_PRIO (i : Nat) : Fld := ⟨0x650000 + i * 8, 10, 9⟩
def JOB_KIND (i : Nat) : Fld := ⟨0x650000 + i * 8, 8, 8⟩
def JOB_HO_EN (i : Nat) : Fld := ⟨0x650000 + i * 8, 7, 7⟩
def JOB_LOG2N (i : Nat) : Fld := ⟨0x650000 + i * 8, 3, 0⟩
def JOB_CAP_OFS (i : Nat) : Fld := ⟨0x650001 + i * 8, 15, 0⟩
def JOB_NC_M1 (i : Nat) : Fld := ⟨0x650002 + i * 8, 15, 8⟩
def JOB_KPER (i : Nat) : Fld := ⟨0x650002 + i * 8, 7, 6⟩
def JOB_CAP_OFS_W2 (i : Nat) : Fld := ⟨0x650002 + i * 8, 5, 0⟩
def JOB_CODE_CNT_M1 (i : Nat) : Fld := ⟨0x650003 + i * 8, 15, 12⟩
def JOB_SPEC_PTR (i : Nat) : Fld := ⟨0x650003 + i * 8, 10, 0⟩
def JOB_DOP_START (i : Nat) : Fld := ⟨0x650004 + i * 8, 15, 0⟩
def JOB_DOP_STEP (i : Nat) : Fld := ⟨0x650005 + i * 8, 15, 8⟩
def JOB_DOP_N_M1 (i : Nat) : Fld := ⟨0x650005 + i * 8, 7, 0⟩
def JOB_HO_CHAN (i : Nat) : Fld := ⟨0x650006 + i * 8, 15, 8⟩
def JOB_HO_TH (i : Nat) : Fld := ⟨0x650006 + i * 8, 7, 0⟩
def JOB_CDR (i : Nat) : Fld := ⟨0x650007 + i * 8, 15, 0⟩
def SYS_TICK_STAT_COMMIT_LATE : Fld := ⟨0x700013, 14, 14⟩
def SYS_TICK_STAT_OVERRUN : Fld := ⟨0x700013, 13, 13⟩
def SYS_TICK_STAT_SLIP_SHORT : Fld := ⟨0x700013, 11, 6⟩
def SYS_TICK_STAT_SLIP_LONG : Fld := ⟨0x700013, 5, 0⟩
def SYS_TICK_CFG_SLIP_FLT : Fld := ⟨0x700014, 1, 1⟩
def SYS_TICK_CFG_OVR_FLT : Fld := ⟨0x700014, 0, 0⟩
def SYS_ENG_CTRL_RESTART (i : Nat) : Fld := ⟨0x700020 + i, 15, 15⟩
def SYS_ENG_CTRL_BRK (i : Nat) : Fld := ⟨0x700020 + i, 14, 14⟩
def SYS_ENG_STAT_HALTED (i : Nat) : Fld := ⟨0x700028 + i, 15, 15⟩
def SYS_ENG_STAT_LAST_TC (i : Nat) : Fld := ⟨0x700028 + i, 13, 11⟩
def SYS_ENG_STAT_IMP (i : Nat) : Fld := ⟨0x700028 + i, 10, 10⟩
def SYS_ENG_STAT_TRAPS (i : Nat) : Fld := ⟨0x700028 + i, 9, 0⟩
def SYS_SEM_HELD (i : Nat) : Fld := ⟨0x700040 + i, 14, 14⟩
def SYS_SEM_OWNER (i : Nat) : Fld := ⟨0x700040 + i, 3, 0⟩
def SYS_UC_ADDR_ENG : Fld := ⟨0x700060, 15, 13⟩
def SYS_UC_ADDR_TABLE : Fld := ⟨0x700060, 8, 8⟩
def SYS_UC_ADDR_ADDR : Fld := ⟨0x700060, 7, 0⟩
def SYS_RESET_GO : Fld := ⟨0x700070, 15, 15⟩
def SYS_BOOT_STAT_KIND : Fld := ⟨0x700071, 15, 14⟩
def SYS_BOOT_STAT_CAUSE : Fld := ⟨0x700071, 13, 12⟩
def SYS_BOOT_STAT_MODE : Fld := ⟨0x700071, 11, 9⟩
def SYS_BOOT_STAT_SLOT : Fld := ⟨0x700071, 8, 8⟩
def SYS_BOOT_STAT_HOST : Fld := ⟨0x700071, 7, 7⟩
def SYS_BOOT_STAT_REC_OK : Fld := ⟨0x700071, 6, 6⟩
def SYS_BOOT_STAT_REF : Fld := ⟨0x700071, 5, 5⟩
def SYS_BOOT_STAT_FAIL : Fld := ⟨0x700071, 4, 4⟩
def SYS_SECSTEP_CTL_GO : Fld := ⟨0x700072, 15, 15⟩
def SYS_SECSTEP_CTL_PEND : Fld := ⟨0x700072, 14, 14⟩
def SYS_UPD_CMD_CMD : Fld := ⟨0x700076, 15, 14⟩
def SYS_UPD_STAT_STATE : Fld := ⟨0x700077, 15, 13⟩
def SYS_UPD_STAT_CHECK : Fld := ⟨0x700077, 12, 9⟩
def SYS_UPD_STAT_SW_TICKS : Fld := ⟨0x700077, 8, 6⟩
def SYS_UPD_STAT_CMD_IGN : Fld := ⟨0x700077, 5, 5⟩
def SYS_UPD_STAT_RECOVERED : Fld := ⟨0x700077, 4, 4⟩
def SYS_UPD_TICK_V : Fld := ⟨0x70007A, 15, 0⟩
def SYS_UPD_CFG_COAST : Fld := ⟨0x70007B, 4, 0⟩
def SYS_SLEEP_CMD_ARM : Fld := ⟨0x700081, 15, 15⟩
def SYS_SLEEP_CMD_SNAP : Fld := ⟨0x700081, 14, 14⟩
def SYS_SLEEP_STAT_ARMED : Fld := ⟨0x700082, 15, 15⟩
def SYS_SLEEP_STAT_SNAPPED : Fld := ⟨0x700082, 14, 14⟩
def SYS_SLEEP_STAT_LOS : Fld := ⟨0x700082, 13, 13⟩
def SYS_SLEEP_STAT_OVF : Fld := ⟨0x700082, 12, 12⟩
def SYS_SLEEP_STAT_INPUT : Fld := ⟨0x700082, 11, 11⟩
def SYS_SLEEP_STAT_RET_OK : Fld := ⟨0x700082, 10, 10⟩
def SYS_SLEEP_STAT_CMD_IGN : Fld := ⟨0x700082, 9, 9⟩
def LCS_STAT_LC : Fld := ⟨0x701003, 15, 13⟩
def LCS_STAT_LC_BUSY : Fld := ⟨0x701003, 12, 12⟩
def LCS_STAT_UNSIGNED : Fld := ⟨0x701003, 11, 11⟩
def LCS_STAT_KEYS_VALID : Fld := ⟨0x701003, 10, 10⟩
def LCS_STAT_CFG_GEN : Fld := ⟨0x701003, 9, 7⟩
def LCS_STAT_CFG_FALLBACK : Fld := ⟨0x701003, 6, 6⟩
def LCS_CMD_KEYS_OK : Fld := ⟨0x701005, 15, 15⟩
def LCS_TAMPER_STAT_LATCH : Fld := ⟨0x701006, 15, 12⟩
def LCS_TAMPER_STAT_COUNT : Fld := ⟨0x701006, 7, 0⟩
def LCS_OTP_ADDR_ADDR : Fld := ⟨0x701007, 10, 0⟩
def LCS_OTP_STAT_BUSY : Fld := ⟨0x70100A, 15, 15⟩
def LCS_OTP_STAT_ERR : Fld := ⟨0x70100A, 14, 14⟩
def LCS_KEY_STAT_LAST : Fld := ⟨0x70101F, 1, 0⟩
def LCS_CRYPTO_CMD_OP : Fld := ⟨0x701021, 15, 13⟩
def LCS_CRYPTO_LEN_LEN : Fld := ⟨0x701026, 15, 0⟩
def LCS_CRYPTO_STAT_BUSY : Fld := ⟨0x701027, 15, 15⟩
def LCS_CRYPTO_STAT_DONE : Fld := ⟨0x701027, 14, 14⟩
def LCS_CRYPTO_STAT_OK : Fld := ⟨0x701027, 13, 13⟩
def LCS_CRYPTO_STAT_ERR : Fld := ⟨0x701027, 12, 12⟩
def LCS_CRYPTO_STAT_CMD_IGN : Fld := ⟨0x701027, 11, 11⟩
def FE_CAL_CFG_COEF_SRC : Fld := ⟨0x702003, 15, 15⟩
def FE_CAL_CFG_DC_TRACK : Fld := ⟨0x702003, 14, 14⟩
def FE_CTRL_ENABLE (i : Nat) : Fld := ⟨0x702004 + i, 15, 15⟩
def FE_CTRL_BIAS_EN (i : Nat) : Fld := ⟨0x702004 + i, 14, 14⟩
def FE_CTRL_AUTO_RETRY (i : Nat) : Fld := ⟨0x702004 + i, 13, 13⟩
def FE_CTRL_OPEN_ACT (i : Nat) : Fld := ⟨0x702004 + i, 12, 12⟩
def FE_CTRL (i : Nat) : Fld := ⟨0x702004 + i, 15, 0⟩
def FE_CMD_CLEAR (i : Nat) : Fld := ⟨0x702006 + i, 15, 15⟩
def FE_CMD_RECAL (i : Nat) : Fld := ⟨0x702006 + i, 2, 0⟩
def FE_STAT_STATE (i : Nat) : Fld := ⟨0x702008 + i, 15, 13⟩
def FE_STAT_CAUSE (i : Nat) : Fld := ⟨0x702008 + i, 12, 10⟩
def FE_STAT_PATH (i : Nat) : Fld := ⟨0x702008 + i, 9, 4⟩
def FE_STAT_CMD_IGN (i : Nat) : Fld := ⟨0x702008 + i, 3, 3⟩
def FE_BIAS_CFG_RETRY_INT (i : Nat) : Fld := ⟨0x70200A + i, 15, 8⟩
def FE_BIAS_CFG_OPEN_TH (i : Nat) : Fld := ⟨0x70200A + i, 6, 0⟩
def FE_BIAS_I_VALID (i : Nat) : Fld := ⟨0x70200C + i, 15, 15⟩
def FE_BIAS_I_BSTAT (i : Nat) : Fld := ⟨0x70200C + i, 14, 13⟩
def FE_BIAS_I_CURRENT (i : Nat) : Fld := ⟨0x70200C + i, 9, 0⟩
def FE_VIN_ANT_VIN_LOW : Fld := ⟨0x70200E, 15, 15⟩
def FE_VIN_ANT_VIN_HIGH : Fld := ⟨0x70200E, 14, 14⟩
def FE_VIN_ANT_VOLT : Fld := ⟨0x70200E, 9, 0⟩
def FE_AGC_CFG_MODE (i : Nat) : Fld := ⟨0x702010 + i, 15, 14⟩
def FE_AGC_CFG_STEP_MAX (i : Nat) : Fld := ⟨0x702010 + i, 13, 12⟩
def FE_AGC_CFG_TARGET (i : Nat) : Fld := ⟨0x702010 + i, 5, 0⟩
def FE_AGC_MAN_GAIN (i : Nat) : Fld := ⟨0x702018 + i, 6, 0⟩
def FE_AGC_GAIN_AT_MAX (i : Nat) : Fld := ⟨0x702020 + i, 15, 15⟩
def FE_AGC_GAIN_AT_MIN (i : Nat) : Fld := ⟨0x702020 + i, 14, 14⟩
def FE_AGC_GAIN_TICK_GAIN (i : Nat) : Fld := ⟨0x702020 + i, 13, 7⟩
def FE_AGC_GAIN_GAIN (i : Nat) : Fld := ⟨0x702020 + i, 6, 0⟩
def FE_ADC_STAT_CLIP (i : Nat) : Fld := ⟨0x702028 + i, 15, 8⟩
def FE_ADC_STAT_LEVEL (i : Nat) : Fld := ⟨0x702028 + i, 7, 0⟩
def FE_IQ_DC_DC_Q (i : Nat) : Fld := ⟨0x702030 + i, 15, 8⟩
def FE_IQ_DC_DC_I (i : Nat) : Fld := ⟨0x702030 + i, 7, 0⟩
def FE_IQ_GAIN_GAIN (i : Nat) : Fld := ⟨0x702038 + i, 11, 0⟩
def FE_IQ_PHASE_PHASE (i : Nat) : Fld := ⟨0x702040 + i, 11, 0⟩
def LO_BAND_CFG_LO_N (i : Nat) : Fld := ⟨0x703004 + i, 8, 0⟩
def LO_LOCK_CFG_LK_WIN : Fld := ⟨0x703008, 15, 12⟩
def LO_LOCK_CFG_LK_TOL : Fld := ⟨0x703008, 11, 8⟩
def LO_LOCK_CFG_LK_GOOD : Fld := ⟨0x703008, 7, 4⟩
def LO_LOCK_CFG_LK_BAD : Fld := ⟨0x703008, 3, 0⟩
def LO_STAT_LOCK (i : Nat) : Fld := ⟨0x70300C + i, 15, 15⟩
def LO_STAT_CAL_DONE (i : Nat) : Fld := ⟨0x70300C + i, 14, 14⟩
def LO_STAT_UNLOCK (i : Nat) : Fld := ⟨0x70300C + i, 13, 13⟩
def LO_STAT_VCO_BAND (i : Nat) : Fld := ⟨0x70300C + i, 5, 0⟩
def DFE_MIX_MIX_OFS (i : Nat) : Fld := ⟨0x704004 + i, 15, 0⟩
def DFE_NOTCH_CFG_BW : Fld := ⟨0x704007, 13, 8⟩
def DFE_NOTCH_CFG_LINK : Fld := ⟨0x704007, 2, 0⟩
def DFE_BLANK_CNT_COUNT (i : Nat) : Fld := ⟨0x704010 + i, 11, 0⟩
def DFE_NOTCH_CTL_MODE (i : Nat) : Fld := ⟨0x704018 + i, 15, 8⟩
def DFE_NOTCH_CTL_EN (i : Nat) : Fld := ⟨0x704018 + i, 7, 0⟩
def DFE_NOTCH_STAT_ASSIGNED (i : Nat) : Fld := ⟨0x704020 + i, 7, 0⟩
def DFE_REQ_MODE (i : Nat) : Fld := ⟨0x704028 + i, 15, 15⟩
def DFE_REQ_TARGET (i : Nat) : Fld := ⟨0x704028 + i, 14, 8⟩
def DFE_REQ_GAIN (i : Nat) : Fld := ⟨0x704028 + i, 7, 0⟩
def DFE_SPEC_STAT_VALID (i : Nat) : Fld := ⟨0x704030 + i, 15, 15⟩
def DFE_SPEC_STAT_PEAK_BIN (i : Nat) : Fld := ⟨0x704030 + i, 14, 5⟩
def DFE_SPEC_STAT_EXCESS (i : Nat) : Fld := ⟨0x704030 + i, 4, 0⟩
def DFE_JAM_VALID (i : Nat) : Fld := ⟨0x704038 + i, 15, 15⟩
def DFE_JAM_CW (i : Nat) : Fld := ⟨0x704038 + i, 14, 14⟩
def DFE_JAM_UNCOV (i : Nat) : Fld := ⟨0x704038 + i, 13, 13⟩
def DFE_JAM_BROAD (i : Nat) : Fld := ⟨0x704038 + i, 12, 12⟩
def DFE_JAM_PULSE (i : Nat) : Fld := ⟨0x704038 + i, 11, 11⟩
def DFE_JAM_CLIP (i : Nat) : Fld := ⟨0x704038 + i, 10, 10⟩
def DFE_JAM_LEVEL (i : Nat) : Fld := ⟨0x704038 + i, 9, 8⟩
def DFE_JAM_AGC_DROP (i : Nat) : Fld := ⟨0x704038 + i, 6, 0⟩
def DFE_JAM_REF_REF_GAIN (i : Nat) : Fld := ⟨0x704040 + i, 6, 0⟩
def DFE_JAM_CFG_CW_TH : Fld := ⟨0x704048, 15, 11⟩
def DFE_JAM_CFG_BB_TH : Fld := ⟨0x704048, 10, 5⟩
def DFE_JAM_CFG_PULSE_TH : Fld := ⟨0x704048, 3, 0⟩
def DFE_SPEC_CFG_EN : Fld := ⟨0x704049, 15, 15⟩
def DFE_SPEC_CFG_AVG : Fld := ⟨0x704049, 14, 12⟩
def DFE_SPEC_CFG_PERIOD : Fld := ⟨0x704049, 11, 4⟩
def DFE_SPEC_CFG_RELEASE : Fld := ⟨0x704049, 3, 0⟩
def DFE_SPEC_BASE_BASE : Fld := ⟨0x70404A, 11, 0⟩
def DFE_SPEC_SEQ_BUF : Fld := ⟨0x70404B, 15, 15⟩
def DFE_SPEC_SEQ_SEQ : Fld := ⟨0x70404B, 14, 0⟩
def DFE_DEC_CFG_EN : Fld := ⟨0x70404C, 15, 15⟩
def DFE_DEC_CFG_SRC : Fld := ⟨0x70404C, 14, 12⟩
def DFE_DEC_CFG_D : Fld := ⟨0x70404C, 5, 0⟩
def DFE_DEC_MIX_DEC_MIX : Fld := ⟨0x70404D, 15, 0⟩
def DFE_NOTCH_FREQ_FREQ (i : Nat) : Fld := ⟨0x704050 + i, 15, 0⟩
def CH_DESC_REJ_REJ : Fld := ⟨0x705003, 15, 15⟩
def CH_DESC_REJ_CHAN : Fld := ⟨0x705003, 13, 6⟩
def CH_DESC_REJ_WORD : Fld := ⟨0x705003, 5, 0⟩
def CH_CMD_STAT_REJ : Fld := ⟨0x705005, 15, 15⟩
def CH_CMD_STAT_CMD : Fld := ⟨0x705005, 14, 12⟩
def CH_CMD_STAT_WHY : Fld := ⟨0x705005, 11, 8⟩
def CH_CMD_STAT_CHAN : Fld := ⟨0x705005, 7, 0⟩
def CH_STALE_LIM_LIMIT : Fld := ⟨0x705006, 7, 0⟩
def CH_GROUP_STAT_POWERED : Fld := ⟨0x705007, 7, 0⟩
def CH_LATCH_TICK_TICK : Fld := ⟨0x70500E, 15, 0⟩
def CH_AER_SKEW_SKEW (i : Nat) : Fld := ⟨0x705030 + i, 11, 0⟩
def CH_DIV_CFG_DPHI_TH : Fld := ⟨0x705034, 15, 11⟩
def CH_DIV_CFG_FORCE_EN : Fld := ⟨0x705034, 10, 10⟩
def CH_DIR_CFG_DIR_TH : Fld := ⟨0x705035, 15, 8⟩
def CH_DIR_CFG_DIR_MIN_N : Fld := ⟨0x705035, 7, 4⟩
def CH_DIR_CFG_DIR_PERSIST : Fld := ⟨0x705035, 3, 0⟩
def CH_REC_BASE_BASE : Fld := ⟨0x705036, 11, 0⟩
def CH_DIR_CONC_SUSPECT (i : Nat) : Fld := ⟨0x705050 + i, 15, 15⟩
def CH_DIR_CONC_CONC (i : Nat) : Fld := ⟨0x705050 + i, 14, 0⟩
def CH_DIR_N_N (i : Nat) : Fld := ⟨0x705058 + i, 15, 8⟩
def CH_DIR_N_ANGLE (i : Nat) : Fld := ⟨0x705058 + i, 7, 0⟩
def SRCH_CFG_EN : Fld := ⟨0x706003, 15, 15⟩
def SRCH_CFG_HO_EN : Fld := ⟨0x706003, 14, 14⟩
def SRCH_CFG_REQUEUE : Fld := ⟨0x706003, 13, 13⟩
def SRCH_CFG_PIPE_MAX : Fld := ⟨0x706003, 12, 10⟩
def SRCH_CAP_CFG_MODE : Fld := ⟨0x706004, 15, 14⟩
def SRCH_CAP_CFG_LEN : Fld := ⟨0x706004, 5, 0⟩
def SRCH_CAP_GEN_ACTIVE : Fld := ⟨0x706007, 15, 15⟩
def SRCH_CAP_GEN_SNAP_DONE : Fld := ⟨0x706007, 14, 14⟩
def SRCH_CAP_GEN_CLKQ : Fld := ⟨0x706007, 13, 13⟩
def SRCH_CAP_GEN_GEN : Fld := ⟨0x706007, 7, 0⟩
def SRCH_CAP_MARK_TICK_TICK : Fld := ⟨0x70600A, 15, 0⟩
def SRCH_ABORT_JOB : Fld := ⟨0x70600D, 12, 0⟩
def SRCH_STAT_ABORT_IGN : Fld := ⟨0x70600E, 15, 15⟩
def SRCH_STAT_SHED : Fld := ⟨0x70600E, 13, 13⟩
def SRCH_RES_BASE_BASE : Fld := ⟨0x706010, 10, 0⟩
def SRCH_RES_WR_WR : Fld := ⟨0x706011, 8, 0⟩
def SRCH_RES_RD_RD : Fld := ⟨0x706012, 8, 0⟩
def SRCH_PIPE_STAT_POWERED : Fld := ⟨0x706013, 11, 8⟩
def TB_CTRL_POLICY : Fld := ⟨0x707003, 15, 14⟩
def TB_CTRL_TSRC : Fld := ⟨0x707003, 13, 13⟩
def TB_CTRL_DRIFT_EN : Fld := ⟨0x707003, 12, 12⟩
def TB_CTRL_PCOAST : Fld := ⟨0x707003, 4, 0⟩
def TB_STAT_TRUST : Fld := ⟨0x707010, 15, 13⟩
def TB_STAT_COAST : Fld := ⟨0x707010, 12, 12⟩
def TB_STAT_PCOAST : Fld := ⟨0x707010, 11, 11⟩
def TB_STAT_SLEW : Fld := ⟨0x707010, 10, 10⟩
def TB_STAT_STEP_PEND : Fld := ⟨0x707010, 9, 9⟩
def TB_STAT_HOLD_WAIT : Fld := ⟨0x707010, 8, 8⟩
def TB_STAT_LIMP : Fld := ⟨0x707010, 7, 7⟩
def TB_STAT_BOUND_V : Fld := ⟨0x707010, 6, 6⟩
def TB_STAT_MISS : Fld := ⟨0x707010, 5, 4⟩
def TB_STAT_EXP_STICKY : Fld := ⟨0x707010, 3, 3⟩
def TB_STAT_PC_IGN : Fld := ⟨0x707010, 2, 2⟩
def TB_HOLD_LIMIT : Fld := ⟨0x707011, 15, 0⟩
def TB_SLEW_CFG_SLEW_LIMIT : Fld := ⟨0x707012, 15, 8⟩
def TB_SLEW_CFG_SLEW_MAX : Fld := ⟨0x707012, 7, 0⟩
def TB_ACQ_CFG_DISC_N : Fld := ⟨0x707013, 15, 8⟩
def TB_ACQ_CFG_UNC_MAX : Fld := ⟨0x707013, 7, 0⟩
def TB_HB_CFG_0 : Fld := ⟨0x70701A, 15, 0⟩
def TB_HB_CFG_1_AGE_UNC : Fld := ⟨0x70701B, 15, 8⟩
def TB_HB_CFG_1_TEMP_UNC : Fld := ⟨0x70701B, 7, 0⟩
def TB_TEMP_VALID : Fld := ⟨0x70701C, 15, 15⟩
def TB_TEMP_CODE : Fld := ⟨0x70701C, 11, 0⟩
def TB_LEAP_LEAP : Fld := ⟨0x70701D, 15, 8⟩
def TB_LEAP_PEND : Fld := ⟨0x70701D, 7, 6⟩
def TP_CFG_REJ_REJ : Fld := ⟨0x708002, 15, 15⟩
def TP_CFG_REJ_OFFSET : Fld := ⟨0x708002, 11, 0⟩
def TP_CFG_EN (i : Nat) : Fld := ⟨0x708004 + i, 15, 15⟩
def TP_CFG_SUPPRESS (i : Nat) : Fld := ⟨0x708004 + i, 14, 13⟩
def TP_CFG_POL (i : Nat) : Fld := ⟨0x708004 + i, 12, 12⟩
def TP_CFG_SCALE (i : Nat) : Fld := ⟨0x708004 + i, 11, 9⟩
def TP_PER_UNIT (i : Nat) : Fld := ⟨0x708008 + i, 15, 15⟩
def TP_PER_COUNT (i : Nat) : Fld := ⟨0x708008 + i, 9, 0⟩
def TP_FINE_CAL_VALID : Fld := ⟨0x708019, 15, 15⟩
def TP_FINE_CAL_TAPS : Fld := ⟨0x708019, 6, 0⟩
def TP_TOD_CFG_EN : Fld := ⟨0x70801A, 15, 15⟩
def TP_TOD_CFG_BAUD : Fld := ⟨0x70801A, 14, 13⟩
def TP_TOD_CFG_SCALE : Fld := ⟨0x70801A, 12, 10⟩
def TP_TOD_CFG_START : Fld := ⟨0x70801A, 9, 0⟩
def SYN_CTRL_EN : Fld := ⟨0x709003, 15, 15⟩
def SYN_CTRL_PREF : Fld := ⟨0x709003, 14, 14⟩
def SYN_CTRL_SW_MODE : Fld := ⟨0x709003, 13, 12⟩
def SYN_CTRL_PH_MODE : Fld := ⟨0x709003, 11, 11⟩
def SYN_CTRL_REVERT : Fld := ⟨0x709003, 7, 0⟩
def SYN_CMD_ALIGN_NOW : Fld := ⟨0x709004, 14, 14⟩
def SYN_STAT_STATE : Fld := ⟨0x709005, 15, 13⟩
def SYN_STAT_SETTLED : Fld := ⟨0x709005, 12, 12⟩
def SYN_STAT_ACTIVE : Fld := ⟨0x709005, 11, 11⟩
def SYN_STAT_SLEW : Fld := ⟨0x709005, 10, 10⟩
def SYN_STAT_STEP_REJ : Fld := ⟨0x709005, 8, 8⟩
def SYN_STAT_LIMP_STICKY : Fld := ⟨0x709005, 7, 7⟩
def SYN_STAT_UNLOCK : Fld := ⟨0x709005, 6, 6⟩
def SYN_STAT_HELD : Fld := ⟨0x709005, 5, 5⟩
def SYN_STAT_CMD_IGN : Fld := ⟨0x709005, 4, 4⟩
def SYN_REF_CFG_MUL (i : Nat) : Fld := ⟨0x709008 + i, 15, 14⟩
def SYN_REF_CFG_MON (i : Nat) : Fld := ⟨0x709008 + i, 13, 13⟩
def SYN_LOCK_CFG_LK_WIN : Fld := ⟨0x709010, 15, 12⟩
def SYN_LOCK_CFG_LK_GOOD : Fld := ⟨0x709010, 11, 8⟩
def SYN_LOCK_CFG_LK_BAD : Fld := ⟨0x709010, 7, 4⟩
def SYN_LOCK_TOL_LK_TOL : Fld := ⟨0x709011, 7, 0⟩
def SYN_REVAL_CFG_REVAL : Fld := ⟨0x709012, 15, 8⟩
def SYN_REVAL_CFG_REF_TOL : Fld := ⟨0x709012, 7, 0⟩
def SYN_PSLEW_PSLEW : Fld := ⟨0x709013, 9, 0⟩
def SYN_SETTLE_SETTLE : Fld := ⟨0x709014, 15, 0⟩
def SYN_DITH_CFG_EN : Fld := ⟨0x709015, 15, 15⟩
def SYN_DITH_CFG_AMP : Fld := ⟨0x709015, 14, 13⟩
def SYN_DITH_SEED : Fld := ⟨0x709016, 15, 0⟩
def SYN_RAMP_CTRL_EN : Fld := ⟨0x709024, 15, 15⟩
def SYN_RAMP_CTRL_LOOP : Fld := ⟨0x709024, 14, 14⟩
def SYN_RAMP_CTRL_SEGS : Fld := ⟨0x709024, 13, 11⟩
def SYN_RAMP_CTRL_SEG : Fld := ⟨0x709024, 10, 8⟩
def SYN_OUT_CFG_EN (i : Nat) : Fld := ⟨0x709040 + i, 15, 15⟩
def SYN_OUT_CFG_MUTE (i : Nat) : Fld := ⟨0x709040 + i, 13, 12⟩
def SYN_OUT_CFG_FRAC (i : Nat) : Fld := ⟨0x709040 + i, 11, 11⟩
def SYN_OUT_CFG_D (i : Nat) : Fld := ⟨0x709040 + i, 10, 0⟩
def SYN_SE_CFG_EN (i : Nat) : Fld := ⟨0x70904C + i, 15, 15⟩
def SYN_SE_CFG_MUTE (i : Nat) : Fld := ⟨0x70904C + i, 14, 13⟩
def SYN_SE_CFG_SRC (i : Nat) : Fld := ⟨0x70904C + i, 12, 10⟩
def SYN_SE_DIV_POST (i : Nat) : Fld := ⟨0x70904E + i, 11, 0⟩
def SYN_CMON_STAT_FAIL : Fld := ⟨0x709051, 15, 15⟩
def SYN_CMON_STAT_CAUSE : Fld := ⟨0x709051, 14, 12⟩
def SYN_CMON_STAT_COUNT : Fld := ⟨0x709051, 7, 0⟩
def SLC_CFG_REJ_REJ : Fld := ⟨0x70A002, 15, 15⟩
def SLC_CFG_REJ_OFFSET : Fld := ⟨0x70A002, 11, 0⟩
def SLC_PERMIT_STAT_DROP : Fld := ⟨0x70A003, 11, 11⟩
def SLC_ARM_TIMEOUT_TIMEOUT : Fld := ⟨0x70A004, 15, 0⟩
def SLC_CMD_STAT_CMD_IGN : Fld := ⟨0x70A006, 15, 15⟩
def SLC_CMD_STAT_CMD : Fld := ⟨0x70A006, 14, 12⟩
def SLC_CMD_STAT_GATE : Fld := ⟨0x70A006, 3, 0⟩
def SLC_GATE_CFG_RESUME (i : Nat) : Fld := ⟨0x70A010 + i, 11, 11⟩
def SLC_GATE_TMO_TIMEOUT (i : Nat) : Fld := ⟨0x70A040 + i, 15, 0⟩
def SLC_GATE_STAT_STATE (i : Nat) : Fld := ⟨0x70A050 + i, 15, 13⟩
def SLC_GATE_STAT_TRIP (i : Nat) : Fld := ⟨0x70A050 + i, 12, 12⟩
def SLC_GATE_STAT_REFUSED (i : Nat) : Fld := ⟨0x70A050 + i, 11, 11⟩
def SLC_GATE_STAT_DIS_PEND (i : Nat) : Fld := ⟨0x70A050 + i, 10, 10⟩
def PLC_CFG_REJ_REJ : Fld := ⟨0x70B002, 15, 15⟩
def PLC_CFG_REJ_OFFSET : Fld := ⟨0x70B002, 11, 0⟩
def PLC_CFG_WB_MAX : Fld := ⟨0x70B003, 15, 12⟩
def PLC_CFG_LD_MAX : Fld := ⟨0x70B003, 11, 8⟩
def PLC_CFG_STICK : Fld := ⟨0x70B003, 7, 0⟩
def PLC_BUDGET_BUDGET : Fld := ⟨0x70B004, 15, 0⟩
def PLC_STAT_DEFER : Fld := ⟨0x70B005, 15, 15⟩
def PLC_STAT_SPAN_OVR : Fld := ⟨0x70B005, 14, 14⟩
def PLC_STAT_MIG_ERR : Fld := ⟨0x70B005, 13, 13⟩
def PLC_STAT_DEFER_CNT : Fld := ⟨0x70B005, 7, 0⟩
def PLC_ENG_STAT_OOS : Fld := ⟨0x70B006, 15, 8⟩
def PLC_ENG_PLAN_PLAN (i : Nat) : Fld := ⟨0x70B008 + i, 15, 0⟩
def PLC_ENG_USED_USED (i : Nat) : Fld := ⟨0x70B010 + i, 15, 0⟩
def TASK_EN (i : Nat) : Fld := ⟨0x70B808 + i / 15 * 128 + i % 15 * 8, 15, 15⟩
def TASK_KIND (i : Nat) : Fld := ⟨0x70B808 + i / 15 * 128 + i % 15 * 8, 14, 13⟩
def TASK_CLASS (i : Nat) : Fld := ⟨0x70B808 + i / 15 * 128 + i % 15 * 8, 12, 11⟩
def TASK_SPAN (i : Nat) : Fld := ⟨0x70B808 + i / 15 * 128 + i % 15 * 8, 10, 10⟩
def TASK_PIN (i : Nat) : Fld := ⟨0x70B808 + i / 15 * 128 + i % 15 * 8, 9, 9⟩
def TASK_ENG (i : Nat) : Fld := ⟨0x70B808 + i / 15 * 128 + i % 15 * 8, 8, 6⟩
def TASK_ENTRY (i : Nat) : Fld := ⟨0x70B809 + i / 15 * 128 + i % 15 * 8, 14, 0⟩
def TASK_CHAN (i : Nat) : Fld := ⟨0x70B80A + i / 15 * 128 + i % 15 * 8, 15, 8⟩
def TASK_ORDER (i : Nat) : Fld := ⟨0x70B80A + i / 15 * 128 + i % 15 * 8, 7, 0⟩
def TASK_SB_N (i : Nat) : Fld := ⟨0x70B80B + i / 15 * 128 + i % 15 * 8, 15, 13⟩
def TASK_SB_FIRST (i : Nat) : Fld := ⟨0x70B80B + i / 15 * 128 + i % 15 * 8, 12, 0⟩
def TASK_EST (i : Nat) : Fld := ⟨0x70B80C + i / 15 * 128 + i % 15 * 8, 15, 0⟩
def TASK_SPAN_MAX (i : Nat) : Fld := ⟨0x70B80D + i / 15 * 128 + i % 15 * 8, 15, 12⟩
def TASK_EVERY (i : Nat) : Fld := ⟨0x70B80D + i / 15 * 128 + i % 15 * 8, 11, 6⟩
def TASK_PHASE (i : Nat) : Fld := ⟨0x70B80D + i / 15 * 128 + i % 15 * 8, 5, 0⟩
def TASK_LAST_CYC (i : Nat) : Fld := ⟨0x70B80E + i / 15 * 128 + i % 15 * 8, 15, 0⟩
def TASK_OUTCOME (i : Nat) : Fld := ⟨0x70B80F + i / 15 * 128 + i % 15 * 8, 15, 13⟩
def TASK_LAST_ENG (i : Nat) : Fld := ⟨0x70B80F + i / 15 * 128 + i % 15 * 8, 12, 10⟩
def TASK_RES (i : Nat) : Fld := ⟨0x70B80F + i / 15 * 128 + i % 15 * 8, 9, 9⟩
def TASK_RUNS (i : Nat) : Fld := ⟨0x70B80F + i / 15 * 128 + i % 15 * 8, 7, 0⟩
def WEIR_CAP_P_HYST : Fld := ⟨0x70C003, 15, 12⟩
def WEIR_CAP_CAP : Fld := ⟨0x70C003, 9, 0⟩
def WEIR_TEMP_T_TGT : Fld := ⟨0x70C004, 15, 8⟩
def WEIR_TEMP_T_HYST : Fld := ⟨0x70C004, 7, 4⟩
def WEIR_THETA_THETA : Fld := ⟨0x70C005, 9, 0⟩
def WEIR_HOLD_RECOVER : Fld := ⟨0x70C006, 15, 8⟩
def WEIR_HOLD_T_HOLD : Fld := ⟨0x70C006, 7, 0⟩
def WEIR_LEVEL_LEVEL : Fld := ⟨0x70C007, 15, 12⟩
def WEIR_LEVEL_MIN_LEVEL : Fld := ⟨0x70C007, 11, 8⟩
def WEIR_PASSED_PASSED : Fld := ⟨0x70C008, 8, 0⟩
def WEIR_P_EST_P : Fld := ⟨0x70C009, 15, 0⟩
def WEIR_TMAX_VALID : Fld := ⟨0x70C00A, 15, 15⟩
def WEIR_TMAX_T : Fld := ⟨0x70C00A, 11, 0⟩
def WEIR_STAT_OVER_P : Fld := ⟨0x70C00B, 15, 15⟩
def WEIR_STAT_OVER_T : Fld := ⟨0x70C00B, 14, 14⟩
def WEIR_STAT_RAISED : Fld := ⟨0x70C00B, 13, 13⟩
def WEIR_STAT_LOWERED : Fld := ⟨0x70C00B, 12, 12⟩
def WEIR_STAT_ENG_POWERED : Fld := ⟨0x70C00B, 7, 0⟩
def WEIR_HOT_T_HOT : Fld := ⟨0x70C00C, 15, 8⟩
def WEIR_HOT_HOT_FRAC : Fld := ⟨0x70C00C, 3, 0⟩
def WEIR_GATE_LANE_EN : Fld := ⟨0x70C00D, 15, 15⟩
def WEIR_GATE_PIPE_EN : Fld := ⟨0x70C00D, 14, 14⟩
def WEIR_GATE_ENG_EN : Fld := ⟨0x70C00D, 13, 13⟩
def WEIR_GATE_IDLE : Fld := ⟨0x70C00D, 7, 0⟩
def WEIR_SHED_P_DP (i : Nat) : Fld := ⟨0x70C010 + i, 15, 0⟩
def WEIR_SENS_VALID (i : Nat) : Fld := ⟨0x70C020 + i, 15, 15⟩
def WEIR_SENS_T (i : Nat) : Fld := ⟨0x70C020 + i, 11, 0⟩
def MEM_ECC_CFG_SCRUB_EN : Fld := ⟨0x70D003, 15, 15⟩
def MEM_ECC_CFG_CE_FLT : Fld := ⟨0x70D003, 14, 14⟩
def MEM_ECC_CFG_SCRUB_RATE : Fld := ⟨0x70D003, 3, 0⟩
def MEM_ECC_STAT_UE : Fld := ⟨0x70D004, 15, 15⟩
def MEM_ECC_STAT_CE : Fld := ⟨0x70D004, 14, 14⟩
def MEM_ECC_STAT_UE_CNT : Fld := ⟨0x70D004, 13, 8⟩
def MEM_ECC_STAT_CE_CNT : Fld := ⟨0x70D004, 7, 0⟩
def MEM_ECC_INFO_UE : Fld := ⟨0x70D007, 14, 14⟩
def MEM_ECC_INFO_MASTER : Fld := ⟨0x70D007, 13, 10⟩
def MEM_SCRUB_PASS_PASSES : Fld := ⟨0x70D00A, 15, 0⟩
def MEM_TEST_CFG_EN : Fld := ⟨0x70D010, 15, 15⟩
def MEM_TEST_CFG_INTERVAL : Fld := ⟨0x70D010, 7, 0⟩
def MEM_TEST_STAT_FAIL : Fld := ⟨0x70D011, 15, 15⟩
def MEM_TEST_STAT_BUSY : Fld := ⟨0x70D011, 14, 14⟩
def MEM_TEST_STAT_SKIPPED : Fld := ⟨0x70D011, 13, 8⟩
def MEM_TEST_STAT_ABANDON : Fld := ⟨0x70D011, 7, 0⟩
def MEM_TEST_POS_SLICE : Fld := ⟨0x70D012, 12, 0⟩
def MEM_TEST_FAIL_VALID : Fld := ⟨0x70D013, 15, 15⟩
def MEM_TEST_FAIL_SLICE : Fld := ⟨0x70D013, 12, 0⟩
def MEM_TEST_PASS_PASSES : Fld := ⟨0x70D014, 15, 0⟩
def MEM_BW_CTRL_RETAIN : Fld := ⟨0x70D030, 15, 15⟩
def MEM_BW_CTRL_RESUME : Fld := ⟨0x70D030, 14, 14⟩
def MEM_BW_STAT_READY : Fld := ⟨0x70D031, 15, 15⟩
def MEM_BW_STAT_RETAINED : Fld := ⟨0x70D031, 14, 14⟩
def MEM_BW_STAT_EARLY : Fld := ⟨0x70D031, 13, 13⟩
def MEM_SS_CMD_WIPE : Fld := ⟨0x70D033, 15, 15⟩
def MEM_SS_STAT_WIPING : Fld := ⟨0x70D034, 15, 15⟩
def MEM_SS_STAT_FAIL : Fld := ⟨0x70D034, 14, 14⟩
def MEM_SS_STAT_WIPED : Fld := ⟨0x70D034, 13, 13⟩
def MEM_SS_STAT_CAUSE : Fld := ⟨0x70D034, 12, 11⟩
def MEM_SS_STAT_COUNT : Fld := ⟨0x70D034, 7, 0⟩
def MEM_BANK_STAT_SPARES (i : Nat) : Fld := ⟨0x70D040 + i, 15, 13⟩
def MEM_BANK_STAT_BAD (i : Nat) : Fld := ⟨0x70D040 + i, 12, 12⟩
def ACC_CFG_REJ_LOCK_W : Fld := ⟨0x70E002, 14, 14⟩
def ACC_VIOL (i : Nat) : Fld := ⟨0x70E004 + i, 15, 0⟩
def HP_SEL_CFG_EN (i : Nat) : Fld := ⟨0x70F004 + i, 15, 15⟩
def HP_SEL_CFG_MODE (i : Nat) : Fld := ⟨0x70F004 + i, 14, 14⟩
def HP_SEL_CFG_LANES (i : Nat) : Fld := ⟨0x70F004 + i, 13, 12⟩
def HP_SEL_CFG_CRC_EN (i : Nat) : Fld := ⟨0x70F004 + i, 10, 10⟩
def HP_SEL_CFG_RD_WAIT (i : Nat) : Fld := ⟨0x70F004 + i, 7, 4⟩
def HP_STAT_RD_PAST (i : Nat) : Fld := ⟨0x70F006 + i, 15, 15⟩
def HP_STAT_WR_PAST (i : Nat) : Fld := ⟨0x70F006 + i, 14, 14⟩
def HP_STAT_RD_LATE (i : Nat) : Fld := ⟨0x70F006 + i, 13, 13⟩
def HP_STAT_FULL (i : Nat) : Fld := ⟨0x70F006 + i, 12, 12⟩
def HP_STAT_REJ_CNT (i : Nat) : Fld := ⟨0x70F006 + i, 7, 0⟩
def HP_REJ_INFO_CAUSE (i : Nat) : Fld := ⟨0x70F008 + i, 15, 12⟩
def HP_REJ_INFO_WORDS (i : Nat) : Fld := ⟨0x70F008 + i, 11, 0⟩
def HP_FRAMES_COUNT (i : Nat) : Fld := ⟨0x70F00A + i, 15, 0⟩
def HP_PAGE_PAGE (i : Nat) : Fld := ⟨0x70F00C + i, 15, 0⟩
def HP_PAGE (i : Nat) : Fld := ⟨0x70F00C + i, 15, 0⟩
def HP_ATTN_CTRL_ASSERT : Fld := ⟨0x70F00E, 15, 15⟩
def HP_ATTN_CTRL_AUTO_OUT_0 : Fld := ⟨0x70F00E, 14, 14⟩
def HP_ATTN_CTRL_AUTO_OUT_1 : Fld := ⟨0x70F00E, 13, 13⟩
def HP_RAW_IN_CFG_BASE (i : Nat) : Fld := ⟨0x70F010 + i, 15, 9⟩
def HP_RAW_IN_CFG_SIZE (i : Nat) : Fld := ⟨0x70F010 + i, 8, 3⟩
def HP_RAW_OUT_CFG_BASE (i : Nat) : Fld := ⟨0x70F012 + i, 15, 9⟩
def HP_RAW_OUT_CFG_SIZE (i : Nat) : Fld := ⟨0x70F012 + i, 8, 3⟩
def HP_RAW_IN_WR_V (i : Nat) : Fld := ⟨0x70F014 + i, 15, 0⟩
def HP_RAW_IN_RD_V (i : Nat) : Fld := ⟨0x70F016 + i, 15, 0⟩
def HP_RAW_OUT_WR_V (i : Nat) : Fld := ⟨0x70F018 + i, 15, 0⟩
def HP_RAW_OUT_RD_V (i : Nat) : Fld := ⟨0x70F01A + i, 15, 0⟩
def FP_CTRL_RST_OUT : Fld := ⟨0x710003, 15, 15⟩
def FP_CTRL_XIP_EN : Fld := ⟨0x710003, 14, 14⟩
def FP_CTRL_CHECK : Fld := ⟨0x710003, 13, 13⟩
def FP_CTRL_VERIFY : Fld := ⟨0x710003, 12, 12⟩
def FP_CTRL_RX_DS : Fld := ⟨0x710003, 11, 11⟩
def FP_CTRL_DIV : Fld := ⟨0x710003, 7, 0⟩
def FP_OPC_0_READ : Fld := ⟨0x710007, 15, 8⟩
def FP_OPC_0_PP : Fld := ⟨0x710007, 7, 0⟩
def FP_OPC_1_WREN : Fld := ⟨0x710008, 15, 8⟩
def FP_OPC_1_RDSR : Fld := ⟨0x710008, 7, 0⟩
def FP_PAGE_PAGE_LOG2 : Fld := ⟨0x710009, 15, 12⟩
def FP_PAGE_PROG_TMO : Fld := ⟨0x710009, 11, 0⟩
def FP_CMD_TMO_TMO : Fld := ⟨0x71000A, 15, 0⟩
def FP_XIP_CRC_CRC_BASE (i : Nat) : Fld := ⟨0x71000B + i, 15, 0⟩
def FP_STAT_TMO : Fld := ⟨0x71000D, 12, 12⟩
def FP_STAT_CRC_ERR : Fld := ⟨0x71000D, 11, 11⟩
def FP_STAT_VFY_ERR : Fld := ⟨0x71000D, 10, 10⟩
def FP_STAT_CMD_IGN : Fld := ⟨0x71000D, 9, 9⟩
def FP_STAT : Fld := ⟨0x71000D, 15, 0⟩
def FP_XIP_FLUSH_FLUSH : Fld := ⟨0x71000E, 15, 15⟩
def FP_CMD_CTRL_DIR : Fld := ⟨0x710010, 14, 14⟩
def FP_CMD_CTRL_POLL : Fld := ⟨0x710010, 13, 13⟩
def FP_CMD_CTRL_WREN_FIRST : Fld := ⟨0x710010, 12, 12⟩
def FP_CMD_CTRL_HAS_ADDR : Fld := ⟨0x710010, 11, 11⟩
def FP_CMD_CTRL_OPC : Fld := ⟨0x710010, 7, 0⟩
def FP_CMD_LEN_LEN : Fld := ⟨0x710011, 7, 0⟩
def FP_CMD_ADDR_ADDR (i : Nat) : Fld := ⟨0x710012 + i, 15, 0⟩
def CFL_CTRL_EN : Fld := ⟨0x711003, 15, 15⟩
def CFL_CTRL_CAND : Fld := ⟨0x711003, 14, 14⟩
def CFL_CTRL_ID : Fld := ⟨0x711003, 13, 11⟩
def CFL_CTRL_PORT_EN : Fld := ⟨0x711003, 10, 9⟩
def CFL_AG_CFG_TIME_TOL : Fld := ⟨0x711004, 15, 8⟩
def CFL_AG_CFG_AG_GOOD : Fld := ⟨0x711004, 7, 4⟩
def CFL_AG_CFG_LOSS_N : Fld := ⟨0x711004, 3, 0⟩
def CFL_TIMING_LISTEN_T : Fld := ⟨0x711005, 15, 8⟩
def CFL_TIMING_DIG_GRACE : Fld := ⟨0x711005, 7, 0⟩
def CFL_STAT_STATE : Fld := ⟨0x711006, 15, 13⟩
def CFL_STAT_LEAD : Fld := ⟨0x711006, 12, 10⟩
def CFL_STAT_HOPS : Fld := ⟨0x711006, 9, 7⟩
def CFL_STAT_UPPORT : Fld := ⟨0x711006, 6, 6⟩
def CFL_STAT_AGREE : Fld := ⟨0x711006, 5, 5⟩
def CFL_STAT_LEAD_CHG : Fld := ⟨0x711006, 4, 4⟩
def CFL_STAT_AG_DROP : Fld := ⟨0x711006, 3, 3⟩
def CFL_STAT_OFS_V : Fld := ⟨0x711006, 2, 2⟩
def CFL_STAT : Fld := ⟨0x711006, 15, 0⟩
def CFL_PORT_STAT_PSTATE (i : Nat) : Fld := ⟨0x711007 + i, 15, 14⟩
def CFL_PORT_STAT_NEIGH (i : Nat) : Fld := ⟨0x711007 + i, 13, 11⟩
def CFL_PORT_STAT_CLKQ (i : Nat) : Fld := ⟨0x711007 + i, 10, 10⟩
def CFL_PORT_STAT_CRC_ERR (i : Nat) : Fld := ⟨0x711007 + i, 7, 0⟩
def CFL_PORT_STAT (i : Nat) : Fld := ⟨0x711007 + i, 15, 0⟩
def CFL_PPS_CFG_OUT_EN : Fld := ⟨0x711020, 15, 15⟩
def CFL_PPS_CFG_IN_EN : Fld := ⟨0x711020, 14, 14⟩
def CFL_TX_CMD_PORTS : Fld := ⟨0x711028, 14, 13⟩
def CFL_TX_CMD_DST : Fld := ⟨0x711028, 12, 9⟩
def CFL_TX_CMD_LEN : Fld := ⟨0x711028, 6, 0⟩
def CFL_TX_PTR_PTR : Fld := ⟨0x711029, 10, 0⟩
def CFL_TX_STAT_IGN : Fld := ⟨0x71102A, 14, 14⟩
def CFL_RX_CFG_BASE : Fld := ⟨0x71102B, 15, 9⟩
def CFL_RX_CFG_SIZE : Fld := ⟨0x71102B, 8, 3⟩
def CFL_RX_CFG_EN : Fld := ⟨0x71102B, 2, 2⟩
def CFL_RX_WR_V : Fld := ⟨0x71102C, 15, 0⟩
def CFL_RX_RD_V : Fld := ⟨0x71102D, 15, 0⟩
def CFL_RX_STAT_DROP : Fld := ⟨0x71102E, 7, 0⟩
def FLT_SW_0_UNIT : Fld := ⟨0x712010, 15, 8⟩
def FLT_SW_0_CODE : Fld := ⟨0x712010, 7, 0⟩
def FLT_SW_GO_GO : Fld := ⟨0x712013, 15, 15⟩
def EVT_STAT_OVF : Fld := ⟨0x713004, 15, 15⟩
def EVT_STAT_LOST : Fld := ⟨0x713004, 7, 0⟩
def CH_SEC_PTR (i : Nat) : Wide := ⟨0x640010 + i * 64, 2⟩
def CH_NOISE_OFS (i : Nat) : Wide := ⟨0x640017 + i * 64, 2⟩
def CH_CODE_FRAC_INIT (i : Nat) : Wide := ⟨0x64001C + i * 64, 2⟩
def CH_CODE_CHIP_INIT (i : Nat) : Wide := ⟨0x64001E + i * 64, 2⟩
def CH_CARR_PH_INIT (i : Nat) : Wide := ⟨0x640020 + i * 64, 2⟩
def CH_CODE_RATE (i : Nat) : Wide := ⟨0x640022 + i * 64, 3⟩
def CH_CARR_RATE (i : Nat) : Wide := ⟨0x640025 + i * 64, 3⟩
def CH_PAIR_F_BASE (i : Nat) : Wide := ⟨0x640028 + i * 64, 3⟩
def CH_PAIR_M_BASE (i : Nat) : Wide := ⟨0x64002B + i * 64, 3⟩
def CH_PERIODS (i : Nat) : Wide := ⟨0x64003A + i * 64, 2⟩

end R

/-- Registers of the page 0x640, part 0. -/
def groups640_0 : List RegGroup := [
  -- CH_DESC word 0x0
  ⟨0x640000, 192, 64, 192, 16777216, [0], [⟨15, 14, .rw, .stopped, [(0, 2)]⟩, ⟨13, 12, .rw, .stopped, []⟩, ⟨11, 10, .rw, .stopped, [(0, 2)]⟩, ⟨9, 7, .rw, .stopped, [(0, 5)]⟩, ⟨6, 5, .rw, .stopped, [(0, 2)]⟩, ⟨4, 4, .rw, .stopped, []⟩, ⟨3, 3, .rw, .stopped, []⟩]⟩,
  -- CH_DESC word 0x1
  ⟨0x640001, 192, 64, 192, 16777216, [0], [⟨15, 10, .rw, .stopped, []⟩, ⟨9, 9, .rw, .stopped, []⟩, ⟨8, 8, .rw, .tick, []⟩, ⟨7, 6, .rw, .live, []⟩]⟩,
  -- CH_DESC word 0x2
  ⟨0x640002, 192, 64, 192, 16777216, [0], [⟨15, 0, .rw, .stopped, []⟩]⟩,
  -- CH_DESC word 0x3
  ⟨0x640003, 192, 64, 192, 16777216, [0], [⟨15, 4, .rw, .stopped, [(0, 2048)]⟩, ⟨3, 0, .rw, .stopped, []⟩]⟩,
  -- CH_DESC word 0x4
  ⟨0x640004, 192, 64, 192, 16777216, [0], [⟨15, 0, .rw, .stopped, []⟩]⟩,
  -- CH_DESC word 0x5
  ⟨0x640005, 192, 64, 192, 16777216, [0], [⟨15, 0, .rw, .stopped, []⟩]⟩,
  -- CH_DESC word 0x6
  ⟨0x640006, 192, 64, 192, 16777216, [0], [⟨15, 0, .rw, .stopped, []⟩]⟩,
  -- CH_DESC word 0x7
  ⟨0x640007, 192, 64, 192, 16777216, [0], [⟨15, 0, .rw, .stopped, []⟩]⟩,
  -- CH_DESC word 0x8
  ⟨0x640008, 192, 64, 192, 16777216, [0], [⟨15, 0, .rw, .stopped, []⟩]⟩,
  -- CH_DESC word 0x9
  ⟨0x640009, 192, 64, 192, 16777216, [0], [⟨15, 0, .rw, .stopped, []⟩]⟩,
  -- CH_DESC word 0xa
  ⟨0x64000A, 192, 64, 192, 16777216, [0], [⟨15, 0, .rw, .stopped, []⟩]⟩,
  -- CH_DESC word 0xb
  ⟨0x64000B, 192, 64, 192, 16777216, [0], [⟨15, 0, .rw, .stopped, []⟩]⟩,
  -- CH_DESC word 0xc
  ⟨0x64000C, 192, 64, 192, 16777216, [0], [⟨15, 0, .rw, .stopped, []⟩]⟩,
  -- CH_DESC word 0xd
  ⟨0x64000D, 192, 64, 192, 16777216, [0], [⟨15, 0, .rw, .stopped, []⟩]⟩,
  -- CH_DESC word 0xe
  ⟨0x64000E, 192, 64, 192, 16777216, [0], [⟨15, 0, .rw, .stopped, []⟩]⟩,
  -- CH_DESC word 0xf
  ⟨0x64000F, 192, 64, 192, 16777216, [0], [⟨15, 0, .rw, .stopped, []⟩]⟩]

/-- Registers of the page 0x640, part 1. -/
def groups640_1 : List RegGroup := [
  -- CH_DESC word 0x10
  ⟨0x640010, 192, 64, 192, 16777216, [0], [⟨15, 0, .rw, .stopped, []⟩]⟩,
  -- CH_DESC word 0x11
  ⟨0x640011, 192, 64, 192, 16777216, [0], [⟨1, 0, .rw, .stopped, []⟩]⟩,
  -- CH_DESC word 0x12
  ⟨0x640012, 192, 64, 192, 16777216, [0], [⟨10, 0, .rw, .stopped, []⟩]⟩,
  -- CH_DESC word 0x13
  ⟨0x640013, 192, 64, 192, 16777216, [0], [⟨10, 0, .rw, .tick, []⟩]⟩,
  -- CH_DESC word 0x14
  ⟨0x640014, 192, 64, 192, 16777216, [0], [⟨8, 0, .rw, .tick, [(16, 320)]⟩]⟩,
  -- CH_DESC word 0x15
  ⟨0x640015, 192, 64, 192, 16777216, [0], [⟨11, 0, .rw, .tick, []⟩]⟩,
  -- CH_DESC word 0x16
  ⟨0x640016, 192, 64, 192, 16777216, [0], [⟨15, 15, .rw, .tick, []⟩, ⟨14, 11, .rw, .tick, []⟩, ⟨7, 0, .rw, .tick, []⟩]⟩,
  -- CH_DESC word 0x17
  ⟨0x640017, 192, 64, 192, 16777216, [0], [⟨15, 0, .rw, .stopped, []⟩]⟩,
  -- CH_DESC word 0x18
  ⟨0x640018, 192, 64, 192, 16777216, [0], [⟨3, 0, .rw, .stopped, []⟩]⟩,
  -- CH_DESC word 0x19
  ⟨0x640019, 192, 64, 192, 16777216, [0], [⟨4, 0, .rw, .tick, [(1, 20)]⟩]⟩,
  -- CH_DESC word 0x1a
  ⟨0x64001A, 192, 64, 192, 16777216, [0], [⟨15, 0, .rw, .stopped, []⟩]⟩,
  -- CH_DESC word 0x1b
  ⟨0x64001B, 192, 64, 192, 16777216, [0], [⟨15, 15, .rw, .stopped, []⟩]⟩,
  -- CH_DESC word 0x1c
  ⟨0x64001C, 192, 64, 192, 16777216, [0], [⟨15, 0, .rw, .stopped, []⟩]⟩,
  -- CH_DESC word 0x1d
  ⟨0x64001D, 192, 64, 192, 16777216, [0], [⟨15, 0, .rw, .stopped, []⟩]⟩,
  -- CH_DESC word 0x1e
  ⟨0x64001E, 192, 64, 192, 16777216, [0], [⟨15, 0, .rw, .stopped, []⟩]⟩,
  -- CH_DESC word 0x1f
  ⟨0x64001F, 192, 64, 192, 16777216, [0], [⟨3, 0, .rw, .stopped, []⟩]⟩]

/-- Registers of the page 0x640, part 2. -/
def groups640_2 : List RegGroup := [
  -- CH_DESC word 0x20
  ⟨0x640020, 192, 64, 192, 16777216, [0], [⟨15, 0, .rw, .stopped, []⟩]⟩,
  -- CH_DESC word 0x21
  ⟨0x640021, 192, 64, 192, 16777216, [0], [⟨15, 0, .rw, .stopped, []⟩]⟩,
  -- CH_DESC word 0x22
  ⟨0x640022, 192, 64, 192, 16777216, [0], [⟨15, 0, .rw, .tick, []⟩]⟩,
  -- CH_DESC word 0x23
  ⟨0x640023, 192, 64, 192, 16777216, [0], [⟨15, 0, .rw, .tick, []⟩]⟩,
  -- CH_DESC word 0x24
  ⟨0x640024, 192, 64, 192, 16777216, [0], [⟨15, 0, .rw, .tick, []⟩]⟩,
  -- CH_DESC word 0x25
  ⟨0x640025, 192, 64, 192, 16777216, [0], [⟨15, 0, .rw, .tick, []⟩]⟩,
  -- CH_DESC word 0x26
  ⟨0x640026, 192, 64, 192, 16777216, [0], [⟨15, 0, .rw, .tick, []⟩]⟩,
  -- CH_DESC word 0x27
  ⟨0x640027, 192, 64, 192, 16777216, [0], [⟨15, 0, .rw, .tick, []⟩]⟩,
  -- CH_DESC word 0x28
  ⟨0x640028, 192, 64, 192, 16777216, [0], [⟨15, 0, .rw, .stopped, []⟩]⟩,
  -- CH_DESC word 0x29
  ⟨0x640029, 192, 64, 192, 16777216, [0], [⟨15, 0, .rw, .stopped, []⟩]⟩,
  -- CH_DESC word 0x2a
  ⟨0x64002A, 192, 64, 192, 16777216, [0], [⟨15, 0, .rw, .stopped, []⟩]⟩,
  -- CH_DESC word 0x2b
  ⟨0x64002B, 192, 64, 192, 16777216, [0], [⟨15, 0, .rw, .stopped, []⟩]⟩,
  -- CH_DESC word 0x2c
  ⟨0x64002C, 192, 64, 192, 16777216, [0], [⟨15, 0, .rw, .stopped, []⟩]⟩,
  -- CH_DESC word 0x2d
  ⟨0x64002D, 192, 64, 192, 16777216, [0], [⟨15, 0, .rw, .stopped, []⟩]⟩,
  -- CH_DESC word 0x2e
  ⟨0x64002E, 192, 64, 192, 16777216, [0], [⟨15, 0, .rw, .stopped, []⟩]⟩,
  -- CH_DESC word 0x2f
  ⟨0x64002F, 192, 64, 192, 16777216, [0], [⟨15, 0, .rw, .stopped, []⟩]⟩]

/-- Registers of the page 0x640, part 3. -/
def groups640_3 : List RegGroup := [
  -- CH_DESC word 0x30
  ⟨0x640030, 192, 64, 192, 16777216, [576], [⟨15, 14, .rw, .tick, [(0, 2)]⟩, ⟨13, 13, .rw, .stopped, []⟩, ⟨12, 7, .rw, .tick, []⟩, ⟨6, 4, .rw, .tick, []⟩, ⟨3, 3, .rw, .tick, []⟩, ⟨2, 0, .rw, .tick, []⟩]⟩,
  -- CH_DESC word 0x31
  ⟨0x640031, 192, 64, 192, 16777216, [0], [⟨15, 0, .rw, .tick, []⟩]⟩,
  -- CH_DESC word 0x32
  ⟨0x640032, 192, 64, 192, 16777216, [0], [⟨15, 0, .rw, .tick, []⟩]⟩,
  -- CH_DESC word 0x33
  ⟨0x640033, 192, 64, 192, 16777216, [50], [⟨15, 8, .rw, .tick, []⟩, ⟨7, 0, .rw, .tick, [(1, 255)]⟩]⟩,
  -- CH_DESC word 0x38
  ⟨0x640038, 192, 64, 192, 16777216, [0], [⟨15, 13, .ro, .live, []⟩, ⟨12, 10, .ro, .live, []⟩, ⟨9, 9, .ro, .live, []⟩, ⟨8, 8, .ro, .live, []⟩, ⟨7, 7, .ro, .live, []⟩, ⟨6, 6, .ro, .live, []⟩]⟩,
  -- CH_DESC word 0x39
  ⟨0x640039, 192, 64, 192, 16777216, [0], [⟨7, 0, .ro, .live, []⟩]⟩,
  -- CH_DESC word 0x3a
  ⟨0x64003A, 192, 64, 192, 16777216, [0], [⟨15, 0, .ro, .live, []⟩]⟩,
  -- CH_DESC word 0x3b
  ⟨0x64003B, 192, 64, 192, 16777216, [0], [⟨15, 0, .ro, .live, []⟩]⟩]

/-- Registers of the page 0x640. -/
def groups640 : List RegGroup := groups640_0 ++ groups640_1 ++ groups640_2 ++ groups640_3

/-- Registers of the page 0x650. -/
def groups650 : List RegGroup := [
  -- JOB word 0x0
  ⟨0x650000, 6144, 8, 6144, 16777216, [0], [⟨15, 13, .rw, .live, []⟩, ⟨12, 11, .rw, .live, []⟩, ⟨10, 9, .rw, .live, []⟩, ⟨8, 8, .rw, .live, []⟩, ⟨7, 7, .rw, .live, []⟩, ⟨3, 0, .rw, .live, []⟩]⟩,
  -- JOB word 0x1
  ⟨0x650001, 6144, 8, 6144, 16777216, [0], [⟨15, 0, .rw, .live, []⟩]⟩,
  -- JOB word 0x2
  ⟨0x650002, 6144, 8, 6144, 16777216, [0], [⟨15, 8, .rw, .live, []⟩, ⟨7, 6, .rw, .live, []⟩, ⟨5, 0, .rw, .live, []⟩]⟩,
  -- JOB word 0x3
  ⟨0x650003, 6144, 8, 6144, 16777216, [0], [⟨15, 12, .rw, .live, []⟩, ⟨10, 0, .rw, .live, []⟩]⟩,
  -- JOB word 0x4
  ⟨0x650004, 6144, 8, 6144, 16777216, [0], [⟨15, 0, .rw, .live, []⟩]⟩,
  -- JOB word 0x5
  ⟨0x650005, 6144, 8, 6144, 16777216, [0], [⟨15, 8, .rw, .live, []⟩, ⟨7, 0, .rw, .live, []⟩]⟩,
  -- JOB word 0x6
  ⟨0x650006, 6144, 8, 6144, 16777216, [0], [⟨15, 8, .rw, .live, []⟩, ⟨7, 0, .rw, .live, []⟩]⟩,
  -- JOB word 0x7
  ⟨0x650007, 6144, 8, 6144, 16777216, [0], [⟨15, 0, .rw, .live, []⟩]⟩]

/-- Registers of the page 0x700, part 0. -/
def groups700_0 : List RegGroup := [
  -- SYS_DEVICE_ID
  ⟨0x700001, 1, 1, 1, 16777216, [35106], [⟨15, 4, .ro, .live, []⟩, ⟨3, 0, .ro, .live, []⟩]⟩,
  -- SYS_CFG_REJ
  ⟨0x700002, 1, 1, 1, 16777216, [0], [⟨15, 15, .w1c, .live, []⟩, ⟨11, 0, .ro, .live, []⟩]⟩,
  -- SYS_TICK_COUNT
  ⟨0x700010, 2, 1, 2, 16777216, [0], [⟨15, 0, .ro, .live, []⟩]⟩,
  -- SYS_TICK_PHASE
  ⟨0x700012, 1, 1, 1, 16777216, [0], [⟨14, 0, .ro, .live, []⟩]⟩,
  -- SYS_TICK_STAT
  ⟨0x700013, 1, 1, 1, 16777216, [0], [⟨15, 15, .ro, .live, []⟩, ⟨14, 14, .w1c, .live, []⟩, ⟨13, 13, .w1c, .live, []⟩, ⟨11, 6, .rc, .live, []⟩, ⟨5, 0, .rc, .live, []⟩]⟩,
  -- SYS_TICK_CFG
  ⟨0x700014, 1, 1, 1, 16777216, [1], [⟨1, 1, .rw, .live, []⟩, ⟨0, 0, .rw, .live, []⟩]⟩,
  -- SYS_ENG_CTRL
  ⟨0x700020, 8, 1, 8, 16777216, [0], [⟨15, 15, .wo, .live, []⟩, ⟨14, 14, .wo, .live, []⟩]⟩,
  -- SYS_ENG_STAT
  ⟨0x700028, 8, 1, 8, 16777216, [0], [⟨15, 15, .ro, .live, []⟩, ⟨14, 14, .ro, .live, []⟩, ⟨13, 11, .ro, .live, []⟩, ⟨10, 10, .w1c, .live, []⟩, ⟨9, 0, .rc, .live, []⟩]⟩,
  -- SYS_SEM
  ⟨0x700040, 32, 1, 32, 16777216, [0], [⟨15, 15, .rc, .live, []⟩, ⟨14, 14, .ro, .live, []⟩, ⟨3, 0, .ro, .live, []⟩]⟩,
  -- SYS_UC_ADDR
  ⟨0x700060, 1, 1, 1, 16777216, [0], [⟨15, 13, .rw, .live, []⟩, ⟨12, 12, .ro, .live, []⟩, ⟨8, 8, .rw, .live, []⟩, ⟨7, 0, .rw, .live, []⟩]⟩,
  -- SYS_UC_DATA
  ⟨0x700061, 3, 1, 3, 16777216, [0], [⟨15, 0, .ro, .live, []⟩]⟩,
  -- SYS_RESET
  ⟨0x700070, 1, 1, 1, 16777216, [0], [⟨15, 15, .wo, .live, []⟩]⟩,
  -- SYS_BOOT_STAT
  ⟨0x700071, 1, 1, 1, 16777216, [0], [⟨15, 14, .ro, .live, []⟩, ⟨13, 12, .ro, .live, []⟩, ⟨11, 9, .ro, .live, []⟩, ⟨8, 8, .ro, .live, []⟩, ⟨7, 7, .ro, .live, []⟩, ⟨6, 6, .ro, .live, []⟩, ⟨5, 5, .ro, .live, []⟩, ⟨4, 4, .ro, .live, []⟩]⟩,
  -- SYS_SECSTEP_CTL
  ⟨0x700072, 1, 1, 1, 16777216, [0], [⟨15, 15, .wo, .live, []⟩, ⟨14, 14, .ro, .live, []⟩]⟩,
  -- SYS_SECSTEP
  ⟨0x700073, 3, 1, 3, 16777216, [0], [⟨15, 0, .rw, .live, []⟩]⟩,
  -- SYS_UPD_CMD
  ⟨0x700076, 1, 1, 1, 16777216, [0], [⟨15, 14, .wo, .live, [(1, 3)]⟩]⟩]

/-- Registers of the page 0x700, part 1. -/
def groups700_1 : List RegGroup := [
  -- SYS_UPD_STAT
  ⟨0x700077, 1, 1, 1, 16777216, [0], [⟨15, 13, .ro, .live, []⟩, ⟨12, 9, .ro, .live, []⟩, ⟨8, 6, .ro, .live, []⟩, ⟨5, 5, .w1c, .live, []⟩, ⟨4, 4, .w1c, .live, []⟩]⟩,
  -- SYS_UPD_SRC
  ⟨0x700078, 1, 2, 1, 16777216, [0], [⟨15, 0, .rw, .live, []⟩]⟩,
  -- SYS_UPD_SRC
  ⟨0x700079, 1, 2, 1, 16777216, [0], [⟨7, 0, .rw, .live, []⟩]⟩,
  -- SYS_UPD_TICK
  ⟨0x70007A, 1, 1, 1, 16777216, [0], [⟨15, 0, .rw, .live, []⟩]⟩,
  -- SYS_UPD_CFG
  ⟨0x70007B, 1, 1, 1, 16777216, [20], [⟨4, 0, .rw, .live, [(1, 20)]⟩]⟩,
  -- SYS_SLEEP_CMD
  ⟨0x700081, 1, 1, 1, 16777216, [0], [⟨15, 15, .wo, .live, []⟩, ⟨14, 14, .wo, .live, []⟩]⟩,
  -- SYS_SLEEP_STAT
  ⟨0x700082, 1, 1, 1, 16777216, [0], [⟨15, 15, .ro, .live, []⟩, ⟨14, 14, .ro, .live, []⟩, ⟨13, 13, .ro, .live, []⟩, ⟨12, 12, .ro, .live, []⟩, ⟨11, 11, .ro, .live, []⟩, ⟨10, 10, .ro, .live, []⟩, ⟨9, 9, .w1c, .live, []⟩]⟩,
  -- SYS_LPC_T0
  ⟨0x700083, 6, 1, 6, 16777216, [0], [⟨15, 0, .ro, .live, []⟩]⟩,
  -- SYS_LPC_T1
  ⟨0x700089, 6, 1, 6, 16777216, [0], [⟨15, 0, .ro, .live, []⟩]⟩,
  -- SYS_LPC_CNT
  ⟨0x70008F, 3, 1, 3, 16777216, [0], [⟨15, 0, .ro, .live, []⟩]⟩]

/-- Registers of the page 0x700. -/
def groups700 : List RegGroup := groups700_0 ++ groups700_1

/-- Registers of the page 0x701, part 0. -/
def groups701_0 : List RegGroup := [
  -- LCS_CFG_REJ
  ⟨0x701002, 1, 1, 1, 16777216, [0], [⟨15, 15, .w1c, .live, []⟩, ⟨11, 0, .ro, .live, []⟩]⟩,
  -- LCS_STAT
  ⟨0x701003, 1, 1, 1, 16777216, [1024], [⟨15, 13, .ro, .live, []⟩, ⟨12, 12, .ro, .live, []⟩, ⟨11, 11, .ro, .live, []⟩, ⟨10, 10, .ro, .live, []⟩, ⟨9, 7, .ro, .live, []⟩, ⟨6, 6, .ro, .live, []⟩, ⟨5, 5, .ro, .live, []⟩]⟩,
  -- LCS_LC_CMD
  ⟨0x701004, 1, 1, 1, 16777216, [0], [⟨15, 8, .wo, .live, [(165, 165)]⟩, ⟨2, 0, .wo, .live, [(1, 4)]⟩]⟩,
  -- LCS_CMD
  ⟨0x701005, 1, 1, 1, 16777216, [0], [⟨15, 15, .wo, .live, []⟩]⟩,
  -- LCS_TAMPER_STAT
  ⟨0x701006, 1, 1, 1, 16777216, [0], [⟨15, 12, .w1c, .live, []⟩, ⟨11, 8, .ro, .live, []⟩, ⟨7, 0, .ro, .live, []⟩]⟩,
  -- LCS_OTP_ADDR
  ⟨0x701007, 1, 1, 1, 16777216, [0], [⟨10, 0, .rw, .live, []⟩]⟩,
  -- LCS_OTP_DATA
  ⟨0x701008, 1, 1, 1, 16777216, [0], [⟨15, 0, .ro, .live, []⟩]⟩,
  -- LCS_OTP_PROG
  ⟨0x701009, 1, 1, 1, 16777216, [0], [⟨15, 15, .wo, .live, []⟩, ⟨6, 0, .wo, .live, [(1, 127)]⟩]⟩,
  -- LCS_OTP_STAT
  ⟨0x70100A, 1, 1, 1, 16777216, [0], [⟨15, 15, .ro, .live, []⟩, ⟨14, 14, .w1c, .live, []⟩]⟩,
  -- LCS_OTP_BUF
  ⟨0x701010, 15, 1, 15, 16777216, [0], [⟨15, 0, .rw, .live, []⟩]⟩,
  -- LCS_KEY_STAT
  ⟨0x70101F, 1, 1, 1, 16777216, [0], [⟨15, 12, .ro, .live, []⟩, ⟨11, 8, .ro, .live, []⟩, ⟨7, 4, .ro, .live, []⟩, ⟨1, 0, .ro, .live, []⟩]⟩,
  -- LCS_KEY_REVOKE
  ⟨0x701020, 1, 1, 1, 16777216, [0], [⟨15, 8, .wo, .live, [(90, 90)]⟩, ⟨1, 0, .wo, .live, []⟩]⟩,
  -- LCS_CRYPTO_CMD
  ⟨0x701021, 1, 1, 1, 16777216, [0], [⟨15, 13, .wo, .live, [(1, 5)]⟩]⟩,
  -- LCS_CRYPTO_PTR
  ⟨0x701022, 2, 2, 2, 16777216, [0], [⟨15, 0, .rw, .live, []⟩]⟩,
  -- LCS_CRYPTO_PTR
  ⟨0x701023, 2, 2, 2, 16777216, [0], [⟨7, 0, .rw, .live, []⟩]⟩,
  -- LCS_CRYPTO_LEN
  ⟨0x701026, 1, 1, 1, 16777216, [0], [⟨15, 0, .rw, .live, []⟩]⟩]

/-- Registers of the page 0x701, part 1. -/
def groups701_1 : List RegGroup := [
  -- LCS_CRYPTO_STAT
  ⟨0x701027, 1, 1, 1, 16777216, [0], [⟨15, 15, .ro, .live, []⟩, ⟨14, 14, .w1c, .live, []⟩, ⟨13, 13, .ro, .live, []⟩, ⟨12, 12, .w1c, .live, []⟩, ⟨11, 11, .w1c, .live, []⟩]⟩,
  -- LCS_THREAT
  ⟨0x701028, 1, 1, 1, 16777216, [0], [⟨15, 14, .ro, .live, []⟩, ⟨13, 13, .ro, .live, []⟩, ⟨12, 12, .ro, .live, []⟩, ⟨11, 10, .rw, .live, []⟩, ⟨9, 8, .rw, .live, []⟩]⟩]

/-- Registers of the page 0x701. -/
def groups701 : List RegGroup := groups701_0 ++ groups701_1

/-- Registers of the page 0x702. -/
def groups702 : List RegGroup := [
  -- FE_COMMIT
  ⟨0x702001, 1, 1, 1, 16777216, [0], [⟨0, 0, .wo, .live, []⟩]⟩,
  -- FE_CFG_REJ
  ⟨0x702002, 1, 1, 1, 16777216, [0], [⟨15, 15, .w1c, .live, []⟩, ⟨11, 0, .ro, .live, []⟩]⟩,
  -- FE_CAL_CFG
  ⟨0x702003, 1, 1, 1, 16777216, [16384], [⟨15, 15, .rw, .live, []⟩, ⟨14, 14, .rw, .live, []⟩]⟩,
  -- FE_CTRL
  ⟨0x702004, 2, 1, 2, 16777216, [24583], [⟨15, 15, .rw, .live, []⟩, ⟨14, 14, .rw, .live, []⟩, ⟨13, 13, .rw, .live, []⟩, ⟨12, 12, .rw, .live, []⟩, ⟨2, 0, .rw, .live, []⟩]⟩,
  -- FE_CMD
  ⟨0x702006, 2, 1, 2, 16777216, [0], [⟨15, 15, .wo, .live, []⟩, ⟨2, 0, .wo, .live, []⟩]⟩,
  -- FE_STAT
  ⟨0x702008, 2, 1, 2, 16777216, [0], [⟨15, 13, .ro, .live, []⟩, ⟨12, 10, .ro, .live, []⟩, ⟨9, 4, .ro, .live, []⟩, ⟨3, 3, .w1c, .live, []⟩]⟩,
  -- FE_BIAS_CFG
  ⟨0x70200A, 2, 1, 2, 16777216, [25606], [⟨15, 8, .rw, .live, [(1, 255)]⟩, ⟨6, 0, .rw, .live, []⟩]⟩,
  -- FE_BIAS_I
  ⟨0x70200C, 2, 1, 2, 16777216, [0], [⟨15, 15, .ro, .live, []⟩, ⟨14, 13, .ro, .live, []⟩, ⟨9, 0, .ro, .live, []⟩]⟩,
  -- FE_VIN_ANT
  ⟨0x70200E, 1, 1, 1, 16777216, [0], [⟨15, 15, .ro, .live, []⟩, ⟨14, 14, .ro, .live, []⟩, ⟨9, 0, .ro, .live, []⟩]⟩,
  -- FE_AGC_CFG
  ⟨0x702010, 6, 1, 6, 16777216, [4120], [⟨15, 14, .rw, .live, [(0, 2)]⟩, ⟨13, 12, .rw, .live, []⟩, ⟨5, 0, .rw, .live, [(4, 63)]⟩]⟩,
  -- FE_AGC_MAN
  ⟨0x702018, 6, 1, 6, 16777216, [60], [⟨6, 0, .rw, .live, [(0, 120)]⟩]⟩,
  -- FE_AGC_GAIN
  ⟨0x702020, 6, 1, 6, 16777216, [0], [⟨15, 15, .ro, .live, []⟩, ⟨14, 14, .ro, .live, []⟩, ⟨13, 7, .ro, .live, []⟩, ⟨6, 0, .ro, .live, []⟩]⟩,
  -- FE_ADC_STAT
  ⟨0x702028, 6, 1, 6, 16777216, [0], [⟨15, 8, .ro, .live, []⟩, ⟨7, 0, .ro, .live, []⟩]⟩,
  -- FE_IQ_DC
  ⟨0x702030, 6, 1, 6, 16777216, [0], [⟨15, 8, .rw, .tick, []⟩, ⟨7, 0, .rw, .tick, []⟩]⟩,
  -- FE_IQ_GAIN
  ⟨0x702038, 6, 1, 6, 16777216, [0], [⟨11, 0, .rw, .tick, []⟩]⟩,
  -- FE_IQ_PHASE
  ⟨0x702040, 6, 1, 6, 16777216, [0], [⟨11, 0, .rw, .tick, []⟩]⟩]

/-- Registers of the page 0x703. -/
def groups703 : List RegGroup := [
  -- LO_COMMIT
  ⟨0x703001, 1, 1, 1, 16777216, [0], [⟨0, 0, .wo, .live, []⟩]⟩,
  -- LO_CFG_REJ
  ⟨0x703002, 1, 1, 1, 16777216, [0], [⟨15, 15, .w1c, .live, []⟩, ⟨11, 0, .ro, .live, []⟩]⟩,
  -- LO_BAND_CFG
  ⟨0x703004, 3, 1, 3, 16777216, [310, 327, 413], [⟨8, 0, .rw, .tick, [(295, 425)]⟩]⟩,
  -- LO_LOCK_CFG
  ⟨0x703008, 1, 1, 1, 16777216, [50242], [⟨15, 12, .rw, .live, [(10, 15)]⟩, ⟨11, 8, .rw, .live, [(1, 15)]⟩, ⟨7, 4, .rw, .live, [(1, 15)]⟩, ⟨3, 0, .rw, .live, [(1, 15)]⟩]⟩,
  -- LO_STAT
  ⟨0x70300C, 3, 1, 3, 16777216, [0], [⟨15, 15, .ro, .live, []⟩, ⟨14, 14, .ro, .live, []⟩, ⟨13, 13, .w1c, .live, []⟩, ⟨5, 0, .ro, .live, []⟩]⟩]

/-- Registers of the page 0x704, part 0. -/
def groups704_0 : List RegGroup := [
  -- DFE_COMMIT
  ⟨0x704001, 1, 1, 1, 16777216, [0], [⟨0, 0, .wo, .live, []⟩]⟩,
  -- DFE_CFG_REJ
  ⟨0x704002, 1, 1, 1, 16777216, [0], [⟨15, 15, .w1c, .live, []⟩, ⟨11, 0, .ro, .live, []⟩]⟩,
  -- DFE_MIX
  ⟨0x704004, 3, 1, 3, 16777216, [64816, 64992, 64400], [⟨15, 0, .rw, .tick, []⟩]⟩,
  -- DFE_NOTCH_CFG
  ⟨0x704007, 1, 1, 1, 16777216, [5383], [⟨13, 8, .rw, .tick, []⟩, ⟨2, 0, .rw, .tick, []⟩]⟩,
  -- DFE_BLANK
  ⟨0x704008, 6, 1, 6, 16777216, [34916], [⟨15, 15, .rw, .live, []⟩, ⟨14, 8, .rw, .live, []⟩, ⟨6, 0, .rw, .live, [(1, 127)]⟩]⟩,
  -- DFE_BLANK_CNT
  ⟨0x704010, 6, 1, 6, 16777216, [0], [⟨11, 0, .ro, .live, []⟩]⟩,
  -- DFE_NOTCH_CTL
  ⟨0x704018, 6, 1, 6, 16777216, [255], [⟨15, 8, .rw, .tick, []⟩, ⟨7, 0, .rw, .tick, []⟩]⟩,
  -- DFE_NOTCH_STAT
  ⟨0x704020, 6, 1, 6, 16777216, [0], [⟨7, 0, .ro, .live, []⟩]⟩,
  -- DFE_REQ
  ⟨0x704028, 6, 1, 6, 16777216, [8224], [⟨15, 15, .rw, .tick, []⟩, ⟨14, 8, .rw, .tick, [(8, 127)]⟩, ⟨7, 0, .rw, .tick, [(1, 255)]⟩]⟩,
  -- DFE_SPEC_STAT
  ⟨0x704030, 6, 1, 6, 16777216, [0], [⟨15, 15, .ro, .live, []⟩, ⟨14, 5, .ro, .live, []⟩, ⟨4, 0, .ro, .live, []⟩]⟩,
  -- DFE_JAM
  ⟨0x704038, 6, 1, 6, 16777216, [0], [⟨15, 15, .ro, .live, []⟩, ⟨14, 14, .ro, .live, []⟩, ⟨13, 13, .ro, .live, []⟩, ⟨12, 12, .ro, .live, []⟩, ⟨11, 11, .ro, .live, []⟩, ⟨10, 10, .ro, .live, []⟩, ⟨9, 8, .ro, .live, []⟩, ⟨6, 0, .ro, .live, []⟩]⟩,
  -- DFE_JAM_REF
  ⟨0x704040, 6, 1, 6, 16777216, [0], [⟨15, 15, .wo, .live, []⟩, ⟨6, 0, .rw, .live, [(0, 120)]⟩]⟩,
  -- DFE_JAM_CFG
  ⟨0x704048, 1, 1, 1, 16777216, [31108], [⟨15, 11, .rw, .live, [(3, 31)]⟩, ⟨10, 5, .rw, .live, [(1, 63)]⟩, ⟨3, 0, .rw, .live, [(1, 15)]⟩]⟩,
  -- DFE_SPEC_CFG
  ⟨0x704049, 1, 1, 1, 16777216, [16408], [⟨15, 15, .rw, .live, []⟩, ⟨14, 12, .rw, .live, [(0, 6)]⟩, ⟨11, 4, .rw, .live, [(1, 255)]⟩, ⟨3, 0, .rw, .live, [(1, 15)]⟩]⟩,
  -- DFE_SPEC_BASE
  ⟨0x70404A, 1, 1, 1, 16777216, [290], [⟨11, 0, .rw, .live, [(256, 733)]⟩]⟩,
  -- DFE_SPEC_SEQ
  ⟨0x70404B, 1, 1, 1, 16777216, [0], [⟨15, 15, .ro, .live, []⟩, ⟨14, 0, .ro, .live, []⟩]⟩]

/-- Registers of the page 0x704, part 1. -/
def groups704_1 : List RegGroup := [
  -- DFE_DEC_CFG
  ⟨0x70404C, 1, 1, 1, 16777216, [8232], [⟨15, 15, .rw, .tick, []⟩, ⟨14, 12, .rw, .tick, [(0, 5)]⟩, ⟨5, 0, .rw, .tick, [(2, 40)]⟩]⟩,
  -- DFE_DEC_MIX
  ⟨0x70404D, 1, 1, 1, 16777216, [0], [⟨15, 0, .rw, .tick, []⟩]⟩,
  -- DFE_NOTCH_FREQ
  ⟨0x704050, 48, 1, 48, 16777216, [0], [⟨15, 0, .rw, .tick, []⟩]⟩]

/-- Registers of the page 0x704. -/
def groups704 : List RegGroup := groups704_0 ++ groups704_1

/-- Registers of the page 0x705, part 0. -/
def groups705_0 : List RegGroup := [
  -- CH_COMMIT
  ⟨0x705001, 1, 1, 1, 16777216, [0], [⟨0, 0, .wo, .live, []⟩]⟩,
  -- CH_CFG_REJ
  ⟨0x705002, 1, 1, 1, 16777216, [0], [⟨15, 15, .w1c, .live, []⟩, ⟨11, 0, .ro, .live, []⟩]⟩,
  -- CH_DESC_REJ
  ⟨0x705003, 1, 1, 1, 16777216, [0], [⟨15, 15, .w1c, .live, []⟩, ⟨13, 6, .ro, .live, []⟩, ⟨5, 0, .ro, .live, []⟩]⟩,
  -- CH_CMD
  ⟨0x705004, 1, 1, 1, 16777216, [0], [⟨15, 13, .wo, .live, [(1, 5)]⟩, ⟨7, 0, .wo, .live, [(0, 191)]⟩]⟩,
  -- CH_CMD_STAT
  ⟨0x705005, 1, 1, 1, 16777216, [0], [⟨15, 15, .w1c, .live, []⟩, ⟨14, 12, .ro, .live, []⟩, ⟨11, 8, .ro, .live, []⟩, ⟨7, 0, .ro, .live, []⟩]⟩,
  -- CH_STALE_LIM
  ⟨0x705006, 1, 1, 1, 16777216, [20], [⟨7, 0, .rw, .live, []⟩]⟩,
  -- CH_GROUP_STAT
  ⟨0x705007, 1, 1, 1, 16777216, [0], [⟨7, 0, .ro, .live, []⟩]⟩,
  -- CH_LATCH_TIME
  ⟨0x705008, 6, 1, 6, 16777216, [0], [⟨15, 0, .ro, .live, []⟩]⟩,
  -- CH_LATCH_TICK
  ⟨0x70500E, 1, 1, 1, 16777216, [0], [⟨15, 0, .ro, .live, []⟩]⟩,
  -- CH_ACTIVE
  ⟨0x705010, 12, 1, 12, 16777216, [0], [⟨15, 0, .ro, .live, []⟩]⟩,
  -- CH_FREE
  ⟨0x705020, 12, 1, 12, 16777216, [0], [⟨15, 0, .ro, .live, []⟩]⟩,
  -- CH_AER_SKEW
  ⟨0x705030, 3, 1, 3, 16777216, [0], [⟨11, 0, .rw, .tick, []⟩]⟩,
  -- CH_DIV_CFG
  ⟨0x705034, 1, 1, 1, 16777216, [13312], [⟨15, 11, .rw, .live, []⟩, ⟨10, 10, .rw, .live, []⟩]⟩,
  -- CH_DIR_CFG
  ⟨0x705035, 1, 1, 1, 16777216, [58986], [⟨15, 8, .rw, .live, []⟩, ⟨7, 4, .rw, .live, [(2, 15)]⟩, ⟨3, 0, .rw, .live, [(1, 15)]⟩]⟩,
  -- CH_REC_BASE
  ⟨0x705036, 1, 1, 1, 16777216, [280], [⟨11, 0, .rw, .tick, [(256, 731)]⟩]⟩,
  -- CH_RDY
  ⟨0x705038, 12, 1, 12, 16777216, [0], [⟨15, 0, .ro, .live, []⟩]⟩]

/-- Registers of the page 0x705, part 1. -/
def groups705_1 : List RegGroup := [
  -- CH_DIR_CONC
  ⟨0x705050, 8, 1, 8, 16777216, [0], [⟨15, 15, .ro, .live, []⟩, ⟨14, 0, .ro, .live, []⟩]⟩,
  -- CH_DIR_N
  ⟨0x705058, 8, 1, 8, 16777216, [0], [⟨15, 8, .ro, .live, []⟩, ⟨7, 0, .ro, .live, []⟩]⟩]

/-- Registers of the page 0x705. -/
def groups705 : List RegGroup := groups705_0 ++ groups705_1

/-- Registers of the page 0x706. -/
def groups706 : List RegGroup := [
  -- SRCH_COMMIT
  ⟨0x706001, 1, 1, 1, 16777216, [0], [⟨0, 0, .wo, .live, []⟩]⟩,
  -- SRCH_CFG_REJ
  ⟨0x706002, 1, 1, 1, 16777216, [0], [⟨15, 15, .w1c, .live, []⟩, ⟨11, 0, .ro, .live, []⟩]⟩,
  -- SRCH_CFG
  ⟨0x706003, 1, 1, 1, 16777216, [20480], [⟨15, 15, .rw, .live, []⟩, ⟨14, 14, .rw, .live, []⟩, ⟨13, 13, .rw, .live, []⟩, ⟨12, 10, .rw, .live, [(1, 4)]⟩]⟩,
  -- SRCH_CAP_CFG
  ⟨0x706004, 1, 1, 1, 16777216, [48], [⟨15, 14, .rw, .tick, [(0, 2)]⟩, ⟨5, 0, .rw, .tick, [(1, 48)]⟩]⟩,
  -- SRCH_CAP_WPTR
  ⟨0x706005, 2, 1, 2, 16777216, [0], [⟨15, 0, .ro, .live, []⟩]⟩,
  -- SRCH_CAP_GEN
  ⟨0x706007, 1, 1, 1, 16777216, [0], [⟨15, 15, .ro, .live, []⟩, ⟨14, 14, .ro, .live, []⟩, ⟨13, 13, .ro, .live, []⟩, ⟨7, 0, .ro, .live, []⟩]⟩,
  -- SRCH_CAP_MARK
  ⟨0x706008, 2, 1, 2, 16777216, [0], [⟨15, 0, .ro, .live, []⟩]⟩,
  -- SRCH_CAP_MARK_TICK
  ⟨0x70600A, 1, 1, 1, 16777216, [0], [⟨15, 0, .ro, .live, []⟩]⟩,
  -- SRCH_CAP_DISC
  ⟨0x70600B, 2, 1, 2, 16777216, [0], [⟨15, 0, .ro, .live, []⟩]⟩,
  -- SRCH_ABORT
  ⟨0x70600D, 1, 1, 1, 16777216, [0], [⟨12, 0, .wo, .live, [(0, 6143)]⟩]⟩,
  -- SRCH_STAT
  ⟨0x70600E, 1, 1, 1, 16777216, [0], [⟨15, 15, .w1c, .live, []⟩, ⟨14, 14, .ro, .live, []⟩, ⟨13, 13, .w1c, .live, []⟩, ⟨12, 0, .ro, .live, []⟩]⟩,
  -- SRCH_RES_BASE
  ⟨0x706010, 1, 1, 1, 16777216, [144], [⟨10, 0, .rw, .live, [(128, 367)]⟩]⟩,
  -- SRCH_RES_WR
  ⟨0x706011, 1, 1, 1, 16777216, [0], [⟨8, 0, .ro, .live, []⟩]⟩,
  -- SRCH_RES_RD
  ⟨0x706012, 1, 1, 1, 16777216, [0], [⟨8, 0, .rw, .live, []⟩]⟩,
  -- SRCH_PIPE_STAT
  ⟨0x706013, 1, 1, 1, 16777216, [0], [⟨11, 8, .ro, .live, []⟩, ⟨7, 4, .ro, .live, []⟩, ⟨3, 0, .ro, .live, []⟩]⟩,
  -- SRCH_PIPE_JOB
  ⟨0x706014, 4, 1, 4, 16777216, [0], [⟨15, 15, .ro, .live, []⟩, ⟨12, 0, .ro, .live, []⟩]⟩]

/-- Registers of the page 0x707, part 0. -/
def groups707_0 : List RegGroup := [
  -- TB_COMMIT
  ⟨0x707001, 1, 1, 1, 16777216, [0], [⟨0, 0, .wo, .live, []⟩]⟩,
  -- TB_CFG_REJ
  ⟨0x707002, 1, 1, 1, 16777216, [0], [⟨15, 15, .w1c, .live, []⟩, ⟨11, 0, .ro, .live, []⟩]⟩,
  -- TB_CTRL
  ⟨0x707003, 1, 1, 1, 16777216, [4096], [⟨15, 14, .rw, .live, [(0, 2)]⟩, ⟨13, 13, .rw, .tick, []⟩, ⟨12, 12, .rw, .tick, []⟩, ⟨11, 11, .wo, .live, []⟩, ⟨10, 10, .wo, .live, []⟩, ⟨4, 0, .wo, .live, [(0, 20)]⟩]⟩,
  -- TB_NOW
  ⟨0x707004, 6, 1, 6, 16777216, [0], [⟨15, 0, .ro, .live, []⟩]⟩,
  -- TB_RATE
  ⟨0x70700A, 2, 1, 2, 16777216, [0], [⟨15, 0, .rw, .tick, []⟩]⟩,
  -- TB_STEP
  ⟨0x70700C, 3, 1, 3, 16777216, [0], [⟨15, 0, .rw, .tick, []⟩]⟩,
  -- TB_DISC
  ⟨0x70700F, 1, 1, 1, 16777216, [0], [⟨15, 14, .wo, .live, [(0, 2)]⟩, ⟨13, 13, .wo, .live, []⟩, ⟨12, 12, .wo, .live, []⟩, ⟨11, 0, .wo, .live, []⟩]⟩,
  -- TB_STAT
  ⟨0x707010, 1, 1, 1, 16777216, [0], [⟨15, 13, .ro, .live, []⟩, ⟨12, 12, .ro, .live, []⟩, ⟨11, 11, .ro, .live, []⟩, ⟨10, 10, .ro, .live, []⟩, ⟨9, 9, .ro, .live, []⟩, ⟨8, 8, .ro, .live, []⟩, ⟨7, 7, .ro, .live, []⟩, ⟨6, 6, .ro, .live, []⟩, ⟨5, 4, .ro, .live, []⟩, ⟨3, 3, .w1c, .live, []⟩, ⟨2, 2, .w1c, .live, []⟩]⟩,
  -- TB_HOLD_LIMIT
  ⟨0x707011, 1, 1, 1, 16777216, [1100], [⟨15, 0, .rw, .live, [(1, 65535)]⟩]⟩,
  -- TB_SLEW_CFG
  ⟨0x707012, 1, 1, 1, 16777216, [6440], [⟨15, 8, .rw, .live, []⟩, ⟨7, 0, .rw, .live, [(1, 255)]⟩]⟩,
  -- TB_ACQ_CFG
  ⟨0x707013, 1, 1, 1, 16777216, [2610], [⟨15, 8, .rw, .live, [(1, 255)]⟩, ⟨7, 0, .rw, .live, [(1, 255)]⟩]⟩,
  -- TB_HOLD_BOUND
  ⟨0x707014, 2, 1, 2, 16777216, [65535], [⟨15, 0, .ro, .live, []⟩]⟩,
  -- TB_OFFSET
  ⟨0x707016, 3, 1, 3, 16777216, [0], [⟨15, 0, .ro, .live, []⟩]⟩,
  -- TB_AGE
  ⟨0x707019, 1, 1, 1, 16777216, [0], [⟨15, 0, .rw, .tick, []⟩]⟩,
  -- TB_HB_CFG_0
  ⟨0x70701A, 1, 1, 1, 16777216, [100], [⟨15, 0, .rw, .live, []⟩]⟩,
  -- TB_HB_CFG_1
  ⟨0x70701B, 1, 1, 1, 16777216, [2565], [⟨15, 8, .rw, .live, []⟩, ⟨7, 0, .rw, .live, []⟩]⟩]

/-- Registers of the page 0x707, part 1. -/
def groups707_1 : List RegGroup := [
  -- TB_TEMP
  ⟨0x70701C, 1, 1, 1, 16777216, [0], [⟨15, 15, .ro, .live, []⟩, ⟨11, 0, .ro, .live, []⟩]⟩,
  -- TB_LEAP
  ⟨0x70701D, 1, 1, 1, 16777216, [0], [⟨15, 8, .rw, .tick, []⟩, ⟨7, 6, .rw, .tick, [(0, 2)]⟩]⟩,
  -- TB_LEAP_AT
  ⟨0x70701E, 3, 1, 3, 16777216, [0], [⟨15, 0, .rw, .tick, []⟩]⟩,
  -- TB_SCALE_SEC
  ⟨0x707021, 12, 1, 12, 16777216, [0], [⟨15, 0, .rw, .tick, []⟩]⟩,
  -- TB_SCALE_NS
  ⟨0x70702D, 6, 1, 6, 16777216, [0], [⟨15, 0, .rw, .tick, []⟩]⟩,
  -- TB_TEMP_TAB
  ⟨0x707040, 64, 1, 64, 16777216, [0], [⟨15, 0, .rw, .tick, []⟩]⟩]

/-- Registers of the page 0x707. -/
def groups707 : List RegGroup := groups707_0 ++ groups707_1

/-- Registers of the page 0x708. -/
def groups708 : List RegGroup := [
  -- TP_COMMIT
  ⟨0x708001, 1, 1, 1, 16777216, [0], [⟨0, 0, .wo, .live, []⟩]⟩,
  -- TP_CFG_REJ
  ⟨0x708002, 1, 1, 1, 16777216, [0], [⟨15, 15, .w1c, .live, []⟩, ⟨11, 0, .ro, .live, []⟩]⟩,
  -- TP_CFG
  ⟨0x708004, 4, 1, 4, 16777216, [0], [⟨15, 15, .rw, .tick, []⟩, ⟨14, 13, .rw, .tick, [(0, 2)]⟩, ⟨12, 12, .rw, .tick, []⟩, ⟨11, 9, .rw, .tick, [(0, 5)]⟩]⟩,
  -- TP_PER
  ⟨0x708008, 4, 1, 4, 16777216, [32769], [⟨15, 15, .rw, .tick, []⟩, ⟨9, 0, .rw, .tick, []⟩]⟩,
  -- TP_WIDTH
  ⟨0x70800C, 4, 1, 4, 16777216, [10000], [⟨15, 0, .rw, .tick, [(1, 65535)]⟩]⟩,
  -- TP_DELAY
  ⟨0x708010, 8, 1, 8, 16777216, [0], [⟨15, 0, .rw, .tick, []⟩]⟩,
  -- TP_STAT
  ⟨0x708018, 1, 1, 1, 16777216, [0], [⟨15, 12, .w1c, .live, []⟩, ⟨11, 8, .ro, .live, []⟩, ⟨7, 4, .ro, .live, []⟩]⟩,
  -- TP_FINE_CAL
  ⟨0x708019, 1, 1, 1, 16777216, [0], [⟨15, 15, .ro, .live, []⟩, ⟨6, 0, .ro, .live, []⟩]⟩,
  -- TP_TOD_CFG
  ⟨0x70801A, 1, 1, 1, 16777216, [12298], [⟨15, 15, .rw, .tick, []⟩, ⟨14, 13, .rw, .tick, [(0, 2)]⟩, ⟨12, 10, .rw, .tick, [(0, 5)]⟩, ⟨9, 0, .rw, .tick, [(1, 1023)]⟩]⟩]

/-- Registers of the page 0x709, part 0. -/
def groups709_0 : List RegGroup := [
  -- SYN_COMMIT
  ⟨0x709001, 1, 1, 1, 16777216, [0], [⟨0, 0, .wo, .live, []⟩]⟩,
  -- SYN_CFG_REJ
  ⟨0x709002, 1, 1, 1, 16777216, [0], [⟨15, 15, .w1c, .live, []⟩, ⟨11, 0, .ro, .live, []⟩]⟩,
  -- SYN_CTRL
  ⟨0x709003, 1, 1, 1, 16777216, [1084], [⟨15, 15, .rw, .live, []⟩, ⟨14, 14, .rw, .live, []⟩, ⟨13, 12, .rw, .live, [(0, 2)]⟩, ⟨11, 11, .rw, .live, []⟩, ⟨10, 9, .rw, .tick, []⟩, ⟨7, 0, .rw, .live, [(1, 255)]⟩]⟩,
  -- SYN_CMD
  ⟨0x709004, 1, 1, 1, 16777216, [0], [⟨15, 15, .wo, .live, []⟩, ⟨14, 14, .wo, .live, []⟩]⟩,
  -- SYN_STAT
  ⟨0x709005, 1, 1, 1, 16777216, [32], [⟨15, 13, .ro, .live, []⟩, ⟨12, 12, .ro, .live, []⟩, ⟨11, 11, .ro, .live, []⟩, ⟨10, 10, .ro, .live, []⟩, ⟨9, 9, .ro, .live, []⟩, ⟨8, 8, .w1c, .live, []⟩, ⟨7, 7, .w1c, .live, []⟩, ⟨6, 6, .w1c, .live, []⟩, ⟨5, 5, .ro, .live, []⟩, ⟨4, 4, .w1c, .live, []⟩]⟩,
  -- SYN_REF_STAT
  ⟨0x709006, 1, 1, 1, 16777216, [32896], [⟨15, 15, .ro, .live, []⟩, ⟨14, 14, .ro, .live, []⟩, ⟨13, 13, .w1c, .live, []⟩, ⟨7, 7, .ro, .live, []⟩, ⟨6, 6, .ro, .live, []⟩, ⟨5, 5, .w1c, .live, []⟩]⟩,
  -- SYN_REF_CFG
  ⟨0x709008, 2, 1, 2, 16777216, [8192], [⟨15, 14, .rw, .stopped, [(0, 2)]⟩, ⟨13, 13, .rw, .live, []⟩]⟩,
  -- SYN_REF_FREQ
  ⟨0x70900A, 4, 1, 4, 16777216, [38528, 152, 38528, 152], [⟨15, 0, .rw, .stopped, []⟩]⟩,
  -- SYN_LOCK_CFG
  ⟨0x709010, 1, 1, 1, 16777216, [59424], [⟨15, 12, .rw, .live, [(10, 15)]⟩, ⟨11, 8, .rw, .live, [(1, 15)]⟩, ⟨7, 4, .rw, .live, [(1, 15)]⟩]⟩,
  -- SYN_LOCK_TOL
  ⟨0x709011, 1, 1, 1, 16777216, [4], [⟨7, 0, .rw, .live, [(1, 255)]⟩]⟩,
  -- SYN_REVAL_CFG
  ⟨0x709012, 1, 1, 1, 16777216, [4104], [⟨15, 8, .rw, .live, [(1, 255)]⟩, ⟨7, 0, .rw, .live, [(1, 255)]⟩]⟩,
  -- SYN_PSLEW
  ⟨0x709013, 1, 1, 1, 16777216, [100], [⟨9, 0, .rw, .live, [(1, 1000)]⟩]⟩,
  -- SYN_SETTLE
  ⟨0x709014, 1, 1, 1, 16777216, [100], [⟨15, 0, .rw, .live, [(1, 65535)]⟩]⟩,
  -- SYN_DITH_CFG
  ⟨0x709015, 1, 1, 1, 16777216, [32768], [⟨15, 15, .rw, .tick, []⟩, ⟨14, 13, .rw, .tick, []⟩]⟩,
  -- SYN_DITH_SEED
  ⟨0x709016, 1, 1, 1, 16777216, [44257], [⟨15, 0, .rw, .tick, [(1, 65535)]⟩]⟩,
  -- SYN_FSTEP
  ⟨0x709018, 2, 1, 2, 16777216, [0], [⟨15, 0, .rw, .live, []⟩]⟩]

/-- Registers of the page 0x709, part 1. -/
def groups709_1 : List RegGroup := [
  -- SYN_FOFS
  ⟨0x70901A, 2, 1, 2, 16777216, [0], [⟨15, 0, .ro, .live, []⟩]⟩,
  -- SYN_CVAL
  ⟨0x70901C, 2, 1, 2, 16777216, [0, 128], [⟨15, 0, .ro, .live, []⟩]⟩,
  -- SYN_BO_LAST
  ⟨0x70901E, 2, 1, 2, 16777216, [0], [⟨15, 0, .ro, .live, []⟩]⟩,
  -- SYN_BO_SUM
  ⟨0x709020, 2, 1, 2, 16777216, [0], [⟨15, 0, .ro, .live, []⟩]⟩,
  -- SYN_RAMP_CTRL
  ⟨0x709024, 1, 1, 1, 16777216, [0], [⟨15, 15, .rw, .live, []⟩, ⟨14, 14, .rw, .live, []⟩, ⟨13, 11, .rw, .live, []⟩, ⟨10, 8, .ro, .live, []⟩]⟩,
  -- SYN_RAMP_SEG
  ⟨0x709028, 8, 3, 8, 16777216, [0], [⟨15, 0, .rw, .live, []⟩]⟩,
  -- SYN_RAMP_SEG
  ⟨0x709029, 8, 3, 8, 16777216, [0], [⟨7, 0, .rw, .live, []⟩]⟩,
  -- SYN_RAMP_SEG
  ⟨0x70902A, 8, 3, 8, 16777216, [0], [⟨15, 0, .rw, .live, [(1, 65535)]⟩]⟩,
  -- SYN_OUT_CFG
  ⟨0x709040, 6, 1, 6, 16777216, [16], [⟨15, 15, .rw, .live, []⟩, ⟨14, 14, .rw, .stopped, []⟩, ⟨13, 12, .rw, .stopped, [(0, 2)]⟩, ⟨11, 11, .rw, .stopped, []⟩, ⟨10, 0, .rw, .stopped, [(8, 1024)]⟩]⟩,
  -- SYN_OUT_NUM
  ⟨0x709048, 2, 1, 2, 16777216, [0], [⟨15, 0, .rw, .stopped, []⟩]⟩,
  -- SYN_OUT_DEN
  ⟨0x70904A, 2, 1, 2, 16777216, [1], [⟨15, 0, .rw, .stopped, []⟩]⟩,
  -- SYN_SE_CFG
  ⟨0x70904C, 2, 1, 2, 16777216, [0], [⟨15, 15, .rw, .live, []⟩, ⟨14, 13, .rw, .stopped, [(0, 2)]⟩, ⟨12, 10, .rw, .stopped, [(0, 5)]⟩]⟩,
  -- SYN_SE_DIV
  ⟨0x70904E, 2, 1, 2, 16777216, [8], [⟨11, 0, .rw, .stopped, [(1, 4095)]⟩]⟩,
  -- SYN_OUT_STAT
  ⟨0x709050, 1, 1, 1, 16777216, [0], [⟨7, 0, .ro, .live, []⟩]⟩,
  -- SYN_CMON_STAT
  ⟨0x709051, 1, 1, 1, 16777216, [0], [⟨15, 15, .ro, .live, []⟩, ⟨14, 12, .ro, .live, []⟩, ⟨7, 0, .ro, .live, []⟩]⟩]

/-- Registers of the page 0x709. -/
def groups709 : List RegGroup := groups709_0 ++ groups709_1

/-- Registers of the page 0x70A. -/
def groups70A : List RegGroup := [
  -- SLC_COMMIT
  ⟨0x70A001, 1, 1, 1, 16777216, [0], [⟨0, 0, .wo, .live, []⟩]⟩,
  -- SLC_CFG_REJ
  ⟨0x70A002, 1, 1, 1, 16777216, [0], [⟨15, 15, .w1c, .live, []⟩, ⟨11, 0, .ro, .live, []⟩]⟩,
  -- SLC_PERMIT_STAT
  ⟨0x70A003, 1, 1, 1, 16777216, [0], [⟨15, 15, .ro, .live, []⟩, ⟨14, 14, .ro, .live, []⟩, ⟨13, 13, .ro, .live, []⟩, ⟨12, 12, .ro, .live, []⟩, ⟨11, 11, .w1c, .live, []⟩]⟩,
  -- SLC_ARM_TIMEOUT
  ⟨0x70A004, 1, 1, 1, 16777216, [2000], [⟨15, 0, .rw, .live, [(1, 60000)]⟩]⟩,
  -- SLC_CMD
  ⟨0x70A005, 1, 1, 1, 16777216, [0], [⟨15, 13, .wo, .live, [(1, 3)]⟩, ⟨3, 0, .wo, .live, []⟩]⟩,
  -- SLC_CMD_STAT
  ⟨0x70A006, 1, 1, 1, 16777216, [0], [⟨15, 15, .w1c, .live, []⟩, ⟨14, 12, .ro, .live, []⟩, ⟨3, 0, .ro, .live, []⟩]⟩,
  -- SLC_GATE_CFG
  ⟨0x70A010, 16, 1, 16, 16777216, [22528], [⟨15, 12, .rw, .tick, [(1, 10)]⟩, ⟨11, 11, .rw, .live, []⟩, ⟨6, 0, .rw, .tick, [(0, 64)]⟩]⟩,
  -- SLC_GATE_OFS
  ⟨0x70A020, 16, 2, 16, 16777216, [0], [⟨15, 0, .rw, .tick, []⟩]⟩,
  -- SLC_GATE_OFS
  ⟨0x70A021, 16, 2, 16, 16777216, [0], [⟨7, 0, .rw, .tick, []⟩]⟩,
  -- SLC_GATE_TMO
  ⟨0x70A040, 16, 1, 16, 16777216, [5000], [⟨15, 0, .rw, .live, [(1, 65535)]⟩]⟩,
  -- SLC_GATE_STAT
  ⟨0x70A050, 16, 1, 16, 16777216, [0], [⟨15, 13, .ro, .live, []⟩, ⟨12, 12, .w1c, .live, []⟩, ⟨11, 11, .w1c, .live, []⟩, ⟨10, 10, .ro, .live, []⟩]⟩,
  -- SLC_GATE_OPEN
  ⟨0x70A060, 1, 1, 1, 16777216, [0], [⟨15, 0, .ro, .live, []⟩]⟩,
  -- SLC_POS_LO
  ⟨0x70A801, 1024, 1, 64, 128, [0], [⟨15, 0, .rw, .tick, []⟩]⟩,
  -- SLC_POS_HI
  ⟨0x70A841, 512, 1, 32, 128, [0], [⟨14, 8, .rw, .tick, []⟩, ⟨6, 0, .rw, .tick, []⟩]⟩]

/-- Registers of the page 0x70B. -/
def groups70B : List RegGroup := [
  -- PLC_COMMIT
  ⟨0x70B001, 1, 1, 1, 16777216, [0], [⟨0, 0, .wo, .live, []⟩]⟩,
  -- PLC_CFG_REJ
  ⟨0x70B002, 1, 1, 1, 16777216, [0], [⟨15, 15, .w1c, .live, []⟩, ⟨11, 0, .ro, .live, []⟩]⟩,
  -- PLC_CFG
  ⟨0x70B003, 1, 1, 1, 16777216, [52232], [⟨15, 12, .rw, .live, [(1, 12)]⟩, ⟨11, 8, .rw, .live, [(1, 12)]⟩, ⟨7, 0, .rw, .live, []⟩]⟩,
  -- PLC_BUDGET
  ⟨0x70B004, 1, 1, 1, 16777216, [44000], [⟨15, 0, .rw, .live, [(1, 45310)]⟩]⟩,
  -- PLC_STAT
  ⟨0x70B005, 1, 1, 1, 16777216, [0], [⟨15, 15, .w1c, .live, []⟩, ⟨14, 14, .w1c, .live, []⟩, ⟨13, 13, .w1c, .live, []⟩, ⟨7, 0, .ro, .live, []⟩]⟩,
  -- PLC_ENG_STAT
  ⟨0x70B006, 1, 1, 1, 16777216, [0], [⟨15, 8, .ro, .live, []⟩, ⟨7, 0, .ro, .live, []⟩]⟩,
  -- PLC_ENG_PLAN
  ⟨0x70B008, 8, 1, 8, 16777216, [0], [⟨15, 0, .ro, .live, []⟩]⟩,
  -- PLC_ENG_USED
  ⟨0x70B010, 8, 1, 8, 16777216, [0], [⟨15, 0, .ro, .live, []⟩]⟩,
  -- TASK word 0x0
  ⟨0x70B808, 240, 8, 15, 128, [0], [⟨15, 15, .rw, .tick, []⟩, ⟨14, 13, .rw, .stopped, [(0, 1)]⟩, ⟨12, 11, .rw, .tick, []⟩, ⟨10, 10, .rw, .tick, []⟩, ⟨9, 9, .rw, .tick, []⟩, ⟨8, 6, .rw, .tick, []⟩]⟩,
  -- TASK word 0x1
  ⟨0x70B809, 240, 8, 15, 128, [0], [⟨14, 0, .rw, .stopped, []⟩]⟩,
  -- TASK word 0x2
  ⟨0x70B80A, 240, 8, 15, 128, [0], [⟨15, 8, .rw, .stopped, [(0, 191)]⟩, ⟨7, 0, .rw, .tick, []⟩]⟩,
  -- TASK word 0x3
  ⟨0x70B80B, 240, 8, 15, 128, [0], [⟨15, 13, .rw, .stopped, [(0, 4)]⟩, ⟨12, 0, .rw, .stopped, []⟩]⟩,
  -- TASK word 0x4
  ⟨0x70B80C, 240, 8, 15, 128, [0], [⟨15, 0, .rw, .tick, []⟩]⟩,
  -- TASK word 0x5
  ⟨0x70B80D, 240, 8, 15, 128, [64], [⟨15, 12, .rw, .tick, []⟩, ⟨11, 6, .rw, .tick, []⟩, ⟨5, 0, .rw, .tick, []⟩]⟩,
  -- TASK word 0x6
  ⟨0x70B80E, 240, 8, 15, 128, [0], [⟨15, 0, .ro, .live, []⟩]⟩,
  -- TASK word 0x7
  ⟨0x70B80F, 240, 8, 15, 128, [0], [⟨15, 13, .ro, .live, []⟩, ⟨12, 10, .ro, .live, []⟩, ⟨9, 9, .ro, .live, []⟩, ⟨7, 0, .ro, .live, []⟩]⟩]

/-- Registers of the page 0x70C. -/
def groups70C : List RegGroup := [
  -- WEIR_CFG_REJ
  ⟨0x70C002, 1, 1, 1, 16777216, [0], [⟨15, 15, .w1c, .live, []⟩, ⟨11, 0, .ro, .live, []⟩]⟩,
  -- WEIR_CAP
  ⟨0x70C003, 1, 1, 1, 16777216, [16984], [⟨15, 12, .rw, .live, []⟩, ⟨9, 0, .rw, .live, [(250, 750)]⟩]⟩,
  -- WEIR_TEMP
  ⟨0x70C004, 1, 1, 1, 16777216, [28224], [⟨15, 8, .rw, .live, [(60, 120)]⟩, ⟨7, 4, .rw, .live, [(1, 15)]⟩]⟩,
  -- WEIR_THETA
  ⟨0x70C005, 1, 1, 1, 16777216, [80], [⟨9, 0, .rw, .live, [(1, 1000)]⟩]⟩,
  -- WEIR_HOLD
  ⟨0x70C006, 1, 1, 1, 16777216, [15410], [⟨15, 8, .rw, .live, [(1, 255)]⟩, ⟨7, 0, .rw, .live, [(1, 255)]⟩]⟩,
  -- WEIR_LEVEL
  ⟨0x70C007, 1, 1, 1, 16777216, [0], [⟨15, 12, .ro, .live, []⟩, ⟨11, 8, .rw, .live, [(0, 9)]⟩]⟩,
  -- WEIR_PASSED
  ⟨0x70C008, 1, 1, 1, 16777216, [0], [⟨8, 0, .ro, .live, []⟩]⟩,
  -- WEIR_P_EST
  ⟨0x70C009, 1, 1, 1, 16777216, [0], [⟨15, 0, .ro, .live, []⟩]⟩,
  -- WEIR_TMAX
  ⟨0x70C00A, 1, 1, 1, 16777216, [0], [⟨15, 15, .ro, .live, []⟩, ⟨11, 0, .ro, .live, []⟩]⟩,
  -- WEIR_STAT
  ⟨0x70C00B, 1, 1, 1, 16777216, [1], [⟨15, 15, .ro, .live, []⟩, ⟨14, 14, .ro, .live, []⟩, ⟨13, 13, .w1c, .live, []⟩, ⟨12, 12, .w1c, .live, []⟩, ⟨7, 0, .ro, .live, []⟩]⟩,
  -- WEIR_HOT
  ⟨0x70C00C, 1, 1, 1, 16777216, [26892], [⟨15, 8, .rw, .live, [(40, 125)]⟩, ⟨3, 0, .rw, .live, [(1, 15)]⟩]⟩,
  -- WEIR_GATE
  ⟨0x70C00D, 1, 1, 1, 16777216, [49252], [⟨15, 15, .rw, .live, []⟩, ⟨14, 14, .rw, .live, []⟩, ⟨13, 13, .rw, .live, []⟩, ⟨7, 0, .rw, .live, [(1, 255)]⟩]⟩,
  -- WEIR_SHED_P
  ⟨0x70C011, 9, 1, 9, 16777216, [0], [⟨15, 0, .ro, .live, []⟩]⟩,
  -- WEIR_SENS
  ⟨0x70C020, 6, 1, 6, 16777216, [0], [⟨15, 15, .ro, .live, []⟩, ⟨11, 0, .ro, .live, []⟩]⟩]

/-- Registers of the page 0x70D, part 0. -/
def groups70D_0 : List RegGroup := [
  -- MEM_CFG_REJ
  ⟨0x70D002, 1, 1, 1, 16777216, [0], [⟨15, 15, .w1c, .live, []⟩, ⟨11, 0, .ro, .live, []⟩]⟩,
  -- MEM_ECC_CFG
  ⟨0x70D003, 1, 1, 1, 16777216, [32776], [⟨15, 15, .rw, .live, []⟩, ⟨14, 14, .rw, .live, []⟩, ⟨3, 0, .rw, .live, [(4, 15)]⟩]⟩,
  -- MEM_ECC_STAT
  ⟨0x70D004, 1, 1, 1, 16777216, [0], [⟨15, 15, .w1c, .live, []⟩, ⟨14, 14, .w1c, .live, []⟩, ⟨13, 8, .rc, .live, []⟩, ⟨7, 0, .rc, .live, []⟩]⟩,
  -- MEM_ECC_ADDR
  ⟨0x70D005, 2, 1, 2, 16777216, [0], [⟨15, 0, .ro, .live, []⟩]⟩,
  -- MEM_ECC_INFO
  ⟨0x70D007, 1, 1, 1, 16777216, [0], [⟨15, 15, .ro, .live, []⟩, ⟨14, 14, .ro, .live, []⟩, ⟨13, 10, .ro, .live, []⟩, ⟨5, 0, .ro, .live, []⟩]⟩,
  -- MEM_SCRUB_POS
  ⟨0x70D008, 2, 1, 2, 16777216, [0], [⟨15, 0, .ro, .live, []⟩]⟩,
  -- MEM_SCRUB_PASS
  ⟨0x70D00A, 1, 1, 1, 16777216, [0], [⟨15, 0, .ro, .live, []⟩]⟩,
  -- MEM_ARB_ESC
  ⟨0x70D00B, 1, 1, 1, 16777216, [0], [⟨15, 0, .rc, .live, []⟩]⟩,
  -- MEM_COLL
  ⟨0x70D00C, 3, 1, 3, 16777216, [0], [⟨15, 0, .ro, .live, []⟩]⟩,
  -- MEM_TEST_CFG
  ⟨0x70D010, 1, 1, 1, 16777216, [1], [⟨15, 15, .rw, .live, []⟩, ⟨7, 0, .rw, .live, [(1, 255)]⟩]⟩,
  -- MEM_TEST_STAT
  ⟨0x70D011, 1, 1, 1, 16777216, [0], [⟨15, 15, .w1c, .live, []⟩, ⟨14, 14, .ro, .live, []⟩, ⟨13, 8, .rc, .live, []⟩, ⟨7, 0, .rc, .live, []⟩]⟩,
  -- MEM_TEST_POS
  ⟨0x70D012, 1, 1, 1, 16777216, [0], [⟨12, 0, .ro, .live, []⟩]⟩,
  -- MEM_TEST_FAIL
  ⟨0x70D013, 1, 1, 1, 16777216, [0], [⟨15, 15, .ro, .live, []⟩, ⟨12, 0, .ro, .live, []⟩]⟩,
  -- MEM_TEST_PASS
  ⟨0x70D014, 1, 1, 1, 16777216, [0], [⟨15, 0, .ro, .live, []⟩]⟩,
  -- MEM_TEST_EXCL
  ⟨0x70D018, 8, 2, 8, 16777216, [0], [⟨15, 15, .rw, .live, []⟩, ⟨12, 0, .rw, .live, []⟩]⟩,
  -- MEM_TEST_EXCL
  ⟨0x70D019, 8, 2, 8, 16777216, [0], [⟨12, 0, .rw, .live, []⟩]⟩]

/-- Registers of the page 0x70D, part 1. -/
def groups70D_1 : List RegGroup := [
  -- MEM_BW_CTRL
  ⟨0x70D030, 1, 1, 1, 16777216, [0], [⟨15, 15, .wo, .live, []⟩, ⟨14, 14, .wo, .live, []⟩]⟩,
  -- MEM_BW_STAT
  ⟨0x70D031, 1, 1, 1, 16777216, [0], [⟨15, 15, .ro, .live, []⟩, ⟨14, 14, .ro, .live, []⟩, ⟨13, 13, .w1c, .live, []⟩]⟩,
  -- MEM_SS_CMD
  ⟨0x70D033, 1, 1, 1, 16777216, [0], [⟨15, 15, .wo, .live, []⟩]⟩,
  -- MEM_SS_STAT
  ⟨0x70D034, 1, 1, 1, 16777216, [0], [⟨15, 15, .ro, .live, []⟩, ⟨14, 14, .ro, .live, []⟩, ⟨13, 13, .w1c, .live, []⟩, ⟨12, 11, .ro, .live, []⟩, ⟨7, 0, .ro, .live, []⟩]⟩,
  -- MEM_BANK_STAT
  ⟨0x70D040, 32, 1, 32, 16777216, [0], [⟨15, 13, .ro, .live, []⟩, ⟨12, 12, .ro, .live, []⟩]⟩]

/-- Registers of the page 0x70D. -/
def groups70D : List RegGroup := groups70D_0 ++ groups70D_1

/-- Registers of the page 0x70E. -/
def groups70E : List RegGroup := [
  -- ACC_CFG_REJ
  ⟨0x70E002, 1, 1, 1, 16777216, [0], [⟨15, 15, .w1c, .live, []⟩, ⟨14, 14, .w1c, .live, []⟩, ⟨11, 0, .ro, .live, []⟩]⟩,
  -- ACC_VIOL
  ⟨0x70E004, 4, 1, 4, 16777216, [0], [⟨15, 0, .ro, .live, []⟩]⟩,
  -- ACC_LOCK
  ⟨0x70E010, 4, 1, 4, 16777216, [0], [⟨15, 0, .rw, .live, []⟩]⟩,
  -- ACC_RD
  ⟨0x70E081, 64, 1, 64, 16777216, [32767, 32767, 32767, 32767, 32767, 32767, 32767, 32767, 32767, 32767, 32767, 32767, 32767, 32767, 32767, 32767, 32767, 32767, 32767, 32767, 32767, 32767, 32767, 32767, 32767, 32767, 32767, 32767, 32767, 32767, 32767, 32767, 32767, 32767, 16384, 32767, 32767, 32767, 32767, 0, 32767, 32767, 32767, 32767, 32767, 32767, 32767, 32767, 32767, 32767, 32767, 32767, 32767, 32767, 32767, 32767, 32767, 32767, 32767, 32767, 0, 0, 0, 0], [⟨15, 0, .rw, .live, []⟩]⟩,
  -- ACC_WR
  ⟨0x70E101, 64, 1, 64, 16777216, [32767, 32767, 32767, 32767, 32767, 32767, 32767, 32767, 32767, 32767, 32767, 32767, 32767, 32767, 32767, 32767, 32767, 32767, 32767, 32767, 32767, 32767, 32767, 32767, 32767, 32767, 32767, 32767, 32767, 32767, 32767, 32767, 32767, 32767, 16384, 32767, 32767, 32767, 32767, 0, 32767, 32767, 32767, 32767, 32767, 32767, 32767, 32767, 32767, 32767, 32767, 32767, 32767, 32767, 32767, 32767, 32767, 32767, 32767, 32767, 0, 0, 0, 0], [⟨15, 0, .rw, .live, []⟩]⟩,
  -- ACC_EX
  ⟨0x70E181, 64, 1, 64, 16777216, [16639, 16639, 16639, 16639, 16639, 16639, 16639, 16639, 16639, 16639, 16639, 16639, 16639, 16639, 16639, 16639, 16639, 16639, 16639, 16639, 16639, 16639, 16639, 16639, 16639, 16639, 16639, 16639, 16639, 16639, 16639, 16639, 0, 0, 0, 0, 0, 0, 16639, 0, 0, 0, 0, 0, 0, 0, 0, 0, 0, 0, 0, 0, 0, 0, 0, 0, 0, 0, 0, 0, 0, 0, 0, 0], [⟨15, 0, .rw, .live, []⟩]⟩]

/-- Registers of the page 0x70F. -/
def groups70F : List RegGroup := [
  -- HP_CFG_REJ
  ⟨0x70F002, 1, 1, 1, 16777216, [0], [⟨15, 15, .w1c, .live, []⟩, ⟨11, 0, .ro, .live, []⟩]⟩,
  -- HP_SEL_CFG
  ⟨0x70F004, 2, 1, 2, 16777216, [32832, 64], [⟨15, 15, .rw, .live, []⟩, ⟨14, 14, .rw, .stopped, []⟩, ⟨13, 12, .rw, .stopped, []⟩, ⟨11, 11, .rw, .stopped, []⟩, ⟨10, 10, .rw, .stopped, []⟩, ⟨7, 4, .rw, .stopped, []⟩]⟩,
  -- HP_STAT
  ⟨0x70F006, 2, 1, 2, 16777216, [0], [⟨15, 15, .w1c, .live, []⟩, ⟨14, 14, .w1c, .live, []⟩, ⟨13, 13, .w1c, .live, []⟩, ⟨12, 12, .ro, .live, []⟩, ⟨7, 0, .rc, .live, []⟩]⟩,
  -- HP_REJ_INFO
  ⟨0x70F008, 2, 1, 2, 16777216, [0], [⟨15, 12, .ro, .live, []⟩, ⟨11, 0, .ro, .live, []⟩]⟩,
  -- HP_FRAMES
  ⟨0x70F00A, 2, 1, 2, 16777216, [0], [⟨15, 0, .ro, .live, []⟩]⟩,
  -- HP_PAGE
  ⟨0x70F00C, 2, 1, 2, 16777216, [57824], [⟨15, 0, .rw, .live, []⟩]⟩,
  -- HP_ATTN_CTRL
  ⟨0x70F00E, 1, 1, 1, 16777216, [0], [⟨15, 15, .rw, .live, []⟩, ⟨14, 14, .rw, .live, []⟩, ⟨13, 13, .rw, .live, []⟩, ⟨0, 0, .ro, .live, []⟩]⟩,
  -- HP_RAW_IN_CFG
  ⟨0x70F010, 2, 1, 2, 16777216, [248, 16632], [⟨15, 9, .rw, .stopped, []⟩, ⟨8, 3, .rw, .stopped, []⟩]⟩,
  -- HP_RAW_OUT_CFG
  ⟨0x70F012, 2, 1, 2, 16777216, [33016, 49400], [⟨15, 9, .rw, .stopped, []⟩, ⟨8, 3, .rw, .stopped, []⟩]⟩,
  -- HP_RAW_IN_WR
  ⟨0x70F014, 2, 1, 2, 16777216, [0], [⟨15, 0, .ro, .live, []⟩]⟩,
  -- HP_RAW_IN_RD
  ⟨0x70F016, 2, 1, 2, 16777216, [0], [⟨15, 0, .rw, .live, []⟩]⟩,
  -- HP_RAW_OUT_WR
  ⟨0x70F018, 2, 1, 2, 16777216, [0], [⟨15, 0, .rw, .live, []⟩]⟩,
  -- HP_RAW_OUT_RD
  ⟨0x70F01A, 2, 1, 2, 16777216, [0], [⟨15, 0, .ro, .live, []⟩]⟩]

/-- Registers of the page 0x710, part 0. -/
def groups710_0 : List RegGroup := [
  -- FP_CFG_REJ
  ⟨0x710002, 1, 1, 1, 16777216, [0], [⟨15, 15, .w1c, .live, []⟩, ⟨11, 0, .ro, .live, []⟩]⟩,
  -- FP_CTRL
  ⟨0x710003, 1, 1, 1, 16777216, [40], [⟨15, 15, .rw, .live, []⟩, ⟨14, 14, .rw, .live, []⟩, ⟨13, 13, .rw, .stopped, []⟩, ⟨12, 12, .rw, .live, []⟩, ⟨11, 11, .rw, .stopped, []⟩, ⟨7, 0, .rw, .stopped, [(5, 255)]⟩]⟩,
  -- FP_XIP_FMT
  ⟨0x710004, 1, 1, 1, 16777216, [8], [⟨15, 14, .rw, .stopped, []⟩, ⟨13, 13, .rw, .stopped, []⟩, ⟨12, 12, .rw, .stopped, []⟩, ⟨11, 10, .rw, .stopped, []⟩, ⟨9, 9, .rw, .stopped, []⟩, ⟨8, 8, .rw, .stopped, []⟩, ⟨7, 6, .rw, .stopped, []⟩, ⟨5, 5, .rw, .stopped, []⟩, ⟨4, 0, .rw, .stopped, []⟩]⟩,
  -- FP_PROG_FMT
  ⟨0x710005, 1, 1, 1, 16777216, [0], [⟨15, 14, .rw, .stopped, []⟩, ⟨13, 13, .rw, .stopped, []⟩, ⟨12, 12, .rw, .stopped, []⟩, ⟨11, 10, .rw, .stopped, []⟩, ⟨9, 9, .rw, .stopped, []⟩, ⟨8, 8, .rw, .stopped, []⟩, ⟨7, 6, .rw, .stopped, []⟩, ⟨5, 5, .rw, .stopped, []⟩, ⟨4, 0, .rw, .stopped, []⟩]⟩,
  -- FP_CMD_FMT
  ⟨0x710006, 1, 1, 1, 16777216, [0], [⟨15, 14, .rw, .stopped, []⟩, ⟨13, 13, .rw, .stopped, []⟩, ⟨12, 12, .rw, .stopped, []⟩, ⟨11, 10, .rw, .stopped, []⟩, ⟨9, 9, .rw, .stopped, []⟩, ⟨8, 8, .rw, .stopped, []⟩, ⟨7, 6, .rw, .stopped, []⟩, ⟨5, 5, .rw, .stopped, []⟩, ⟨4, 0, .rw, .stopped, []⟩]⟩,
  -- FP_OPC_0
  ⟨0x710007, 1, 1, 1, 16777216, [2818], [⟨15, 8, .rw, .stopped, []⟩, ⟨7, 0, .rw, .stopped, []⟩]⟩,
  -- FP_OPC_1
  ⟨0x710008, 1, 1, 1, 16777216, [1541], [⟨15, 8, .rw, .stopped, []⟩, ⟨7, 0, .rw, .stopped, []⟩]⟩,
  -- FP_PAGE
  ⟨0x710009, 1, 1, 1, 16777216, [33268], [⟨15, 12, .rw, .stopped, [(8, 12)]⟩, ⟨11, 0, .rw, .live, [(1, 4095)]⟩]⟩,
  -- FP_CMD_TMO
  ⟨0x71000A, 1, 1, 1, 16777216, [2000], [⟨15, 0, .rw, .live, [(1, 65535)]⟩]⟩,
  -- FP_XIP_CRC
  ⟨0x71000B, 1, 2, 1, 16777216, [0], [⟨15, 0, .rw, .stopped, []⟩]⟩,
  -- FP_XIP_CRC
  ⟨0x71000C, 1, 2, 1, 16777216, [0], [⟨7, 0, .rw, .stopped, []⟩]⟩,
  -- FP_STAT
  ⟨0x71000D, 1, 1, 1, 16777216, [0], [⟨15, 15, .ro, .live, []⟩, ⟨14, 14, .ro, .live, []⟩, ⟨13, 13, .ro, .live, []⟩, ⟨12, 12, .w1c, .live, []⟩, ⟨11, 11, .w1c, .live, []⟩, ⟨10, 10, .w1c, .live, []⟩, ⟨9, 9, .w1c, .live, []⟩]⟩,
  -- FP_XIP_FLUSH
  ⟨0x71000E, 1, 1, 1, 16777216, [0], [⟨15, 15, .wo, .live, []⟩]⟩,
  -- FP_CMD_CTRL
  ⟨0x710010, 1, 1, 1, 16777216, [0], [⟨15, 15, .wo, .live, []⟩, ⟨14, 14, .rw, .live, []⟩, ⟨13, 13, .rw, .live, []⟩, ⟨12, 12, .rw, .live, []⟩, ⟨11, 11, .rw, .live, []⟩, ⟨7, 0, .rw, .live, []⟩]⟩,
  -- FP_CMD_LEN
  ⟨0x710011, 1, 1, 1, 16777216, [0], [⟨7, 0, .rw, .live, [(0, 128)]⟩]⟩,
  -- FP_CMD_ADDR
  ⟨0x710012, 2, 1, 2, 16777216, [0], [⟨15, 0, .rw, .live, []⟩]⟩]

/-- Registers of the page 0x710, part 1. -/
def groups710_1 : List RegGroup := [
  -- FP_CMD_DATA
  ⟨0x710081, 64, 1, 64, 16777216, [0], [⟨15, 0, .rw, .live, []⟩]⟩]

/-- Registers of the page 0x710. -/
def groups710 : List RegGroup := groups710_0 ++ groups710_1

/-- Registers of the page 0x711, part 0. -/
def groups711_0 : List RegGroup := [
  -- CFL_COMMIT
  ⟨0x711001, 1, 1, 1, 16777216, [0], [⟨0, 0, .wo, .live, []⟩]⟩,
  -- CFL_CFG_REJ
  ⟨0x711002, 1, 1, 1, 16777216, [0], [⟨15, 15, .w1c, .live, []⟩, ⟨11, 0, .ro, .live, []⟩]⟩,
  -- CFL_CTRL
  ⟨0x711003, 1, 1, 1, 16777216, [1536], [⟨15, 15, .rw, .live, []⟩, ⟨14, 14, .rw, .stopped, []⟩, ⟨13, 11, .rw, .stopped, []⟩, ⟨10, 9, .rw, .live, []⟩]⟩,
  -- CFL_AG_CFG
  ⟨0x711004, 1, 1, 1, 16777216, [12932], [⟨15, 8, .rw, .tick, [(1, 255)]⟩, ⟨7, 4, .rw, .tick, [(1, 15)]⟩, ⟨3, 0, .rw, .tick, [(1, 15)]⟩]⟩,
  -- CFL_TIMING
  ⟨0x711005, 1, 1, 1, 16777216, [25616], [⟨15, 8, .rw, .live, [(1, 255)]⟩, ⟨7, 0, .rw, .live, [(1, 255)]⟩]⟩,
  -- CFL_STAT
  ⟨0x711006, 1, 1, 1, 16777216, [32], [⟨15, 13, .ro, .live, []⟩, ⟨12, 10, .ro, .live, []⟩, ⟨9, 7, .ro, .live, []⟩, ⟨6, 6, .ro, .live, []⟩, ⟨5, 5, .ro, .live, []⟩, ⟨4, 4, .w1c, .live, []⟩, ⟨3, 3, .w1c, .live, []⟩, ⟨2, 2, .ro, .live, []⟩]⟩,
  -- CFL_PORT_STAT
  ⟨0x711007, 2, 1, 2, 16777216, [0], [⟨15, 14, .ro, .live, []⟩, ⟨13, 11, .ro, .live, []⟩, ⟨10, 10, .ro, .live, []⟩, ⟨7, 0, .rc, .live, []⟩]⟩,
  -- CFL_VERSION
  ⟨0x711009, 1, 1, 1, 16777216, [1], [⟨15, 0, .ro, .live, []⟩]⟩,
  -- CFL_OFFSET
  ⟨0x71100A, 3, 1, 3, 16777216, [0], [⟨15, 0, .ro, .live, []⟩]⟩,
  -- CFL_DELAY
  ⟨0x71100D, 4, 1, 4, 16777216, [0], [⟨15, 0, .ro, .live, []⟩]⟩,
  -- CFL_ASYM
  ⟨0x711011, 2, 1, 2, 16777216, [0], [⟨15, 0, .rw, .live, []⟩]⟩,
  -- CFL_DIGEST
  ⟨0x711013, 2, 1, 2, 16777216, [0], [⟨15, 0, .ro, .live, []⟩]⟩,
  -- CFL_LDIG
  ⟨0x711015, 2, 1, 2, 16777216, [0], [⟨15, 0, .ro, .live, []⟩]⟩,
  -- CFL_SITE
  ⟨0x711018, 8, 1, 8, 16777216, [0], [⟨15, 0, .rw, .tick, []⟩]⟩,
  -- CFL_PPS_CFG
  ⟨0x711020, 1, 1, 1, 16777216, [0], [⟨15, 15, .rw, .live, []⟩, ⟨14, 14, .rw, .live, []⟩]⟩,
  -- CFL_PPS_IN
  ⟨0x711021, 6, 1, 6, 16777216, [0], [⟨15, 0, .ro, .live, []⟩]⟩]

/-- Registers of the page 0x711, part 1. -/
def groups711_1 : List RegGroup := [
  -- CFL_TX_CMD
  ⟨0x711028, 1, 1, 1, 16777216, [32257], [⟨15, 15, .wo, .live, []⟩, ⟨14, 13, .rw, .live, []⟩, ⟨12, 9, .rw, .live, [(0, 7), (15, 15)]⟩, ⟨6, 0, .rw, .live, [(1, 64)]⟩]⟩,
  -- CFL_TX_PTR
  ⟨0x711029, 1, 1, 1, 16777216, [0], [⟨10, 0, .rw, .live, []⟩]⟩,
  -- CFL_TX_STAT
  ⟨0x71102A, 1, 1, 1, 16777216, [0], [⟨15, 15, .ro, .live, []⟩, ⟨14, 14, .w1c, .live, []⟩]⟩,
  -- CFL_RX_CFG
  ⟨0x71102B, 1, 1, 1, 16777216, [0], [⟨15, 9, .rw, .stopped, []⟩, ⟨8, 3, .rw, .stopped, []⟩, ⟨2, 2, .rw, .live, []⟩]⟩,
  -- CFL_RX_WR
  ⟨0x71102C, 1, 1, 1, 16777216, [0], [⟨15, 0, .ro, .live, []⟩]⟩,
  -- CFL_RX_RD
  ⟨0x71102D, 1, 1, 1, 16777216, [0], [⟨15, 0, .rw, .live, []⟩]⟩,
  -- CFL_RX_STAT
  ⟨0x71102E, 1, 1, 1, 16777216, [0], [⟨7, 0, .rc, .live, []⟩]⟩]

/-- Registers of the page 0x711. -/
def groups711 : List RegGroup := groups711_0 ++ groups711_1

/-- Registers of the page 0x712. -/
def groups712 : List RegGroup := [
  -- FLT_CFG_REJ
  ⟨0x712002, 1, 1, 1, 16777216, [0], [⟨15, 15, .w1c, .live, []⟩, ⟨11, 0, .ro, .live, []⟩]⟩,
  -- FLT_STAT
  ⟨0x712003, 1, 1, 1, 16777216, [0], [⟨15, 15, .w1c, .live, []⟩, ⟨14, 8, .ro, .live, []⟩, ⟨5, 0, .ro, .live, []⟩]⟩,
  -- FLT_POP
  ⟨0x712004, 1, 1, 1, 16777216, [0], [⟨6, 0, .wo, .live, [(1, 64)]⟩]⟩,
  -- FLT_SEQ
  ⟨0x712005, 1, 1, 1, 16777216, [0], [⟨15, 0, .ro, .live, []⟩]⟩,
  -- FLT_LOST_CNT
  ⟨0x712006, 1, 1, 1, 16777216, [0], [⟨15, 0, .rc, .live, []⟩]⟩,
  -- FLT_PEND
  ⟨0x712008, 2, 1, 2, 16777216, [0], [⟨15, 0, .w1c, .live, []⟩]⟩,
  -- FLT_MASK
  ⟨0x71200A, 2, 1, 2, 16777216, [0], [⟨15, 0, .rw, .live, []⟩]⟩,
  -- FLT_LOST
  ⟨0x71200C, 2, 1, 2, 16777216, [0], [⟨15, 0, .w1c, .live, []⟩]⟩,
  -- FLT_FAULTN
  ⟨0x71200E, 1, 1, 1, 16777216, [49152], [⟨15, 15, .ro, .live, []⟩, ⟨14, 14, .ro, .live, []⟩, ⟨13, 13, .ro, .live, []⟩, ⟨12, 12, .ro, .live, []⟩, ⟨11, 11, .ro, .live, []⟩, ⟨10, 10, .ro, .live, []⟩]⟩,
  -- FLT_SW_0
  ⟨0x712010, 1, 1, 1, 16777216, [0], [⟨15, 8, .rw, .live, []⟩, ⟨7, 0, .rw, .live, [(128, 255)]⟩]⟩,
  -- FLT_SW_ARG
  ⟨0x712011, 2, 1, 2, 16777216, [0], [⟨15, 0, .rw, .live, []⟩]⟩,
  -- FLT_SW_GO
  ⟨0x712013, 1, 1, 1, 16777216, [0], [⟨15, 15, .wo, .live, []⟩]⟩,
  -- FLT_REC_PERR
  ⟨0x712020, 12, 1, 12, 16777216, [0], [⟨15, 0, .ro, .live, []⟩]⟩]

/-- Registers of the page 0x713. -/
def groups713 : List RegGroup := [
  -- EVT_CFG_REJ
  ⟨0x713002, 1, 1, 1, 16777216, [0], [⟨15, 15, .w1c, .live, []⟩, ⟨11, 0, .ro, .live, []⟩]⟩,
  -- EVT_CFG
  ⟨0x713003, 1, 1, 1, 16777216, [0], [⟨15, 8, .rw, .live, []⟩, ⟨7, 0, .rw, .live, []⟩]⟩,
  -- EVT_STAT
  ⟨0x713004, 1, 1, 1, 16777216, [0], [⟨15, 15, .w1c, .live, []⟩, ⟨12, 8, .ro, .live, []⟩, ⟨7, 0, .rc, .live, []⟩]⟩,
  -- EVT_FIFO
  ⟨0x713008, 8, 1, 8, 16777216, [0], [⟨15, 0, .ro, .live, []⟩]⟩]

/-- The register groups that may hold the register at `gwa`: the register blocks by base (R41), and the Channel Table
and the Search Job Table (R38). -/
def groupsAt (gwa : Nat) : List RegGroup :=
  match gwa / 0x1000 with
  | 0x640 => groups640
  | 0x641 => groups640
  | 0x642 => groups640
  | 0x650 => groups650
  | 0x651 => groups650
  | 0x652 => groups650
  | 0x653 => groups650
  | 0x654 => groups650
  | 0x655 => groups650
  | 0x656 => groups650
  | 0x657 => groups650
  | 0x658 => groups650
  | 0x659 => groups650
  | 0x65A => groups650
  | 0x65B => groups650
  | 0x700 => groups700
  | 0x701 => groups701
  | 0x702 => groups702
  | 0x703 => groups703
  | 0x704 => groups704
  | 0x705 => groups705
  | 0x706 => groups706
  | 0x707 => groups707
  | 0x708 => groups708
  | 0x709 => groups709
  | 0x70A => groups70A
  | 0x70B => groups70B
  | 0x70C => groups70C
  | 0x70D => groups70D
  | 0x70E => groups70E
  | 0x70F => groups70F
  | 0x710 => groups710
  | 0x711 => groups711
  | 0x712 => groups712
  | 0x713 => groups713
  | _ => []

/-- The index of the register at `gwa` in group `g`, if it is one of the group's. -/
def RegGroup.index? (g : RegGroup) (gwa : Nat) : Option Nat :=
  if gwa < g.base then none
  else
    let d := gwa - g.base
    let r := d % g.big
    let i := d / g.big * g.per + r / g.stride
    if r % g.stride = 0 ∧ r / g.stride < g.per ∧ i < g.count then some i else none

/-- The first group of `gs` that holds the register at `gwa`, with its index. -/
def findGroup (gwa : Nat) : List RegGroup → Option (RegGroup × Nat)
  | [] => none
  | g :: gs =>
    match g.index? gwa with
    | some i => some (g, i)
    | none => findGroup gwa gs

/-- The register group at `gwa`, if any: an offset that holds no register has none (R40). -/
def regAt (gwa : Nat) : Option (RegGroup × Nat) := findGroup gwa (groupsAt gwa)

/-- The reset word of the register at `gwa` (0 where there is no register, R40). -/
def resetWord (gwa : Nat) : Word :=
  match regAt gwa with
  | none => 0
  | some (g, i) =>
    match g.resets with
    | [w] => BitVec.ofNat 16 w
    | ws => BitVec.ofNat 16 (ws.getD i 0)

/-- The bits of field `f` as a mask over the word. -/
def RegField.mask (f : RegField) : Nat := (2 ^ (f.hi + 1 - f.lo) - 1) * 2 ^ f.lo

/-- The bits of the fields of `g` that satisfy `p`, as a mask. -/
def RegGroup.maskOf (g : RegGroup) (p : RegField → Bool) : Nat :=
  (g.fields.filter p).foldl (fun m f => m ||| f.mask) 0

/-- Whether the value `w` puts an accepted value in field `f` (R17). -/
def RegField.accepts (f : RegField) (w : Nat) : Bool :=
  f.ok.isEmpty || f.ok.any (fun r => r.1 ≤ bitsOf w f.hi f.lo && bitsOf w f.hi f.lo ≤ r.2)

end Sys2Proof.Machine
end

