-- ==== Sys2Proof/Machine/State.lean ====
section
/-!
DEFINITION. The state of the block: every register, buffer, counter, mode and pin that spec/ gives the KE2192, as plain
data, with the value after reset of every field. `INVENTORY.md` lists each with its rule.
-/

namespace Sys2Proof.Machine

/-- Reasons a run stops with a fault. The spec's own faults are records in the fault ring, never a stop; the model has
no behaviour that ends in this type. -/
inductive Fault where
  /-- Raised by no meaning: an empty reason would leave the type without a value to compare. Safe. -/
  | none
  deriving DecidableEq, Repr

/-- Reasons a command has no meaning in the model. -/
inductive Refusal where
  /-- Raised by an arm of `exec` that has no meaning yet. Safe: the run stops. -/
  | notModelled (mnemonic : String)
  deriving DecidableEq, Repr

/-! ## Integrity and faults (chapter 19) -/

/-- A fault raised in this system clock and not yet entered in the ring (R561). -/
structure FaultEvent where
  code : Nat
  unit : Nat
  /-- The master concerned, where the code table makes MASTER meaningful (R566). -/
  master : Option Nat
  arg : Nat
  pre : Bool
  tick : Nat
  phase : Nat
  deriving DecidableEq, Repr

/-- The FLT block (R561 to R567). -/
structure FaultSt where
  /-- The words of the ring's slots; a word not listed reads 0 (R567). -/
  ring : WMap := []
  rd : Nat := 0
  depth : Nat := 0
  ovf : Bool := false
  seq : Nat := 0
  lostCnt : Nat := 0
  /-- PEND, one bit per block, block ID b at bit b − 1 (R565). -/
  pend : Nat := 0
  /-- LOST, one bit per block. -/
  lost : Nat := 0
  /-- The faults raised in the clock in progress (R563). -/
  now : List FaultEvent := []
  /-- A switch failed with no image to recover (R555). -/
  noImg : Bool := false
  deriving DecidableEq, Repr

/-! ## Clocks, tick and the time base's counter (chapters 01, 08) -/

/-- The tick generator and the clock that serves the internal domains (R20 to R27). -/
structure ClkSt where
  /-- The internal domains run from the 200 MHz limp oscillator (R22, R280). -/
  limp : Bool := true
  /-- The boot ROM has released the tick (R37, R539). -/
  running : Bool := false
  /-- System clocks (limp cycles on the limp oscillator) since the tick edge. -/
  phase : Nat := 0
  /-- Length of the tick in progress, in the same unit (R23, R24, R27). -/
  tickLen : Nat := 491520
  /-- SYS_TICK_COUNT (R37). -/
  tickCount : Nat := 0
  /-- The time base counts (R230). -/
  tbRun : Bool := false
  /-- The time base, in units of 2⁻⁸⁸ ÷ 3 ns: three system clocks at rate 0 are 3 × 400,000 × 2⁷² units (R227). -/
  acc : Nat := 0
  /-- Place in the pattern of three clocks of the nominal advance: 133,333, 133,333, 133,334 units of 2⁻¹⁶ ns (R227). -/
  third : Nat := 0
  /-- Clocks of the internal domains since reset. -/
  total : Nat := 0
  /-- Time since reset, in units of which a system clock takes 625 and a limp cycle 1,536 (R20, R22): 307,200,000 to the ms. -/
  age : Nat := 0
  /-- Band samples taken in the tick in progress before the clocks last changed, and the phase from which they are taken on
  the system clock now: 0, or that of a release within the tick (R20, R90). -/
  smp : Nat := 0
  smpFrom : Nat := 0
  /-- Clock count at the last synchronous release: coincidence edges are 12 clocks apart from it (R21). -/
  relAt : Nat := 0
  /-- Units being woken, engines 0 to 7, lane groups 8 to 15, pipelines 16 to 19, with the clock count at which each reads
  powered; and the clock count before which no further wake starts (R425). -/
  waking : List (Nat × Nat) := []
  nextWake : Nat := 0
  deriving DecidableEq, Repr

/-! ## Package and supplies (chapter 02) -/

/-- The stages of R67; `unpowered` while VDD_CORE is off. -/
inductive Stage where
  | unpowered | inReset | boot | running
  deriving DecidableEq, Repr

/-- Power, reset and the control balls (R57 to R67). -/
structure PwrSt where
  /-- Rails in their run range, in the order of R57: VDD_CORE, VDD_MEM, VDD_RET, VDDA_10, VDDA_18, VDD_IO_A, VDD_IO_B,
  VIN_ANT. -/
  rails : List Bool := [true, true, true, true, true, true, true, true]
  /-- The level of VDD_IO_A and VDD_IO_B sensed as the rail rose: true is 3.3 V (R59). In State.reset both stand at 3.3 V, which
  the spec leaves to the board (DESIGN CHOICE, log entry 135). -/
  io33A : Bool := true
  io33B : Bool := true
  stage : Stage := .boot
  /-- The RST_N ball is low. -/
  rstLow : Bool := false
  /-- The power-on detector holds the device in reset (R63, R64). -/
  porHold : Bool := false
  /-- BOOT_MODE as sampled at the end of reset (R63). -/
  bootMode : Nat := 0

  /-- The sources that hold the device in reset: 0 power-on, 1 RST_N, 2 debug (R535). -/
  sources : List Nat := [0]
  /-- A TAP instruction that holds the GATE balls low is in force (R52). -/
  tapHold : Bool := false
  deriving DecidableEq, Repr


/-! ## Aerial front ends (chapter 03) -/

/-- Front-end state beyond the registers (R77 to R100). FESM states, causes and path states are in FE_STAT. -/
structure FeSt where
  /-- LO calibration runs (R89). -/
  loCalRunning : Bool := false
  /-- `ClkSt.age` at which each FESM entered its state, or, in FAULT with cause SHORT, at which its retry interval began (R79,
  R94); at which each path entered CAL (R98); and at which lock was lost in RUN (R92). -/
  fesmAt : List Nat := [0, 0]
  pathAt : List Nat := [0, 0, 0, 0, 0, 0]
  lostAt : Option Nat := none
  /-- Good and bad windows in a row of each LO's frequency check, and `ClkSt.age` at which its window began (R88). -/
  loGood : List Nat := [0, 0, 0]
  loBad : List Nat := [0, 0, 0]
  loFrom : List Nat := [0, 0, 0]
  /-- The path's calibration has passed in the GAIN_CAL in progress (R94, R98). -/
  calOk : List Bool := [false, false, false, false, false, false]
  /-- Band sample of the tick in progress at which the path stopped (R93). -/
  cut : List (Option Nat) := [none, none, none, none, none, none]
  /-- GAIN_CAL of the aerial has passed; RUN is entered at the next tick edge (R94). -/
  gainCalOk : List Bool := [false, false]
  /-- Paths that go to OFF, to CAL, to RUN at the next tick edge (R96, R97, R92). -/
  toOff : List Bool := [false, false, false, false, false, false]
  toCal : List Bool := [false, false, false, false, false, false]
  toRun : List Bool := [false, false, false, false, false, false]
  /-- Paths in HOLD because their LO relocks (R91, R92). -/
  loHold : List Bool := [false, false, false, false, false, false]
  /-- The path delivers samples now (R93). -/
  deliver : List Bool := [false, false, false, false, false, false]
  /-- The path has delivered samples without a break since the last tick edge (R93). -/
  whole : List Bool := [false, false, false, false, false, false]
  /-- The path delivered samples through the whole of the last tick (R93). -/
  lastWhole : List Bool := [false, false, false, false, false, false]
  /-- The bias switch has been closed since the last tick edge (R78). -/
  biasWhole : List Bool := [false, false]
  /-- The bias switch was open when the limp switch put the FESM in FAULT, and stays so (R90). -/
  limpOpen : List Bool := [false, false]
  /-- Ticks in a row with VIN_ANT below 5.70 V (R80). -/
  vinOk : Nat := 0
  deriving DecidableEq, Repr


/-! ## Sample conditioning (chapter 04) -/

/-- A complex sum. -/
structure Cplx where
  re : Int := 0
  im : Int := 0
  deriving DecidableEq, Repr

/-- A sample that a path has taken: I and Q as the ADCs deliver them (R85), and the mixer's output, zero where the path
delivers zeros (R93, R107). -/
structure Taken where
  i : Int
  q : Int
  x : Cplx
  deriving DecidableEq, Repr

/-- A sample at the blanker: over the threshold; within HOLD of such a sample; blanking on (R109). -/
structure Blank where
  x : Cplx := {}
  hit : Bool := false
  held : Bool := false
  en : Bool := false
  deriving DecidableEq, Repr

/-- A sample on its way to the fabric (R124): after the blanker, and requantised (R120). -/
structure Lined where
  x : Cplx := {}
  i : Int := 0
  q : Int := 0
  deriving DecidableEq, Repr

/-- The last two inputs and outputs of a second-order filter (R111). -/
structure Biquad where
  x1 : Cplx := {}
  x2 : Cplx := {}
  y1 : Cplx := {}
  y2 : Cplx := {}
  deriving DecidableEq, Repr

/-- Sample conditioning beyond the registers (R105 to R123). -/
structure DfeSt where
  /-- The mixers' phase accumulators, one per band, and the decimator's, in 1/65,536 cycle (R107, R108, R122). -/
  mixPhase : List Nat := [0, 0, 0]
  decPhase : Nat := 0
  /-- Band samples since the decimator's last output (R122, R123). -/
  decCount : Nat := 0
  /-- Band sample of the tick in progress from which these phases count: 0, or that of a release within the tick. -/
  phaseFrom : Nat := 0
  /-- Samples that each path has taken since the tick edge, and since its AGC window began (R81). -/
  taken : List (List Taken) := [[], [], [], [], [], []]
  win : List (List Taken) := [[], [], [], [], [], []]
  /-- Each path at the tick edge: samples that the blanker still holds back, samples left of its HOLD (R109), the notch
  filters, eight to a path (R111), and the samples on their way to the fabric (R124). -/
  tail : List (List Blank) := List.replicate 6 (List.replicate 4 {})
  hold : List Nat := [0, 0, 0, 0, 0, 0]
  notch : List Biquad := List.replicate 48 {}
  line : List (List Lined) := List.replicate 6 (List.replicate 20 {})
  /-- Inputs of the decimator's filter, the latest first (R122). -/
  decHist : List Cplx := []
  /-- Changes within the tick in progress: (path, band sample, DFE_BLANK before) and (notch, band sample, frequency before). -/
  blankLog : List (Nat × Nat × Nat) := []
  trackLog : List (Nat × Nat × Int) := []
  /-- Tracked frequency of each notch (R113), signed, in 1,250 Hz. -/
  track : List Int := List.replicate 48 0
  /-- Consecutive spectra in which an assigned notch's bin stayed below CW_TH − 3 dB (R112). -/
  quiet : List Nat := List.replicate 48 0
  /-- Assignments (notch, frequency) and releases that take effect at the next tick edge (R112). -/
  assign : List (Nat × Int) := []
  release : List Nat := []
  /-- CW and UNCOV of each path's last spectrum (R118). -/
  cw : List Bool := [false, false, false, false, false, false]
  uncov : List Bool := [false, false, false, false, false, false]
  /-- Ticks for which UNCOV, BROAD, PULSE of each path have been 0 (R119). -/
  zeroTicks : List Nat := List.replicate 18 0
  /-- CAP waits for the next tick edge. -/
  cap : List Bool := [false, false, false, false, false, false]
  /-- The requantiser gain applied now (R121). -/
  reqGain : List Nat := [32, 32, 32, 32, 32, 32]
  /-- Spectra are taken in this tick; spectra of the last tick wait to be written; which paths delivered (R115). -/
  specRun : Bool := false
  specReady : Bool := false
  specValid : List Bool := [false, false, false, false, false, false]
  /-- The buffer the next spectra go to, and the spectra that wait to be written (R115, R116). -/
  specBuf : Nat := 0
  spectra : List (List Word) := [[], [], [], [], [], []]
  deriving DecidableEq, Repr


/-! ## Correlator channels, diversity and records (chapters 05, 06) -/

/-- What a record takes at its period's start edge (R194, R196). -/
structure StartEdge where
  tick : Nat := 0
  stampW : List Word := []
  chip : Nat := 0
  sec : Nat := 0
  codeFrac : Nat := 0
  carrFrac : Nat := 0
  cycles : Nat := 0
  codeRate : Nat := 0
  carrRate : Nat := 0
  dphi : Int := 0
  st : Nat := 0
  prim : Nat := 0
  sw : Bool := false
  swr : Nat := 0
  phBrk : Bool := false
  dphiV : Bool := false
  roamM : Nat := 0
  deriving DecidableEq, Repr

/-- A finished period that waits to be posted (R155, R191). -/
structure PeriodBuf where
  start : StartEdge
  /-- Tap sums: aerial A taps 0 to 6, then aerial B (R126). -/
  acc : List Cplx
  head : List Cplx
  epochOfs : Nat
  noEpoch : Bool
  stale : Bool
  stopped : Bool
  partialPer : Bool
  clkq : Bool
  invalid : Bool
  dphiInit : Bool
  satA : Bool
  satB : Bool
  zeroA : Bool
  zeroB : Bool
  aer : Nat
  deriving DecidableEq, Repr

/-- A channel beyond its descriptor (R128 to R192). The state, cause and counts are descriptor words 0x38 to 0x3B. -/
structure Chan where
  /-- Code NCO: chip counter and 48-bit fraction (R144). -/
  chip : Nat := 0
  codeFrac : Nat := 0
  /-- Secondary index (R131). -/
  sec : Nat := 0
  /-- Carrier NCO: 48-bit fraction and the cycle counter, mod 2³² (R145). -/
  carrFrac : Nat := 0
  cycles : Nat := 0
  /-- Samples of the tick in progress that have been run, and the next samples a window end has taken (R175). -/
  ran : Nat := 0
  /-- Roaming position m (R133). -/
  roamM : Nat := 0
  /-- A ROAM field has become active at the edge at hand (R133). -/
  roamFresh : Bool := false
  /-- The 14 accumulators of the period (R134), and the head sums of the two prompts (R136). -/
  acc : List Cplx := List.replicate 14 {}
  head : List Cplx := [{}, {}]
  epochOfs : Nat := 0
  noEpoch : Bool := true
  /-- Samples and ticks since the period's start edge, and its length in ticks (R135). -/
  perSamples : Nat := 0
  perTicks : Nat := 0
  perLen : Nat := 1
  satA : Bool := false
  satB : Bool := false
  zeroA : Bool := false
  zeroB : Bool := false
  clkq : Bool := false
  invalid : Bool := false
  /-- A path of the channel delivered zeros in the tick in progress (R174). -/
  tickZero : Bool := false
  staleSeen : Bool := false
  start : StartEdge := {}
  /-- A finished period waits to be posted. -/
  buf : Option PeriodBuf := none
  /-- SEQ of the next record (R191). -/
  seq : Nat := 0
  /-- Periods finished since the start edge, for the fault of R134. -/
  satPrev : Bool := true
  /-- Commands for the next tick edge, and for the one after (R151, R156, R158): STOP; 0 none, 2 TRACK, 3 PULL. -/
  stopNext : Bool := false
  modeNext : Nat := 0
  stopLate : Bool := false
  modeLate : Nat := 0
  /-- The STALE limit has been reached (R154). -/
  limitHit : Bool := false
  /-- Weir sheds the channel at the next tick edge (R160). -/
  shedNext : Bool := false
  /-- Primary aerial: 0 A, 1 B (R169). -/
  prim : Nat := 0
  /-- Coherent prompt sums of the segment in progress, and samples since the epoch's start (R173). -/
  seg : List Cplx := [{}, {}]
  segSamples : Nat := 0
  /-- Σ P_B × conj(P_A) over the period's finished segments (R179). -/
  cross : Cplx := {}
  /-- A segment has ended in the period (R179). -/
  segEnd : Bool := false
  /-- DPHI and its state (R179, R180). -/
  dphi : Int := 0
  dphiV : Bool := false
  dphiInit : Bool := false
  dphiGood : Nat := 0
  dphiLapse : Nat := 0
  /-- The period in progress initialised DPHI. -/
  dphiInitPer : Bool := false
  /-- Decision window: running, energies, epochs in it, void (R171 to R174). -/
  winOn : Bool := false
  winE : List Nat := [0, 0]
  winEpochs : Nat := 0
  winVoid : Bool := false
  /-- Wraps since the anchor, when one is set (R172). -/
  wraps : Nat := 0
  anchored : Bool := false
  /-- FRAME_OFS has been written since the last activation; the pending copy carries such a write (R172). -/
  ofsWritten : Bool := false
  ofsPending : Bool := false
  ofsLate : Bool := false
  /-- A window has ended in the stretch of samples just run (R174). -/
  winEnded : Bool := false
  /-- A pending decision: the aerial named, and samples since the window's last sample (R175). -/
  decision : Option Nat := none
  decSamples : Nat := 0
  /-- The decision that was pending before the first window that DIV_DECISION ended in the tick in progress (R174). -/
  decBefore : Option (Option Nat) := none
  /-- Clock count at which START was accepted, and the state before it (R157). -/
  armedAt : Nat := 0
  armedFrom : Nat := 0
  /-- ARMED by a search handover: band samples from the searched block's first sample to the last latch sample, the
  peak's PHASE × D in 1/16 band sample, and tick edges that come too soon (R219, R221). -/
  ho : Bool := false
  hoAge : Int := 0
  hoPhase : Nat := 0
  hoSkip : Nat := 0
  deriving DecidableEq, Repr

/-- The channels and the direction groups. -/
structure ChSt where
  chans : List Chan := List.replicate 192 {}
  /-- Consecutive tick edges at which each group's condition held, and failed (R187). -/
  dirHold : List Nat := [0, 0, 0, 0, 0, 0, 0, 0]
  dirFail : List Nat := [0, 0, 0, 0, 0, 0, 0, 0]
  /-- The last switch to the limp oscillator has met its first tick edge (R161). -/
  limpSeen : Bool := true
  deriving DecidableEq, Repr


/-! ## Search engine (chapter 07) -/

/-- A peak of a search job (R217): code index, grid index, phase in 1/16 sample, RATIO in 1/16 dB (0: empty slot). -/
structure Peak where
  code : Fin 16
  dop : Fin 256
  phase : Fin 1048576
  ratio : Fin 4096
  deriving DecidableEq, Repr

/-- A job that has left its computation and waits to write its record (R218). -/
structure Finish where
  outcome : Nat
  err : Nat
  noise : Nat
  peaks : List Peak
  newState : Nat
  deriving DecidableEq, Repr

/-- A pipeline (R199, R207, R212 to R218, R222). -/
structure Pipe where
  job : Option Nat := none
  waited : Bool := false
  /-- Number, within its generation, of the first sample of the span, and its generation (R214). -/
  pos : Option Nat := none
  gen : Nat := 0
  /-- The spectrum memory: the code spectra of the job (R207). -/
  spec : List Word := []
  /-- Clock count before which the job does not end (R206, R222). -/
  due : Nat := 0
  fin : Option Finish := none
  deriving DecidableEq, Repr

/-- A stretch of a capture generation with one decimation and one centre frequency (R123, R203, R219). -/
structure CapSeg where
  /-- Its first sample, and band samples from the latch stamp of the generation's edge to that sample's ADC time. -/
  start : Nat := 0
  ofs : Int := 0
  /-- D and DEC_MIX in force. -/
  dec : Nat := 0
  mix : Int := 0
  deriving DecidableEq, Repr

/-- A capture generation (R202 to R204). -/
structure CapGen where
  /-- Samples written. -/
  written : Nat := 0
  /-- Ring length in words. -/
  ring : Nat := 0
  snap : Bool := false
  /-- Decimated samples yet to come whose ADC time lies before the generation's latch stamp: they are not written (R202). -/
  skip : Nat := 0
  /-- Its stretches, the latest first. -/
  segs : List CapSeg := []
  /-- Band samples from the generation's edge to the last tick edge. -/
  since : Nat := 0
  disc : Option Nat := none
  clkq : Bool := false
  deriving DecidableEq, Repr

/-- The search engine beyond its registers and the Search Job Table. -/
structure SrchSt where
  pipes : List Pipe := [{}, {}, {}, {}]
  /-- The generation in progress or ended last, and the one before it. -/
  cur : CapGen := {}
  old : CapGen := {}
  /-- Ticks in a row in which no READY job of an allowed class existed (R424). -/
  idle : Nat := 0
  deriving DecidableEq, Repr


/-! ## Time base, time pulses, events (chapter 08) -/

/-- A discipline update (R231). -/
structure Update where
  qual : Nat
  rate : Option Int
  step : Option Int
  unc : Nat
  deriving DecidableEq, Repr

/-- The time base beyond its registers and its counter (R227 to R253). -/
structure TbSt where
  /-- RATE_EFF with its slew term, in 2⁻⁷² (R227, R237, R248). -/
  eff : Int := 0
  /-- Active TB_RATE, in 2⁻⁴⁰, and its values at the last 64 tick edges (R237). -/
  rate : Int := 0
  hist : List Int := []
  /-- Updates that count for the tick in progress and for the next (R231). -/
  upd : Option Update := none
  updLate : Option Update := none
  /-- Missed ticks are counted (R233). -/
  counting : Bool := false
  /-- Coast: RATE_AVG as a sum and a count, ticks since entry, c₀ in 1/64, S (R237). -/
  avgSum : Int := 0
  avgCount : Nat := 1
  coastTicks : Nat := 0
  c0 : Nat := 0
  steps : Int := 0
  /-- Steps that the synthesiser reported at the last tick edge, and whether a rate became active at it (R235, R237). -/
  edgeStep : Int := 0
  newRate : Bool := false
  /-- Planned coast: ticks left, and a request for the next edge (R235). -/
  pcLeft : Nat := 0
  pcReq : Nat := 0
  /-- UNC in 0.25 ns, and B in 10⁻⁶ ns ÷ (86,400,000 × 64) (R240, R241). -/
  unc : Nat := 0
  bound : Nat := 0
  /-- B is not valid since a limp episode; a limp switch waits for the tick edge (R241, R243). -/
  taint : Bool := false
  /-- The coast in progress was entered from FREERUN or ACQUIRING (R241). -/
  rawCoast : Bool := false
  limpPend : Bool := false
  /-- Consecutive ticks of a qualifying run (R242). -/
  run : Nat := 0
  /-- Pending step or held offset, in 2⁻¹⁶ ns; `ClkSt.age` at its activation edge (R246, R247, R249). -/
  offset : Int := 0
  stepAt : Nat := 0
  /-- Remaining slew, and the part of it in the tick in progress, in 2⁻¹⁶ ÷ (4,000 × 491,520) ns (R248). -/
  slew : Int := 0
  slewNow : Int := 0
  /-- Approval for the next edge: 0 none, 1 as a step, 2 as a slew (R249). -/
  approve : Nat := 0
  /-- Whole-second step armed, in seconds, and `ClkSt.age` at its write (R545). -/
  sec : Int := 0
  secAt : Nat := 0
  /-- Reading right after the last step (R264). -/
  stepped : Option Nat := none
  /-- Time-base second of the last inserted leap second (R253). -/
  inserted : Option Nat := none
  deriving DecidableEq, Repr

/-- A time-pulse output beyond its registers (R247, R254 to R259). -/
structure TpOut where
  /-- Index of the next pulse: its target is this many periods on the scale. -/
  next : Int := 0
  /-- `ClkSt.age` of the clock of the last leading edge, and what the edge came after it, in counter units over 1,000. -/
  lead : Option Nat := none
  leadR : Nat := 0
  /-- The pulse is active, with the POL it began with; its end, as a reading of the time base and, after a step, as
  `ClkSt.age`. -/
  active : Bool := false
  pol : Bool := false
  endAcc : Nat := 0
  endAge : Option Nat := none
  /-- Indices skipped in the run in progress (R247). -/
  skips : Nat := 0
  /-- Fine-delay taps of the last edge placed (R255). -/
  taps : Nat := 0
  deriving DecidableEq, Repr

/-- Time pulses, TOD_OUT and CFL_PPS_OUT (output 4). -/
structure TpSt where
  outs : List TpOut := [{}, {}, {}, {}, {}]
  /-- Stopped by a tamper source (R527). -/
  stopped : Bool := false
  /-- The second of the next TOD message, when settled, as the time base numbers it; the last message, `ClkSt.age` at its
  start and its bit rate; the count of messages (R263, R264). -/
  todNext : Option Int := none
  todLast : List Nat := []
  todAt : Option Nat := none
  todRate : Nat := 115200
  todSeq : Nat := 0
  /-- Messages of seconds before this one have been sent already, and are sent again after a backward step (R263). -/
  todAgain : Option Int := none
  deriving DecidableEq, Repr

/-- The event FIFO (R265, R266, R584). -/
structure EvtSt where
  /-- Entries of eight words, oldest first. -/
  fifo : List (List Word) := []
  /-- Entries reserved by the host port, oldest first. -/
  held : List (List Word) := []
  /-- Each master's shadow of words 1 to 7. -/
  shadow : List (Nat × List Word) := []
  /-- ENTRY count of the next entry. -/
  count : Nat := 0
  /-- Clock count of the last edge entered, and the entries of that clock at the end of the FIFO (R265). -/
  lastAt : Nat := 0
  fresh : Nat := 0
  /-- Of each input's last detected edge: `ClkSt.age`, and the instant after that clock in 2⁻¹⁶ ns (R266). -/
  seen : List (Option (Nat × Nat)) := []
  /-- Fault 0x0610 recorded in this spell of a full FIFO. -/
  spell : Bool := false
  deriving DecidableEq, Repr


/-! ## Timing synthesiser (chapter 09) -/

/-- The synthesiser beyond its registers (R269 to R298). -/
structure SynSt where
  /-- The first synchronous release since reset has been made (R94, R230). -/
  firstLock : Bool := false
  /-- Remaining slew in ps ÷ 307,200,000, signed as J; it brings SYN_BO_SUM to 0; what it has moved since the last tick edge,
  and `ClkSt.age` up to which it has moved; the offset last reported, in 2⁻⁴⁰ (R286). -/
  slew : Int := 0
  slewSum : Bool := false
  slewMoved : Int := 0
  slewAt : Nat := 0
  /-- ALIGN_NOW was written while another slew runs: its slew follows (R286). -/
  slewNext : Bool := false
  slewOfs : Int := 0
  /-- Steps armed for the next tick edge and for the one after, and whether the ramp ran then (R287, R288). -/
  step : Option (Int × Bool) := none
  stepLate : Option (Int × Bool) := none
  /-- Ramp steps applied in the current segment (R289). -/
  rampCount : Nat := 0
  /-- The dither LFSR: the seed it was loaded with, and PFD edges since (R270). -/
  seed : Nat := 0xACE1
  pfdEdges : Nat := 0
  /-- Lock windows (R276): `ClkSt.age` at which the one in progress began, good and bad ones in a row, steps within it times
  their instants, the slew within it; the mean control value of the last good one (R277). -/
  lkFrom : Option Nat := none
  lkGood : Nat := 0
  lkBad : Nat := 0
  lkAdj : Int := 0
  lkSlew : Int := 0
  lkCval : Option Nat := none
  /-- `ClkSt.age` at which the loop entered LOCKED (R275, R280), and at which acquisition began (R281). -/
  lockAt : Option Nat := none
  acqAt : Nat := 0
  /-- Of each input: `ClkSt.age` at which its validation window began, good windows in a row, and `ClkSt.age` since which it is
  VALID (R279, R284). -/
  valFrom : List (Option Nat) := [none, none]
  valGood : List Nat := [0, 0]
  validAt : List Nat := [0, 0]
  /-- Of each output, CLK_OUT 0 to 5 and CLK_SE 0 and 1: its run condition as last followed, the clock count from which it
  holds, and `ClkSt.age` at which the high half-period ends that a stop lets it complete (R292 to R294). -/
  outOn : List Bool := List.replicate 8 false
  outFrom : List Nat := List.replicate 8 0
  outLow : List Nat := List.replicate 8 0
  /-- Output phase against the reference since the release, in 2⁻⁴⁰ system clocks: OFS over the ticks that have ended (R282). -/
  drift : Int := 0
  /-- Outputs stopped by a tamper source (R527). -/
  stopped : Bool := false
  deriving DecidableEq, Repr

/-! ## Sluice unit (chapter 10) -/

/-- A gate beyond its registers (R301 to R312). Its state is SLC_GATE_STAT_n.STATE; its current T-class values are the
active words of its registers. -/
structure Gate where
  /-- Values of the latest activation edge, waiting for the gate's boundary (R304). -/
  waiting : Option WMap := none
  /-- Reading of the frame's boundary in ns while the gate runs a frame, and the next edge of it. -/
  frame : Option Nat := none
  edge : Nat := 0
  /-- The next boundary lies at or after this reading, in ns. -/
  from_ : Nat := 0
  /-- The gate is open: clock count at the opening edge, and the limit in system clocks taken there (R309). -/
  opened : Option Nat := none
  limit : Nat := 0
  /-- Clock count at which a burst in progress at a step closes (R311). -/
  closeAt : Option Nat := none
  /-- A fall of RST_N that reset nothing holds the ball low until the burst ends (R65). -/
  mute : Bool := false
  /-- `ClkSt.age` at which ARM_PENDING times out (R308). -/
  armEnd : Nat := 0
  /-- Clock count of the last trip (R312). -/
  tripAt : Option Nat := none
  deriving DecidableEq, Repr

/-- The Sluice unit. -/
structure SlcSt where
  gates : List Gate := List.replicate 16 {}
  /-- A tamper with GATE_STOP is in force (R527, R585). -/
  stopped : Bool := false
  /-- SCRAPPED is in force, since the tick edge after the transition (R514). -/
  scrapped : Bool := false
  deriving DecidableEq, Repr

/-! ## Tabile engines (chapters 11, 12, 13) -/

/-- A register, or a part of one, that a result lands in (R319, R342, R367). -/
inductive Dest where
  | w (i : Nat) | a (i : Nat) | aL (i : Nat) | aH (i : Nat) | aHs (i : Nat) | aG (i : Nat)
  | x (i : Nat) | xL (i : Nat) | xH (i : Nat) | m (i : Nat) | bL (i : Nat) | bH (i : Nat) | l (i : Nat)
  | p | pBit (i : Nat) | lk | lkT | lc (i : Nat)
  /-- The bits of ST under a mask. -/
  | st (mask : Nat)
  deriving DecidableEq, Repr

/-- A result in flight: cycles until it lands, where, and its value (R341). `mac`: of a multiply form (R344). -/
structure Land where
  dist : Nat
  dest : Dest
  val : Nat
  mac : Bool := false
  deriving DecidableEq, Repr

/-- A pending change of flow: a branch, or a return from trap (R345, R351). -/
structure Jump where
  slots : Nat
  target : Nat
  rtt : Bool := false
  deriving DecidableEq, Repr

/-- An open hardware loop: first parcel of the body, and its end parcel (R385). -/
structure Loop where
  first : Nat
  last : Nat
  deriving DecidableEq, Repr

/-- A Tabile engine (R316, R319). HALTED, TM, LAST_TC, IMP and TRAPS are in SYS_ENG_STAT_n. -/
structure Engine where
  w : List Word := List.replicate 16 0
  a : List (BitVec 40) := [0, 0, 0, 0]
  x : List (BitVec 24) := List.replicate 8 0
  m : List Word := List.replicate 8 0
  b : List (BitVec 24) := List.replicate 8 0
  l : List Word := List.replicate 8 0
  /-- P7 to P0, with P0 at 1. -/
  p : BitVec 8 := 1
  lk : BitVec 15 := 0
  lkT : Word := 0
  lc : List Word := [0, 0]
  st : Word := 0x4000
  /-- Address of the next parcel to issue. -/
  pc : Nat := 0
  /-- Results in flight, in order of issue. -/
  fly : List Land := []
  jump : Option Jump := none
  /-- Delay slots left of a TEND. -/
  tend : Option Nat := none
  loops : List (Option Loop) := [none, none]
  /-- The engine issues instructions; the task it runs, cycles of the run, ticks the run has touched. -/
  issuing : Bool := false
  task : Option Nat := none
  cyc : Nat := 0
  ticks : Nat := 0
  /-- Tasks placed for the tick in progress and not yet entered, in order (R412). -/
  queue : List Nat := []
  /-- Asynchronous traps that wait, and cycles since the first was raised (R349). -/
  clkTrap : Bool := false
  brk : Bool := false
  asyncWait : Nat := 0
  /-- The write buffer, oldest first (R334). -/
  wbuf : List (Nat × Word) := []
  /-- Local data memory, and the words of it that fail parity (R316, R332). -/
  loc : WMap := []
  locBad : List Nat := []
  /-- Instruction memory, decode table and microcode store, three words to a micro-word (R316, R394, R395), and the words
  of the last two that fail parity (R399): entries 0 to 63 the table, 64 to 319 the store. -/
  imem : WMap := []
  dtab : WMap := []
  ucode : WMap := []
  ucBad : List Nat := []
  /-- The task and block in each slot of local memory (R404). -/
  slots : List (Option (Nat × Nat)) := List.replicate 64 none
  /-- Cycles in tasks and switches in the tick in progress (PLC_ENG_USED). -/
  used : Nat := 0
  /-- Consecutive placements with no task on the engine (R424). -/
  idle : Nat := 0
  deriving DecidableEq, Repr

/-- A task beyond its descriptor (R406, R409, R417). -/
structure TaskSt where
  /-- OUTCOME of the tick in progress. -/
  outcome : Nat := 0
  /-- A run has completed, or was abandoned, since the descriptor last became active; cycles of the last run. -/
  done : Bool := false
  aband : Bool := false
  cyc : Nat := 0
  /-- Tick count of the last run. -/
  last : Nat := 0
  deriving DecidableEq, Repr

/-- A placement for the coming tick (R410). -/
structure Plan where
  /-- Tasks of each engine in run order, and its load in cycles. -/
  queues : List (List Nat) := List.replicate 8 []
  load : List Nat := List.replicate 8 0
  /-- Blocks that go home: engine and slot; blocks that arrive: engine, slot, task, block. -/
  out : List (Nat × Nat) := []
  into : List (Nat × Nat × Nat × Nat) := []
  deferred : List Nat := []
  deriving DecidableEq, Repr

/-- The placement unit. -/
structure PlcSt where
  tasks : List TaskSt := List.replicate 240 {}
  plan : Option Plan := none
  /-- Engines whose wake has been requested (R425). -/
  wake : List Nat := []
  /-- LOOP tasks that a switch of images has put out of use, until the new firmware's loop tasks run (R553). -/
  gap : List Nat := []
  /-- Tasks with blocks that arrive in the tick in progress, and the clock of the tick at which the last of them lands (R407). -/
  landing : List (Nat × Nat) := []
  deriving DecidableEq, Repr

/-- The Weir governor beyond its registers (R419 to R425). -/
structure WeirSt where
  /-- The level for the next tick edge, once chosen. -/
  next : Option Nat := none
  /-- Clocked decisions: ticks since the last raise caused by temperature, consecutive decisions that allow a lowering. -/
  sinceT : Option Nat := none
  recover : Nat := 0
  /-- A raise whose fall in power has not been recorded: its level, and P_EST before it (R422). -/
  raised : Option (Nat × Nat) := none
  /-- At level 9 and over: power, temperature (R422). -/
  top : Bool × Bool := (false, false)
  /-- Sensors excluded (R420). -/
  excluded : List Bool := [false, false, false, false, false, false]
  deriving DecidableEq, Repr


/-! ## Memory system (chapter 14) -/

/-- Bits in error in one stored word: flipped data bits, flipped check or parity bits (R434, R435, R439). -/
structure Flip where
  data : Word
  check : Nat
  /-- Written with a poisoned codeword (R560). -/
  poison : Bool := false
  deriving DecidableEq, Repr

/-- Memories beyond the contents map: errors, test, retention, wipe (R427 to R453). -/
structure MemSt where
  /-- Words whose stored bits are in error, addresses strictly rising. -/
  flips : List (Nat × Flip) := []
  /-- Writes of the Code Store within the tick in progress: address, band sample, word before (R142). -/
  codeLog : List (Nat × Nat × Word) := []
  /-- Clock count of the scrubber's last read (R436). -/
  scrubAt : Nat := 0
  /-- Corrected words waiting to be written back (R434). -/
  writeBack : List Nat := []
  /-- The slice the background test holds, if any (R440). -/
  borrowed : Option Nat := none
  /-- A slice start is due (R440), and the ticks since the last interval. -/
  testDue : Bool := false
  testTicks : Nat := 0
  /-- Consecutive abandons of the next slice (R443). -/
  abandons : Nat := 0
  /-- Violations (master, target) already recorded in this tick (R458). -/
  violSeen : List (Nat × Nat) := []
  /-- Masters that have read word 3 of ACC_VIOL since they last read word 0 (R458): their shadows of it count no more. -/
  violTaken : List Nat := []
  /-- Fault 0x0C01 already recorded in this tick (R434). -/
  ceSeen : Bool := false
  /-- Fault 0x0C06 already recorded in this retention (R444). -/
  retSeen : Bool := false
  /-- Fault 0x0C07 already recorded in this wipe (R447). -/
  wipeSeen : Bool := false
  /-- The wipe in progress is the second run (R448). -/
  wipeAgain : Bool := false
  /-- CAUSE of the wipe in progress (R448). -/
  wipeCause : Nat := 0
  deriving DecidableEq, Repr

/-! ## Host port and flash port (chapter 15) -/

/-- The host port beyond its registers (R460 to R476). -/
structure HostSt where
  /-- The last frame of each select was accepted, or none has ended since reset (R466). -/
  lastOk : List Bool := [true, true]
  /-- Fault 0x0D01 has been recorded in this tick, for each select (R473). -/
  rejSeen : List Bool := [false, false]
  /-- A read frame is in progress; what it has read of registers with RC fields, and the semaphores it claims (R468). -/
  open_ : Bool := false
  rc : List (Nat × Nat) := []
  claims : List Nat := []
  /-- The words the port drove in the last frame (the model's own field: what the host receives), and the levels of HP_IO_7 to
  HP_IO_0 in each beat that it drove (R462); HP_DS toggled once in each (R463). -/
  out : List Word := []
  beats : List Nat := []
  deriving DecidableEq, Repr

/-- A command frame of the flash port (R487): bytes that the flash gives, and words of the flash that it changes. -/
structure FlashCmd where
  rx : List (BitVec 8) := []
  change : List (Nat × Word) := []
  deriving DecidableEq, Repr

/-- A frame on the flash's lines (R477, R478): bytes of the command, of the address and of the data sent, dummy clocks, and the
number of bytes read; the format word that gives lanes and rates, and whether read data are sampled on FP_DS. -/
structure FlashFrame where
  cmd : List Nat
  addr : List Nat := []
  dummy : Nat := 0
  data : List Nat := []
  read : Nat := 0
  fmt : Word := 0
  ds : Bool := false
  deriving DecidableEq, Repr

/-- The flash port and the flash beyond its registers (R477 to R487). -/
structure FlashSt where
  /-- The flash's words, as the window numbers them; an unlisted word is erased and reads 0xFFFF (log entry 18). -/
  cells : WMap := []
  /-- The flash's discovery table, as bytes (R479); a byte behind its end reads 0xFF (log entry 18). -/
  sfdp : List (BitVec 8) := []
  /-- Erase opcodes that the boot ROM found in it (R479; log entry 138). -/
  erase : List Nat := []
  /-- Frames of the port's latest fetch, program or command frame, in their order (R478). -/
  sent : List FlashFrame := []
  /-- RST_N has reset the flash during the program in progress (R65). -/
  aborted : Bool := false
  /-- Blocks in the cache lines, most recently used first (R481). -/
  lines : List Nat := []
  /-- The gather buffer: its page and master, and its words (R483). -/
  gather : Option (Nat × Nat) := none
  words : List (Nat × Word) := []
  /-- Clock count of the last window write. -/
  wroteAt : Nat := 0
  /-- `ClkSt.age` at which the program that runs began (R484). -/
  prog : Option Nat := none
  /-- `ClkSt.age` at which the command frame that polls began (R487); one waits for a program to end. -/
  cmd : Option Nat := none
  frame : FlashCmd := {}
  cmdWait : Bool := false
  /-- Fault 0x0E06 has been recorded in this tick (R480). -/
  offSeen : Bool := false
  deriving DecidableEq, Repr

/-! ## Confluence link (chapter 16) -/

/-- A BEACON body (R495); stamps in 2⁻¹⁶ ns. -/
structure Beacon where
  version : Nat
  src : Nat
  cand : Bool
  state : Nat
  lead : Nat
  hops : Nat
  cumV : Bool
  clkq : Bool
  lseq : Nat
  seq : Nat
  trust : Nat
  agree : Bool
  rxV : Bool
  rxSeq : Nat
  ldig : Nat
  tx : Nat
  rx : Nat
  cum : Int
  deriving DecidableEq, Repr

/-- One Confluence port beyond its registers (R494 to R499). -/
structure CflPort where
  /-- SEQ of the next beacon. -/
  txSeq : Nat := 0
  /-- TX stamps of the beacons sent, by SEQ, newest first. -/
  sent : List (Nat × Nat) := []
  /-- The neighbour's last beacon with its arrival stamp, while its data counts (R499). -/
  last : Option (Beacon × Nat) := none
  /-- No beacon of the port has been discarded since `last` arrived (R497). -/
  whole : Bool := true
  /-- Ticks since LSEQ last changed; `none`: no change has been heard (R500). -/
  lseqAge : Option Nat := none
  /-- Ticks without a valid beacon (R499). -/
  quiet : Nat := 0
  /-- A LEAVE has come in this tick (R505). -/
  left : Bool := false
  /-- Fault 0x0F03 has been recorded in this tick (R494). -/
  crcSeen : Bool := false
  /-- The last message sent, body and CRC, between its start and end characters (R494). -/
  out : List Nat := []
  /-- Valid characters in a row, and a comma among them; while UP, characters since the last comma, and how many characters ago
  each error of the last 1,024 came (R492). -/
  run : Nat := 0
  aligned : Bool := false
  since : Nat := 0
  errs : List Nat := []
  deriving DecidableEq, Repr

/-- The Confluence link beyond its registers (R496 to R507). -/
structure CflSt where
  ports : List CflPort := [{}, {}]
  /-- Ticks for which EN has been 1, restarted by a change of ID or CAND (R500, R511). -/
  listen : Nat := 0
  /-- The leader's SEQ as last heard (R495). -/
  lseq : Nat := 0
  /-- A valid offset to the leader has come in this tick; ticks without one; valid ones in a row within TIME_TOL (R503). -/
  ofsSeen : Bool := false
  noOfs : Nat := 0
  good : Nat := 0
  /-- FOLLOWER has been entered from LEADER and nothing has been measured yet (R503). -/
  fromLead : Bool := false
  /-- Tick edges in a row at which the digests differed (R502). -/
  mism : Nat := 0
  /-- Clock count of the last beacons, and the clock count at which a USER message in progress ends (R496). -/
  beaconAt : Option Nat := none
  busyTo : Nat := 0
  /-- Sender's USER count, and the messages taken: source, MSEQ and tick count (R506). -/
  mseq : Nat := 0
  taken : List (Nat × Nat × Nat) := []
  /-- The receive ring is in its full condition (R507). -/
  full : Bool := false
  deriving DecidableEq, Repr

/-! ## Lifecycle, one-time-programmable store, security (chapter 17) -/

/-- The crypto assist (R530). -/
structure CryptoSt where
  /-- The operation in progress: OP, the master that wrote it, and its operands. -/
  op : Nat := 0
  master : Nat := 0
  src : Nat := 0
  dst : Nat := 0
  len : Nat := 0
  /-- A running hash: its eight values and its bytes so far. -/
  ctx : Option (List Nat × Nat) := none
  deriving DecidableEq, Repr

/-- The LCS block beyond its registers (R512 to R532). -/
structure LcsSt where
  /-- The OTP's words, row × 16 + word; a blank word reads 0 (R516). Fuses as delivered: log entry 4. -/
  otp : WMap := []
  /-- The row being programmed (R518). -/
  row : Option Nat := none
  /-- The lifecycle state requested, and whether its fuses are being burned (R514). -/
  target : Nat := 0
  burning : Bool := false
  /-- SCRAPPED comes into force at the next tick edge (R514). -/
  scrapNext : Bool := false
  /-- A generation that becomes active at the next tick edge (R522). -/
  genNext : Option Nat := none
  /-- Triggers whose fault 0x1001 is not recorded yet, bit per source (R527). -/
  trigNew : Nat := 0
  /-- Sources armed (R525). -/
  armed : Nat := 0
  crypto : CryptoSt := {}
  deriving DecidableEq, Repr

/-! ## Start-up, sleep and update (chapter 18) -/

/-- How far the boot ROM has come (R539 to R543). -/
inductive BootPhase where
  /-- Step 1 has not begun. -/
  | none
  /-- Step 4: no reference has matched yet; a reference is being acquired. -/
  | detect | acquire
  /-- Step 6: images from the host are awaited. -/
  | host
  /-- An image has passed; the release follows. -/
  | passed
  /-- The boot has stopped. -/
  | stopped
  | complete
  deriving DecidableEq, Repr

/-- The boot ROM, the low-power counter and hitless update (R535 to R556). -/
structure StartSt where
  phase : BootPhase := .none
  /-- The mode is permitted (R538). -/
  modeOk : Bool := false
  /-- The frequency in Hz that each input matches, 0 for none (R540). -/
  found : List Nat := [0, 0]
  /-- `ClkSt.age` at the last count of the references (R540). -/
  detectAt : Nat := 0
  /-- Words that the boot ROM has taken from host records (R543). -/
  hostPos : Nat := 0
  /-- `ClkSt.age` at the writes of ARM and SNAP that wait for their edge (R547). -/
  armAt : Option Nat := none
  snapAt : Option Nat := none
  /-- The master that wrote VERIFY, and the staged image, address and words, while it is frozen (R551). -/
  master : Nat := 0
  frozen : Option (Nat × Nat) := none
  frozenSeen : Bool := false
  /-- Ticks since the switch edge (R553). -/
  ticks : Nat := 0
  /-- `ClkSt.total` at the switch edge. -/
  switchAt : Nat := 0
  /-- The copy has been made, from the staged image or, after a failure, from flash; engines are released at the next
  tick edge (R553, R555). -/
  copied : Bool := false
  reloaded : Bool := false
  deriving DecidableEq, Repr


/-! ## The whole state -/

/-- The KE2192 as a block: its registers and memories, its units, and the queue of commands that wait. -/
structure State where
  /-- Commands waiting, first in, first out (the model's own field). -/
  pending : List Instr := []
  /-- Registers of the register blocks, the Channel Table, the Job Table and the Task Table, where they differ from
  their reset words: shadows of T-class fields, values of all others (R11 to R13, R30). -/
  regs : WMap := []
  /-- Active words of T-class registers, where they differ from their reset words (R30). -/
  active : WMap := []
  /-- The pending stage: a snapshot for each block with a COMMIT waiting, by page (R30). -/
  stage : List (Nat × WMap) := []
  /-- The late stage (R32). -/
  late : List (Nat × WMap) := []
  /-- Holding latches of multi-word T-class fields (R146, R231). -/
  latch : WMap := []
  /-- Each master's shadow of the higher words of a multi-word register (R37). -/
  shadow : List (Nat × Nat × Word) := []
  /-- The words of the Pool, the capture buffer, the Backwater, the secure store and the Code Store that are not 0. -/
  mem : WMap := []
  memSt : MemSt := {}
  flt : FaultSt := {}
  clk : ClkSt := {}
  pwr : PwrSt := {}
  /-- Transmit Permit as last followed (R307). -/
  permitPrev : Bool := false
  /-- The word that the last read gave (the model's own field: what the reading master receives). -/
  readData : Word := 0
  fe : FeSt := {}
  dfe : DfeSt := {}
  ch : ChSt := {}
  /-- A fabric parity error has been recorded in this tick. -/
  perrSeen : Bool := false
  srch : SrchSt := {}
  tb : TbSt := {}
  tp : TpSt := {}
  evt : EvtSt := {}
  syn : SynSt := {}
  slc : SlcSt := {}
  engs : List Engine := List.replicate 8 {}
  plc : PlcSt := {}
  weir : WeirSt := {}
  lcs : LcsSt := {}
  cfl : CflSt := {}
  host : HostSt := {}
  flash : FlashSt := {}
  start : StartSt := {}
  /-- Counter that numbers the free values taken so far (the model's own field). -/
  free : Nat := 0
  deriving DecidableEq, Repr

/-- The machine right after reset, with every supply valid and the boot ROM about to start (R63, R67). -/
def State.reset : State := {}

end Sys2Proof.Machine
end

