-- ==== Sys2Proof/Machine/Ops.lean ====
section
/-!
DEFINITION. The named operations that every unit shares: sparse maps, registers and their fields, the commit stages,
the time base's reading, faults, the reject flags, memory words and Transmit Permit.
-/

namespace Sys2Proof.Machine

/-! ### Sparse maps -/

/-- The entry of `m` at `k`, if listed. -/
def wmFind (k : Nat) : WMap → Option Word
  | [] => none
  | (j, v) :: t => if k = j then some v else wmFind k t

/-- `m` without an entry at `k`. -/
def wmDrop (k : Nat) (m : WMap) : WMap := m.filter (fun e => e.1 != k)

/-- `m`, which lists no `k`, with an entry for `k` in its place. -/
def wmInsert (k : Nat) (v : Word) : WMap → WMap
  | [] => [(k, v)]
  | (j, w) :: t => if k < j then (k, v) :: (j, w) :: t else (j, w) :: wmInsert k v t

/-- The word of `m` at `k`; an unlisted address reads `d`. -/
def wmGet (d : Word) (m : WMap) (k : Nat) : Word := (wmFind k m).getD d

/-- `m` with `v` at `k`, in canonical form: addresses strictly rising, and no entry equal to its default `d`. -/
def wmPut (d : Word) (k : Nat) (v : Word) (m : WMap) : WMap :=
  if v = d then wmDrop k m else wmInsert k v (wmDrop k m)

/-- The addresses of `m` rise strictly. -/
def wmRising : WMap → Bool
  | [] => true
  | [_] => true
  | (j, _) :: (k, w) :: t => j < k && wmRising ((k, w) :: t)

/-- `m` is in canonical form for the default `d`. -/
def wmWf (d : Nat → Word) (m : WMap) : Bool := wmRising m && m.all (fun e => e.2 != d e.1)

/-- The entries of `m` from address `lo` up to, not including, `hi`. -/
def wmSlice (lo hi : Nat) (m : WMap) : WMap := m.filter (fun e => lo ≤ e.1 && e.1 < hi)

/-- `m` with its entries from `lo` up to `hi` replaced by those of `snap`. -/
def wmReplace (lo hi : Nat) (m snap : WMap) : WMap :=
  m.filter (fun e => e.1 < lo) ++ wmSlice lo hi snap ++ m.filter (fun e => hi ≤ e.1)

/-- `n ÷ d` where the spec states no rounding: the floor, or one more if the configuration rounds up (log entry 10). -/
def rdiv (n : Int) (d : Nat) : Int :=
  n / (d : Int) + (if n % (d : Int) != 0 && Config.roundUp n d then 1 else 0)

/-- `n ÷ d` rounded to the nearest; a tie goes as the configuration has it (log entry 10). -/
def rnear (n : Int) (d : Nat) : Int :=
  let r := n % (d : Int)
  n / (d : Int) + (if (d : Int) < 2 * r || (2 * r == (d : Int) && r != 0 && Config.roundUp n d) then 1 else 0)

/-! ### Registers -/

/-- `w` with bits `hi` to `lo` set to `v`. -/
def putBits (w : Word) (hi lo v : Nat) : Word :=
  BitVec.ofNat 16 (w.toNat - bitsOf w.toNat hi lo * 2 ^ lo + v % 2 ^ (hi + 1 - lo) * 2 ^ lo)

/-- The word of the register at `a`: the shadow of a T-class field, the value of any other (R30). -/
def State.rg (s : State) (a : Nat) : Word := wmGet (resetWord a) s.regs a

/-- Sets the word of the register at `a`. -/
def State.setRg (s : State) (a : Nat) (w : Word) : State := { s with regs := wmPut (resetWord a) a w s.regs }

/-- The active word of the register at `a` (R30): what the block acts on for T-class fields. -/
def State.actRg (s : State) (a : Nat) : Word := wmGet (resetWord a) s.active a

/-- Sets the active word of the register at `a`. -/
def State.setActRg (s : State) (a : Nat) (w : Word) : State :=
  { s with active := wmPut (resetWord a) a w s.active }

/-- The value of field `f`. -/
def State.get (s : State) (f : Fld) : Nat := bitsOf (s.rg f.gwa).toNat f.hi f.lo

/-- Field `f` is not 0. -/
def State.isOn (s : State) (f : Fld) : Bool := s.get f != 0

/-- The signed value of field `f`. -/
def State.getS (s : State) (f : Fld) : Int := signedOf (f.hi + 1 - f.lo) (s.get f)

/-- Sets field `f` to `v`. -/
def State.put (s : State) (f : Fld) (v : Nat) : State := s.setRg f.gwa (putBits (s.rg f.gwa) f.hi f.lo v)

/-- Sets the one-bit field `f`. -/
def State.putB (s : State) (f : Fld) (b : Bool) : State := s.put f (b2n b)

/-- The active value of the T-class field `f`. -/
def State.act (s : State) (f : Fld) : Nat := bitsOf (s.actRg f.gwa).toNat f.hi f.lo

/-- The signed active value of the T-class field `f`. -/
def State.actS (s : State) (f : Fld) : Int := signedOf (f.hi + 1 - f.lo) (s.act f)

/-- Sets the shadow and the active value of `f` at once. -/
def State.putBoth (s : State) (f : Fld) (v : Nat) : State :=
  let s := s.put f v
  s.setActRg f.gwa (putBits (s.actRg f.gwa) f.hi f.lo v)

/-- The words of `w`, read by `rd`, as one number (R10). -/
def wordsValue (rd : Nat → Word) : Nat → Nat → Nat
  | _, 0 => 0
  | a, n + 1 => (rd a).toNat + 65536 * wordsValue rd (a + 1) n

/-- The value of the wide field `w`. -/
def State.getW (s : State) (w : Wide) : Nat := wordsValue s.rg w.gwa w.n

/-- The active value of the wide field `w`. -/
def State.actW (s : State) (w : Wide) : Nat := wordsValue s.actRg w.gwa w.n

/-- Writes `v` over `n` registers from `a` (R10). -/
def State.setWords (s : State) (a : Nat) : Nat → Nat → State
  | 0, _ => s
  | n + 1, v => (s.setRg a (BitVec.ofNat 16 v)).setWords (a + 1) n (v / 65536)

/-- Sets the wide field `w`. -/
def State.putW (s : State) (w : Wide) (v : Nat) : State := s.setWords w.gwa w.n v

/-- The active words of a wide field. -/
def State.setActWords (s : State) (a : Nat) : Nat → Nat → State
  | 0, _ => s
  | n + 1, v => (s.setActRg a (BitVec.ofNat 16 v)).setActWords (a + 1) n (v / 65536)

/-- Sets the shadow and the active value of the wide field `w`. -/
def State.putWBoth (s : State) (w : Wide) (v : Nat) : State := (s.putW w v).setActWords w.gwa w.n v

/-- Adds `n` to a counting field, which stops at its largest value. -/
def State.addSat (s : State) (f : Fld) (n : Nat) : State :=
  s.put f (min (s.get f + n) (2 ^ (f.hi + 1 - f.lo) - 1))

/-- Adds `n` to a counting field, which wraps. -/
def State.addWrap (s : State) (f : Fld) (n : Nat) : State := s.put f (s.get f + n)

/-- Sets the reject flag and offset of the block of the register at `a` (R17). -/
def State.reject (s : State) (a : Nat) : State :=
  let base := a / 0x1000 * 0x1000
  (s.put ⟨base + 2, 15, 15⟩ 1).put ⟨base + 2, 11, 0⟩ (a % 0x1000)

/-! ### Lists used as arrays -/

/-- Element `i` of `l` changed by `f`. -/
def listMod {α : Type} (f : α → α) : Nat → List α → List α
  | _, [] => []
  | 0, a :: t => f a :: t
  | n + 1, a :: t => a :: listMod f n t

/-- Element `i` of `l` set to `a`; a list too short is filled up with `d`. -/
def listPut {α : Type} : List α → Nat → (a : α) → (d : α := a) → List α
  | [], 0, a, _ => [a]
  | [], n + 1, a, d => d :: listPut [] n a d
  | _ :: t, 0, a, _ => a :: t
  | h :: t, n + 1, a, d => h :: listPut t n a d

/-- `a` inserted in a list ordered by `le`. -/
def insertBy {α : Type} (le : α → α → Bool) (a : α) : List α → List α
  | [] => [a]
  | h :: t => if le a h then a :: h :: t else h :: insertBy le a t

/-- A list put in the order of `le`. -/
def sortBy {α : Type} (le : α → α → Bool) (l : List α) : List α := l.foldr (insertBy le) []

/-- Runs `f` for 0, 1, …, n − 1 in turn. -/
def forUp (n : Nat) (f : Nat → State → State) (s : State) : State :=
  (List.range n).foldl (fun t i => f i t) s

/-! ### Faults -/

/-- Fault `code` as it is raised now (R561). MASTER is meaningful where `m` is given (R566). -/
def State.faultEvent (s : State) (code unit arg : Nat) (m : Option Nat) : FaultEvent :=
  { code := code, unit := unit, master := m, arg := arg % 2 ^ 32, pre := !s.clk.running
    tick := if s.clk.running then s.clk.tickCount else 0, phase := if s.clk.running then s.clk.phase / 16 else 0 }

/-- Raises fault `code` (R561). -/
def State.raise (s : State) (code unit : Nat) (arg : Nat := 0) (m : Option Nat := none) : State :=
  { s with flt := { s.flt with now := s.flt.now ++ [s.faultEvent code unit arg m] } }

/-- The address of word 0 of ring slot `r` (R562). -/
def faultSlot (r : Nat) : Nat := 0x712400 + r / 15 * 0x80 + 8 + r % 15 * 8

/-- The eight words of a fault record with sequence number `seq` (R561). -/
def faultWords (e : FaultEvent) (seq : Nat) : List Word :=
  [ BitVec.ofNat 16 e.code,
    BitVec.ofNat 16 (0x8000 + (if e.master.isSome then 0x4000 else 0) + (e.master.getD 0 % 16) * 0x400
      + (if e.pre then 0x200 else 0) + e.unit % 256),
    BitVec.ofNat 16 e.tick, BitVec.ofNat 16 (e.tick / 65536),
    BitVec.ofNat 16 (e.phase % 32768),
    BitVec.ofNat 16 e.arg, BitVec.ofNat 16 (e.arg / 65536),
    BitVec.ofNat 16 seq ]

/-- Writes words upward from `a` into a map whose default is 0. -/
def wmPutList (a : Nat) : List Word → WMap → WMap
  | [], m => m
  | w :: t, m => wmPutList (a + 1) t (wmPut 0 a w m)

/-- The bit of PEND, MASK and LOST that belongs to the block of fault `code` (R19, FLT_PEND). -/
def faultBit (code : Nat) : Nat := 2 ^ (code / 256 - 1)

/-- Enters one fault in the ring, or drops it when the ring is full (R563). -/
def FaultSt.enter (f : FaultSt) (e : FaultEvent) : FaultSt :=
  let seq := (f.seq + 1) % 65536
  let pend := f.pend ||| faultBit e.code
  if f.depth < 64 then
    { f with
      ring := wmPutList (faultSlot ((f.rd + f.depth) % 64)) (faultWords e f.seq) f.ring
      depth := f.depth + 1, seq := seq, pend := pend }
  else
    { f with ovf := true, lost := f.lost ||| faultBit e.code, lostCnt := min (f.lostCnt + 1) 65535,
             seq := seq, pend := pend }

/-- `a` is entered before `b` (R563). -/
def FaultEvent.before (a b : FaultEvent) : Bool := a.code < b.code || (a.code == b.code && a.unit < b.unit)

/-- Insertion in the order of R563. -/
def insertFault (e : FaultEvent) : List FaultEvent → List FaultEvent
  | [] => [e]
  | h :: t => if e.before h then e :: h :: t else h :: insertFault e t

/-- Enters every fault raised in the clock that ends, in the order of R563. -/
def State.flush (s : State) : State :=
  let sorted := s.flt.now.foldl (fun l e => insertFault e l) []
  { s with flt := { (sorted.foldl FaultSt.enter s.flt) with now := [] } }

/-! ### Transmit Permit (R49, R305, R307) -/

/-- The locked-and-settled signal. -/
def State.settled (s : State) : Bool := s.isOn R.SYN_STAT_SETTLED

/-- The loop is in LOCKED; at a tick edge, anything else counts as "no lock" (R275). -/
def State.synLocked (s : State) : Bool := s.get R.SYN_STAT_STATE == 2

/-- The time-base trust signal: trust is DISCIPLINED (2) or HOLDOVER (3) (R244). -/
def State.trusted (s : State) : Bool := s.get R.TB_STAT_TRUST == 2 || s.get R.TB_STAT_TRUST == 3

/-- The Confluence agreement signal. -/
def State.agreed (s : State) : Bool := s.isOn R.CFL_STAT_AGREE

/-- Transmit Permit: the AND of the three hardware signals (R49). -/
def State.permit (s : State) : Bool := s.settled && s.trusted && s.agreed

/-- Records a fall of Transmit Permit once, naming the signals that are low (R307). -/
def State.trackPermit (s : State) : State :=
  let s' :=
    if s.permitPrev && !s.permit then
      (s.putB R.SLC_PERMIT_STAT_DROP true).raise 0x0801 0xFF
        (4 * b2n (!s.settled) + 2 * b2n (!s.trusted) + b2n (!s.agreed))
    else s
  { s' with permitPrev := s.permit }

/-- The end of every command: permit is followed and the faults of the clock are entered. -/
def State.finish (s : State) : State := s.trackPermit.flush

/-- The outcome of a command that leaves the block in `s`. -/
def done (s : State) : Host.Outcome State Fault Refusal := .next s.finish

/-- The device is out of reset (R63, R67). -/
def State.live (s : State) : Bool := s.pwr.stage == .boot || s.pwr.stage == .running

/-! ### The time base's reading (R226, R227) -/

/-- Units of the counter in one nanosecond: 3 × 2⁸⁸. -/
def accPerNs : Nat := 3 * 2 ^ 88

/-- Units of the counter in 2⁻¹⁶ ns. -/
def accPerSub : Nat := 3 * 2 ^ 72

/-- Units of the counter in one second. -/
def accPerSec : Nat := 1000000000 * accPerNs

/-- The time base in 2⁻¹⁶ ns, rounded down: the reading of TB_SEC, TB_NS and TB_SUBNS. -/
def State.tbSub (s : State) : Nat := s.clk.acc / accPerSub

/-- TB_SEC. -/
def State.tbSec (s : State) : Nat := s.clk.acc / accPerSec

/-- TB_NS. -/
def State.tbNs (s : State) : Nat := s.clk.acc % accPerSec / accPerNs

/-- TB_SUBNS. -/
def State.tbSubns (s : State) : Nat := s.clk.acc % accPerNs / accPerSub

/-- The rate term of one system clock, accumulated to 2⁻⁴⁸ ns (R227); its rounding to that is open (log entry 10). -/
def State.rateTerm (s : State) : Int := 3 * 2 ^ 40 * rdiv (400000 * s.tb.eff) (3 * 2 ^ 40)

/-- What one clock of the internal domains adds to the counter in the mean: 400,000 ÷ 3 units of 2⁻¹⁶ ns and the rate term
(R227), or 5.000 ns on the limp oscillator (R245). -/
def State.perClk (s : State) : Nat :=
  if !s.clk.tbRun then 0
  else if s.clk.limp then 5 * accPerNs
  else (400000 * 2 ^ 72 + s.rateTerm).toNat

/-- What `n` clocks add to the counter: on the system clock, the nominal advance in its pattern of three (R227). -/
def State.advanced (s : State) (n : Nat) : Nat :=
  if !s.clk.tbRun then 0
  else if s.clk.limp then n * (5 * accPerNs)
  else ((400000 * (s.clk.third + n) / 3 - 400000 * s.clk.third / 3 : Nat) * (accPerSub : Int) + n * s.rateTerm).toNat

/-- What the last clock added to the counter. -/
def State.lastAdd (s : State) : Nat := { s with clk := { s.clk with third := (s.clk.third + 2) % 3 } }.advanced 1

/-- The register bit that shows unit `u` powered: engines 0 to 7, lane groups 8 to 15, pipelines 16 to 19 (R425). -/
def powerFld (u : Nat) : Fld :=
  if u < 8 then ⟨0x70C00B, u, u⟩ else if u < 16 then ⟨0x705007, u - 8, u - 8⟩ else ⟨0x706013, u - 8, u - 8⟩

/-- Unit `u` reads powered. -/
def State.powerOn (s : State) (u : Nat) : State :=
  let s := s.putB (powerFld u) true
  if u < 8 then s.putB ⟨0x70B006, u, u⟩ false else s

/-- Units whose wake is over read powered (R425). -/
def State.wakeSettle (s : State) : State :=
  match s.clk.waking with
  | [] => s
  | w =>
    let s := { s with clk := { s.clk with waking := w.filter (fun e => s.clk.total < e.2) } }
    (w.filter (fun e => e.2 ≤ s.clk.total)).foldl (fun s e => s.powerOn e.1) s

/-- What one clock of the internal domains adds to `ClkSt.age`. -/
def State.ageStep (s : State) : Nat := if s.clk.limp then 1536 else 625

/-- Units of `ClkSt.age` in a microsecond. -/
def agePerUs : Nat := 307200

/-- `n` clocks of the internal domains pass within the tick in progress. -/
def State.elapse (s : State) (n : Nat) : State :=
  { s with clk := { s.clk with
      phase := if s.clk.running then s.clk.phase + n else 0, total := s.clk.total + n
      age := s.clk.age + n * s.ageStep
      acc := s.clk.acc + s.advanced n
      third := if s.clk.tbRun && !s.clk.limp then (s.clk.third + n) % 3 else s.clk.third } }.wakeSettle

/-- `n` clocks end before the next tick edge. -/
def State.inTick (s : State) (n : Nat) : Bool := !s.clk.running || decide (s.clk.phase + n < s.clk.tickLen)

/-- The clock stands at a tick edge. -/
def State.atEdge (s : State) : Bool := s.clk.running && s.clk.phase == 0

/-- Clocks to the first at which the counter is `t` or more: the pattern of three shifts it by one at most. -/
def State.clocksTo (s : State) (t : Nat) : Nat :=
  let n := (t - s.clk.acc + s.perClk - 1) / max 1 s.perClk
  if t ≤ s.clk.acc + s.advanced (n - 1) then n - 1 else if t ≤ s.clk.acc + s.advanced n then n else n + 1

/-- The clocks run to the first at which the time base reads `t` or more, if it comes before the next tick edge. -/
def State.runTo (s : State) (t : Nat) : Option State :=
  if t ≤ s.clk.acc then some s
  else if s.perClk = 0 then none
  else
    let n := s.clocksTo t
    if s.inTick n then some (s.elapse n) else none

/-- The clocks run to the first at which `ClkSt.age` is `t` or more, if it comes before the next tick edge: what is due then
has not happened before. -/
def State.runAge (s : State) (t : Nat) : Option State :=
  if t ≤ s.clk.age then some s
  else
    let n := (t - s.clk.age + s.ageStep - 1) / s.ageStep
    if s.inTick n then some (s.elapse n) else none

/-- `f` once `ClkSt.age` is `t`; nothing where the tick in progress ends before. -/
def State.dueAt (s : State) (t : Nat) (f : State → State) : State :=
  match s.runAge t with
  | some s => f s
  | none => s

/-- The clocks run to clock count `t` and `f` follows; nothing where the tick in progress ends before. -/
def State.dueClock (s : State) (t : Nat) (f : State → State) : State :=
  let n := t - s.clk.total
  if n = 0 then f s else if s.inTick n then f (s.elapse n) else s

/-- `f` between clocks `a` and `b` of a nominal tick, the clocks running to `a` first. These are phases that move with the end
of the tick (R28, R407), on the limp oscillator too (DESIGN CHOICE, log entry 136). Later, and while no tick runs, nothing. -/
def State.inPhase (s : State) (a b : Nat) (f : State → State) : State :=
  let back (n : Nat) : Nat := s.clk.tickLen - (491520 - n)
  if !s.clk.running || decide (back b < s.clk.phase) then s
  else f (s.elapse (back a - s.clk.phase))

/-- Band samples of the tick in progress that the ADCs have taken (R20): none on the limp oscillator (R90). -/
def State.samplesNow (s : State) : Nat :=
  s.clk.smp + (if s.clk.limp then 0 else (s.clk.phase - s.clk.smpFrom) / 6)

/-- Band samples of the whole tick in progress (R24). -/
def State.samplesInTick (s : State) : Nat :=
  s.clk.smp + (if s.clk.limp then 0 else (s.clk.tickLen - s.clk.smpFrom) / 6)

/-- The clocks run to the arrival of the `k`-th band sample of the tick, if it has not come yet. -/
def State.runSamples (s : State) (k : Nat) : State :=
  let p := s.clk.smpFrom + 6 * (k - s.clk.smp)
  if s.clk.limp || p ≤ s.clk.phase || s.clk.tickLen ≤ p then s else s.elapse (p - s.clk.phase)

/-- The clocks run to the last at which the time base does not read more than `t` ÷ `den`, if it comes before the next
tick edge; answers what then remains to `t` ÷ `den`, in counter units over `den`. A reading that has passed takes no
clock and leaves nothing. -/
def State.runBefore (s : State) (t : Int) (den : Nat) : Option (State × Nat) :=
  let d := t - s.clk.acc * den
  if d < 0 then some (s, 0)
  else if s.perClk = 0 then none
  else
    let m := (d / ((s.perClk * den : Nat) : Int)).toNat
    let fits (n : Nat) : Bool := decide ((s.advanced n * den : Nat) ≤ d)
    let n := if fits (m + 1) then m + 1 else if fits m then m else m - 1
    if s.inTick n then some (s.elapse n, (d - (s.advanced n * den : Nat)).toNat) else none

/-- A time stamp: SUBNS, NS in two words, SEC in three words (TB_NOW). -/
def State.stamp (s : State) : List Word :=
  [ BitVec.ofNat 16 s.tbSubns, BitVec.ofNat 16 s.tbNs, BitVec.ofNat 16 (s.tbNs / 65536),
    BitVec.ofNat 16 s.tbSec, BitVec.ofNat 16 (s.tbSec / 65536), BitVec.ofNat 16 (s.tbSec / 2 ^ 32) ]

/-- Writes words upward into registers from `a`. -/
def State.setRgs (s : State) (a : Nat) : List Word → State
  | [] => s
  | w :: t => (s.setRg a w).setRgs (a + 1) t

/-! ### Memory words -/

/-- The word stored at `a`. Memory with no stated contents after power-on reads 0 (DESIGN CHOICE, log entry 5). -/
def State.memGet (s : State) (a : Nat) : Word := wmGet 0 s.mem a

/-- A write of a whole word stores fresh check bits (R427): earlier errors of the word are gone, and a pending
write-back of it is dropped (R434). The channels read a word of the Code Store as it was until then (R142). -/
def State.memPut (s : State) (a : Nat) (v : Word) : State :=
  { s with mem := wmPut 0 a v s.mem
           memSt := { s.memSt with codeLog := if s.clk.running && 0x660000 ≤ a && a < 0x6A0000 then
                                     s.memSt.codeLog ++ [(a, s.samplesNow, s.memGet a)] else s.memSt.codeLog
                                   flips := s.memSt.flips.filter (fun e => e.1 != a)
                                   writeBack := s.memSt.writeBack.filter (fun k => k != a) } }

/-- Writes words upward into memory from `a`. -/
def State.memPuts (s : State) (a : Nat) : List Word → State
  | [] => s
  | w :: t => (s.memPut a w).memPuts (a + 1) t

/-- The `n` words of memory from `a`. -/
def State.memGets (s : State) (a n : Nat) : List Word := (List.range n).map (fun i => s.memGet (a + i))

/-! ### Commit stages (R30 to R32) -/

/-- The blocks that have a COMMIT register, with the page of each. -/
def commitPages : List Nat := [0x702, 0x703, 0x704, 0x705, 0x706, 0x707, 0x708, 0x709, 0x70A, 0x70B, 0x711]

/-- The T-class shadows a COMMIT of the block at page `p` copies: the block's registers, and with CH the Channel
Table (CH_COMMIT). -/
def State.snapshot (s : State) (p : Nat) : WMap :=
  (if p = 0x705 then wmSlice 0x640000 0x643000 s.regs else []) ++ wmSlice (p * 0x1000) (p * 0x1000 + 0x1000) s.regs

/-- Clocks from a tick edge to the next are counted from 0; the commit guard is the last 256 (R28). -/
def State.inGuard (s : State) : Bool := s.clk.running && s.clk.tickLen ≤ s.clk.phase + 256

/-- `l` with the entry for page `p` replaced. -/
def stagePut (p : Nat) (snap : WMap) (l : List (Nat × WMap)) : List (Nat × WMap) :=
  l.filter (fun e => e.1 != p) ++ [(p, snap)]

/-- A write of 1 to the COMMIT bit of the block at page `p` (R30 to R32). -/
def State.commit (s : State) (p : Nat) : State :=
  if s.inGuard then { s with late := stagePut p (s.snapshot p) s.late }
  else { s with stage := stagePut p (s.snapshot p) s.stage }

/-- Makes the snapshot `snap` of the block at page `p` active. -/
def State.activate (s : State) (p : Nat) (snap : WMap) : State :=
  let a := wmReplace (p * 0x1000) (p * 0x1000 + 0x1000) s.active snap
  { s with active := if p = 0x705 then wmReplace 0x640000 0x643000 a snap else a }

/-- The snapshot waiting in the pending stage for the block at page `p`, if any. -/
def State.pendingOf (s : State) (p : Nat) : Option WMap := (s.stage.find? (fun e => e.1 == p)).map (·.2)

end Sys2Proof.Machine
end

