-- ==== Sys2Proof/Machine/Replica.lean ====
section
/-!
DEFINITION. What a channel correlates against: code generation, the subcarrier, carrier wipe-off and the exact
arithmetic of angles and decibels (spec/05_correlator_channels.md R128 to R145, R148; spec/06_diversity_and_records.md
R173, R179, R186).
-/

namespace Sys2Proof.Machine

/-! ### Code generators -/

/-- One shift of a Fibonacci register of `len` stages (stage k in bit k − 1) with feedback mask `fb` (R137). -/
def lfsrStep (len fb x : Nat) : Nat :=
  let inBit := (List.range len).foldl (fun p k => if bitOf fb k && bitOf x k then 1 - p else p) 0
  (2 * x + inBit) % 2 ^ len

/-- The register after `n` shifts. -/
def lfsrRun (len fb : Nat) : Nat → Nat → Nat
  | 0, x => x
  | n + 1, x => lfsrRun len fb n (lfsrStep len fb x)

/-- Output of the register at chip `n` of a code period, with its reload after every `rst` chips (R137). -/
def lfsrChip (len fb init rst n : Nat) : Nat :=
  if len = 0 then 0
  else
    let k := if rst = 0 then n else n % rst
    bitsOf (lfsrRun len fb k (init % 2 ^ len)) (len - 1) (len - 1)

/-- The Legendre sequence of the prime `p`: 0 at 0, 1 at the squares (PRESUMED, log entry 15). -/
def legendre (p t : Nat) : Nat :=
  if t % p = 0 then 0 else if (List.range p).any (fun x => x != 0 && x * x % p == t % p) then 1 else 0

/-- Chip `t` of the Weil code of index `w` (PRESUMED, log entry 15). -/
def weilChip (p w t : Nat) : Nat := (legendre p t + legendre p ((t + w) % p)) % 2

/-- Bit 6 − i of 0b0110100, the expansion of INSERT mode (R138). -/
def weilExpansion : List Nat := [0, 1, 1, 0, 1, 0, 0]

/-- Chip `n` of a WEIL code (R138): INSERT places the expansion at point `pt`, TRUNC reads from it, counted from 1. -/
def weilCode (p w pt : Nat) (trunc : Bool) (n : Nat) : Nat :=
  if trunc then weilChip p w ((n + (pt - 1)) % p)
  else if n + 1 < pt then weilChip p w n
  else if n + 1 < pt + 7 then weilExpansion.getD (n + 1 - pt) 0
  else weilChip p w (n - 7)

/-- The Code Store word at `a` as a generator reads it for sample `k` of the tick in progress (R142). -/
def State.codeWord (s : State) (a k : Nat) : Word :=
  match s.memSt.codeLog.find? (fun e => e.1 == a && k < e.2.1) with
  | some e => e.2.2
  | none => s.memGet a

/-- Chip `n` of a sequence stored from Code Store word `ptr` on (R139), at sample `k` of the tick in progress. A sequence
that runs past the store's last word goes on at its first (log entry 119). -/
def State.storedChip (s : State) (ptr n k : Nat) : Nat :=
  b2n (bitOf (s.codeWord (0x660000 + (ptr + n / 16) % 0x40000) k).toNat (15 - n % 16))

/-- CODE_LEN of channel `c`. -/
def State.codeLen (s : State) (c : Nat) : Nat := s.get (R.CH_CODE_LEN c) + 65536 * s.get (R.CH_CODE_LEN_W3 c)

/-- Word `w` of the descriptor of channel `c`. -/
def State.desc (s : State) (c w : Nat) : Nat := (s.rg (0x640000 + c * 0x40 + w)).toNat

/-- R1_LEN or R2_LEN of an LFSR2 generator: `w` is 0x04 or 0x06 (R166). -/
def State.genLen (s : State) (c w : Nat) : Nat := s.desc c (w + 1) / 2048

/-- Primary chip `n` of channel `c`, as a bit, at sample `k` of the tick in progress (R137 to R139). -/
def State.primaryChip (s : State) (c n k : Nat) : Nat :=
  let d := s.desc c
  match s.get (R.CH_GEN c) with
  | 0 =>
    let r1 := lfsrChip (s.genLen c 4) (d 4 + 65536 * (d 5 % 2048)) (d 8 + 65536 * (d 9 % 2048)) (d 12 + 65536 * (d 13 % 16)) n
    let r2 := lfsrChip (s.genLen c 6) (d 6 + 65536 * (d 7 % 2048)) (d 10 + 65536 * (d 11 % 2048)) (d 14 + 65536 * (d 15 % 16)) n
    (r1 + r2) % 2
  | 1 => weilCode (d 4) (d 5) (d 6) (bitOf (d 7) 0) n
  | _ => s.storedChip (d 4 + 65536 * (d 5 % 4)) n k

/-- ±1 for a chip bit (R130). -/
def chipSign (b : Nat) : Int := if b = 0 then 1 else -1

/-- (−1)^floor(f × ratio) for the fraction f = `num` / `den` of a chip. -/
def bocSin (num den ratio : Nat) : Int := if num * ratio / den % 2 = 0 then 1 else -1

/-- (−1)^floor(f × ratio + 0.5). -/
def bocCos (num den ratio : Nat) : Int := if (2 * num * ratio + den) / (2 * den) % 2 = 0 then 1 else -1

/-- The replica of channel `c` at chip `n` and fraction `num` / `den` of it, at sample `t` of the tick in progress (R130).
SEC_WIPE multiplies by a secondary chip only where SEC_EN says that there is one (log entry 120). -/
def State.replica (s : State) (c n num den : Nat) (sec t : Nat) : Int :=
  let chip := chipSign (s.primaryChip c n t)
  let ratio := s.get (R.CH_SUBC_RATIO c)
  let sub : Int :=
    match s.get (R.CH_SUBC c) with
    | 0 => 1
    | 1 => bocSin num den ratio
    | 2 => bocCos num den ratio
    | 3 => let a := bocSin num den 2; let b := bocSin num den 12; if a = b then 2 * a else a
    | 4 => let a := bocSin num den 2; let b := bocSin num den 12; if a ≠ b then 2 * a else a
    | _ =>
      let k := n % 33
      if k = 0 ∨ k = 4 ∨ k = 6 ∨ k = 29 then bocSin num den 12 else bocSin num den 2
  let slot : Int :=
    match s.get (R.CH_TDM c) with
    | 1 => if 2 * num < den then 1 else 0
    | 2 => if 2 * num < den then 0 else 1
    | _ => 1
  let secS : Int :=
    if s.act (R.CH_SEC_WIPE c) = 1 ∧ s.isOn (R.CH_SEC_EN c) then chipSign (s.storedChip (s.getW (R.CH_SEC_PTR c)) sec t) else 1
  chip * sub * slot * secS

/-! ### Carrier wipe-off -/

/-- round(7 cos(2πk ÷ 32)) for k from 0 to 31 (R129). -/
def cosTable : List Int :=
  [7, 7, 6, 6, 5, 4, 3, 1, 0, -1, -3, -4, -5, -6, -6, -7, -7, -7, -6, -6, -5, -4, -3, -1, 0, 1, 3, 4, 5, 6, 6, 7]

/-- The limit of an accumulator (R134). -/
def accLimit : Int := 8388607

/-- One accumulator takes the sample (I, Q) against replica value `r` at carrier index `k` (R129, R134); answers
whether it saturated. -/
def Cplx.mix (x : Cplx) (r i q : Int) (k : Nat) : Cplx × Bool :=
  let cs := cosTable.getD k 0
  let sn := cosTable.getD ((k + 24) % 32) 0
  let a := x.re + r * (i * cs + q * sn)
  let b := x.im + r * (q * cs - i * sn)
  ({ re := clampInt (-accLimit) accLimit a, im := clampInt (-accLimit) accLimit b },
    decide (accLimit < a.natAbs ∨ accLimit < b.natAbs))

/-! ### Rates (R144, R145, R148) -/

/-- `n ÷ d` rounded to nearest, ties away from zero. -/
def roundAway (n : Int) (d : Nat) : Int :=
  let q : Int := ((2 * n.natAbs + d) / (2 * d) : Nat)
  if n < 0 then -q else q

/-- Channel `c` is a follower (R148). -/
def State.isFollower (s : State) (c : Nat) : Bool :=
  c % 2 == 1 && s.isOn (R.CH_PAIR c) && !s.isOn (R.CH_PAIR (c - 1))

/-- The channel whose commands and windows channel `c` follows. -/
def State.masterOf (s : State) (c : Nat) : Nat := if s.isFollower c then c - 1 else c

/-- The code rate in use (R148). -/
def State.codeRate (s : State) (c : Nat) : Nat := s.actW (R.CH_CODE_RATE (s.masterOf c))

/-- The carrier rate in use, signed (R145, R148). -/
def State.carrRate (s : State) (c : Nat) : Int :=
  if s.isFollower c then
    let den := s.get (R.CH_PAIR_DEN c)
    let m := signedOf 48 (s.actW (R.CH_CARR_RATE (c - 1))) - signedOf 48 (s.getW (R.CH_PAIR_M_BASE c))
    signedOf 48 (s.getW (R.CH_PAIR_F_BASE c)) + (if den = 0 then 0 else roundAway (m * s.get (R.CH_PAIR_NUM c)) den)
  else signedOf 48 (s.actW (R.CH_CARR_RATE c))

/-! ### Angles, magnitudes and decibels -/

/-- arctan(2⁻ⁱ) in units of 2⁻⁴⁸ turn, for i from 0. -/
def atanTable : List Nat := [35184372088832, 20770547670515, 10974586953444, 5570871696862, 2796246208089, 1399486241028, 699913886760, 349978300884,
  174991820497, 87496244017, 43748163730, 21874087080, 10937044192, 5468522177, 2734261099, 1367130551,
  683565276, 341782638, 170891319, 85445659, 42722830, 21361415, 10680707, 5340354,
  2670177, 1335088, 667544, 333772, 166886, 83443, 41722, 20861,
  10430, 5215, 2608, 1304, 652, 326, 163, 81,
  41, 20, 10, 5]

/-- Vectoring: turns (x, y), x > 0, onto the x axis and gives the angle turned, in 2⁻⁴⁸ turn. -/
def cordicArg : List Nat → Nat → Int → Int → Int → Int
  | [], _, _, _, z => z
  | t :: ts, i, x, y, z =>
    if 0 < y then cordicArg ts (i + 1) (x + y / 2 ^ i) (y - x / 2 ^ i) (z + t)
    else cordicArg ts (i + 1) (x - y / 2 ^ i) (y + x / 2 ^ i) (z - t)

/-- arg(re + j im) ÷ 2π in units of 2⁻⁴⁸ turn, in [0, 2⁴⁸); 0 at the origin. -/
def argTurn (re im : Int) : Nat :=
  if re = 0 ∧ im = 0 then 0
  else
    let k : Int := 2 ^ 40
    let z : Int :=
      if 0 < re then cordicArg atanTable 0 (re * k) (im * k) 0
      else if re < 0 then 2 ^ 47 + cordicArg atanTable 0 (-re * k) (-im * k) 0
      else if 0 < im then 2 ^ 46 else -(2 ^ 46)
    (z % 2 ^ 48).toNat

/-- Rotation: (x, y) turned by `z` (2⁻⁴⁸ turn, at most an eighth of a turn either way). -/
def cordicRot : List Nat → Nat → Int → Int → Int → Int × Int
  | [], _, x, y, _ => (x, y)
  | t :: ts, i, x, y, z =>
    if 0 ≤ z then cordicRot ts (i + 1) (x - y / 2 ^ i) (y + x / 2 ^ i) (z - t)
    else cordicRot ts (i + 1) (x + y / 2 ^ i) (y - x / 2 ^ i) (z + t)

/-- exp(j2πφ) for φ in 2⁻¹⁶ turn, scaled by 2⁴⁰. -/
def expTurn (phi : Int) : Cplx :=
  let p := (phi % 65536).toNat
  let q := (p + 8192) / 16384 % 4
  let r : Int := (p : Int) - 16384 * ((p + 8192) / 16384 : Nat)
  let (x, y) := cordicRot atanTable 0 667681663043 0 (r * 2 ^ 32)
  match q with
  | 0 => ⟨x, y⟩
  | 1 => ⟨-y, x⟩
  | 2 => ⟨-x, -y⟩
  | _ => ⟨y, -x⟩

/-- Integer square root by bisection between `lo` and `hi`. -/
def isqrtGo : Nat → Nat → Nat → Nat → Nat
  | 0, lo, _, _ => lo
  | f + 1, lo, hi, n =>
    if hi ≤ lo + 1 then lo
    else
      let m := (lo + hi) / 2
      if m * m ≤ n then isqrtGo f m hi n else isqrtGo f lo m n

/-- The floor of the square root. -/
def isqrt (n : Nat) : Nat := isqrtGo 128 0 (2 ^ (n.log2 / 2 + 1)) n

/-- The largest k below `hi`, at least `lo`, with 10^k ≤ n. -/
def log10Go : Nat → Nat → Nat → Nat → Nat
  | 0, lo, _, _ => lo
  | f + 1, lo, hi, n =>
    if hi ≤ lo + 1 then lo
    else
      let m := (lo + hi) / 2
      if 10 ^ m ≤ n then log10Go f m hi n else log10Go f lo m n

/-- floor(2,560 × log₁₀ (a ÷ b)) for a ≥ b > 0: decibels of an energy ratio in 1/256 dB, rounded down. -/
def db256 (a b : Nat) : Nat := log10Go 20 0 65536 (a ^ 2560 / b ^ 2560)

/-- 10·log₁₀(a ÷ b) in 1/256 dB where the spec states no rounding: the floor, or one more if the configuration rounds
up (log entry 10). -/
def dbFree (a b : Nat) : Nat :=
  db256 a b + (if Config.roundUp a b && a ^ 2560 != 10 ^ db256 a b * b ^ 2560 then 1 else 0)

/-- 10·log₁₀(a ÷ b) in 1/16 dB, in the same way. -/
def dbSixteenth (a b : Nat) : Nat :=
  let d := db256 a b / 16
  d + (if Config.roundUp a b && a ^ 160 != 10 ^ d * b ^ 160 then 1 else 0)

/-- |x|². -/
def Cplx.energy (x : Cplx) : Nat := (x.re * x.re + x.im * x.im).toNat

/-- 10·log₁₀ x in 1/256 dB in a word, 0 for 0 (R194). -/
def dbWord (x : Nat) : Nat := if x = 0 then 0 else min 65535 (dbFree x 1)

end Sys2Proof.Machine
end

