-- ==== Sys2Proof/Machine/Samples.lean ====
section
/-!
DEFINITION. A path's samples from the ADCs to the fabric, the spectrum monitor and the decimator
(spec/03_aerial_front_ends.md R85, R86; spec/04_sample_conditioning.md R105 to R111, R115, R120 to R124).
-/

namespace Sys2Proof.Machine

/-! ### Complex arithmetic and transforms -/

/-- cos (2πn ÷ m) in 2⁻³⁰: exact at quarter turns. -/
def cosTurn (n m : Nat) : Int :=
  let k := n % m
  if k = 0 then 2 ^ 30
  else if 2 * k = m then -(2 ^ 30)
  else if 4 * k = m ∨ 4 * k = 3 * m then 0
  else Config.cosine k m

/-- sin (2πn ÷ m) in 2⁻³⁰, for `m` a multiple of 4. -/
def sinTurn (n m : Nat) : Int := cosTurn (n + 3 * (m / 4)) m

/-- x + y. -/
def Cplx.add (x y : Cplx) : Cplx := { re := x.re + y.re, im := x.im + y.im }

/-- x × y. -/
def Cplx.mul (x y : Cplx) : Cplx := { re := x.re * y.re - x.im * y.im, im := x.re * y.im + x.im * y.re }

/-- Each part changed by `f`. -/
def Cplx.map (f : Int → Int) (x : Cplx) : Cplx := { re := f x.re, im := f x.im }

/-- exp (−j2πn ÷ m) in 2⁻³⁰. -/
def twiddle (n m : Nat) : Cplx := { re := cosTurn n m, im := -sinTurn n m }

/-- `x` shifted by −n ÷ m of a turn, rounded to nearest. -/
def Cplx.turn (x : Cplx) (n m : Nat) : Cplx := (x.mul (twiddle n m)).map (fun v => rnear v (2 ^ 30))

/-- Σ x[j] × exp (−j2π·j·k ÷ m), in 2⁻³⁰. -/
def dftBin (l : List Cplx) (k m : Nat) : Cplx :=
  l.zipIdx.foldl (fun (acc : Cplx) e => acc.add (e.1.mul (twiddle (e.2 * k) m))) {}

/-- The square root of `a` ÷ `b`, where the spec states no rounding: the floor, or one more if the configuration rounds up
(log entry 10). -/
def rootFree (a b : Nat) : Nat :=
  let r := isqrt (a / b)
  r + (if Config.roundUp a b && r * r * b != a then 1 else 0)

/-! ### From the ADCs to the mixer (R85, R86, R107) -/

/-- The sample that an ADC delivers for its code: −128 is delivered as −127 (R85). -/
def adcSample (c : BitVec 8) : Int := max (-127) c.toInt

/-- A sample at ±127 on I or Q counts as clipped (R85). -/
def clippedSample (i q : Int) : Bool := i.natAbs == 127 || q.natAbs == 127

/-- The correction of R86: `dcI` and `dcQ` in 1/16 LSB, `gain` and `phase` in 1/4,096. -/
def correctSample (dcI dcQ gain phase i q : Int) : Cplx :=
  let i1 := 16 * i - dcI
  let q1 := 16 * q - dcQ
  { re := clampInt (-127) 127 (rnear i1 16)
    im := clampInt (-127) 127 (rnear (q1 * (4096 + gain) + i1 * phase) 65536) }

/-- Path `i` delivers its sample `k` of the tick in progress (R93). -/
def State.delivers (s : State) (i k : Nat) : Bool :=
  s.fe.deliver.getD i false || (match s.fe.cut.getD i none with | some c => decide (k < c) | none => false)

/-- The mixer's phase at sample `k` of the tick in progress, in 1/65,536 turn (R107, R108). -/
def State.mixPhaseAt (s : State) (b k : Nat) : Nat :=
  (s.dfe.mixPhase.getD b 0 + s.act (R.DFE_MIX_MIX_OFS b) * (k - s.dfe.phaseFrom)) % 65536

/-- Sample `k` of the tick in progress as path `i` takes it (R85, R86, R106, R107). -/
def State.takeSample (s : State) (i k : Nat) (c : Adc) : Taken :=
  let ai := adcSample c.1
  let aq := adcSample c.2
  let x := correctSample (s.actS (R.FE_IQ_DC_DC_I i)) (s.actS (R.FE_IQ_DC_DC_Q i)) (s.actS (R.FE_IQ_GAIN_GAIN i))
    (s.actS (R.FE_IQ_PHASE_PHASE i)) ai aq
  { i := ai, q := aq, x := if s.delivers i k then x.turn (s.mixPhaseAt (i % 3) k) 65536 else {} }

/-- Path `i` takes the samples that its ADCs gave since its last; those beyond the end of the tick are none of its own. The
clocks run to their arrival. -/
def State.takeSamples (s : State) (i : Nat) (l : List Adc) : State :=
  let have_ := s.dfe.taken.getD i []
  let l := l.take (s.samplesInTick - have_.length)
  let new := l.zipIdx.map (fun e => s.takeSample i (have_.length + e.2) e.1)
  let s := { s with dfe := { s.dfe with
      taken := listPut s.dfe.taken i (have_ ++ new) [], win := listPut s.dfe.win i (s.dfe.win.getD i [] ++ new) [] } }
  s.runSamples (have_.length + l.length)

/-! ### Blanking (R109) -/

/-- DFE_BLANK_i in force at sample `k` of the tick in progress. -/
def State.blankAt (s : State) (i k : Nat) : Nat :=
  match s.dfe.blankLog.find? (fun e => e.1 == i && k < e.2.1) with
  | some e => e.2.2
  | none => (s.rg (0x704008 + i)).toNat

/-- The samples as they enter the blanker, each with its DFE_BLANK word; answers the samples of HOLD left. -/
def blankIn : List (Cplx × Nat) → Nat → List Blank × Nat
  | [], h => ([], h)
  | (x, w) :: t, h =>
    let hit := bitOf w 15 && decide (w % 128 ≤ max x.re.natAbs x.im.natAbs)
    let r := blankIn t (if hit then w / 256 % 128 else h - 1)
    ({ x := x, hit := hit, held := decide (0 < h), en := bitOf w 15 } :: r.1, r.2)

/-- The sample `e` leaves the blanker as zero; `next` are the 4 samples after it. -/
def Blank.drop (e : Blank) (next : List Blank) : Bool :=
  e.hit || (e.en && e.held) || next.any (·.hit)

/-- What leaves the blanker, with whether it was blanked: a sample leaves with the 4th after it. -/
def blankOut : List Blank → List (Cplx × Bool)
  | e :: a :: b :: c :: d :: t =>
    (if e.drop [a, b, c, d] then ({}, true) else (e.x, false)) :: blankOut (a :: b :: c :: d :: t)
  | _ => []

/-- The last `n` of `l`. -/
def lastOf {α : Type} (n : Nat) (l : List α) : List α := l.drop (l.length - n)

/-! ### Notches, requantisation, decimation (R111, R120, R122) -/

/-- The filter `m` with coefficients `co` takes `x`. -/
def Biquad.run (m : Biquad) (co : Nat → Int × Int) (x : Cplx) : Cplx × Biquad :=
  let term (k : Nat) (z : Cplx) : Cplx := z.mul { re := (co k).1, im := (co k).2 }
  let y := ((((term 0 x).add (term 1 m.x1)).add (term 2 m.x2)).add (term 3 m.y1)).add (term 4 m.y2)
  let y := y.map (fun v => rnear v (2 ^ 30))
  (y, { x1 := x, x2 := m.x1, y1 := y, y2 := m.y1 })

/-- A chain of filters, each at its frequency or passing its input, takes `x`. -/
def notchChain (bw : Nat) : List (Option Int) → List Biquad → Cplx → Cplx × List Biquad
  | f :: fs, m :: ms, x =>
    let r : Cplx × Biquad := match f with
      | some f => m.run (Config.notchCoef bw f) x
      | none => (x, {})
    let t := notchChain bw fs ms r.1
    (t.1, r.2 :: t.2)
  | _, ms, x => (x, ms)

/-- The notches over a run of samples; `place` gives the frequencies at each. -/
def notchRun (bw : Nat) (place : Nat → List (Option Int)) : Nat → List Cplx → List Biquad → List Cplx × List Biquad
  | _, [], ms => ([], ms)
  | k, x :: t, ms =>
    let r := notchChain bw (place k) ms x
    let u := notchRun bw place (k + 1) t r.2
    (r.1 :: u.1, u.2)

/-- The 5-bit sample of R120. -/
def requantise (gain : Nat) (x : Int) : Int := clampInt (-15) 15 (rnear (x * gain) 32)

/-- Σ |x|² of the samples that were not blanked, and their number. -/
def unblanked (l : List (Cplx × Bool)) : Nat × Nat :=
  l.foldl (fun r e => if e.2 then r else (r.1 + e.1.energy, r.2 + 1)) (0, 0)

/-- The decimator's filter on its inputs `h`, the latest first, two samples on: 64 D + 1 taps about the delay 32 D (R124). -/
def decOut (d : Nat) (h : List Cplx) : Cplx :=
  (((h.drop 2).take (64 * d + 1)).zipIdx.foldl (fun (acc : Cplx) e =>
    let t := Config.decTap d e.2
    acc.add { re := t * e.1.re, im := t * e.1.im }) {}).map (fun v => clampInt (-127) 127 (rnear v (2 ^ 30)))

/-- A sample of the decimator as a word: I in bits 15:8 and Q in bits 7:0, as R206 packs a bin (log entry 125). -/
def decWord (x : Cplx) : Word := BitVec.ofNat 16 (256 * unsignedOf 8 x.re + unsignedOf 8 x.im)

/-- The decimating branch over samples of its path: shift by −DEC_MIX, filter, one sample in D. `phase` and `count` are those
of the first, and a sample with count 0 gives an output; answers the words and the filter's inputs. -/
def decRun (d ofs : Nat) : Nat → Nat → List Cplx → List Cplx → List Word × List Cplx
  | _, _, h, [] => ([], h)
  | phase, count, h, x :: t =>
    let h := (x.turn phase 65536 :: h).take (64 * d + 3)
    let r := decRun d ofs ((phase + ofs) % 65536) ((count + 1) % max 1 d) h t
    (if count = 0 then decWord (decOut d h) :: r.1 else r.1, r.2)

/-! ### The spectrum monitor (R115) -/

/-- The Blackman–Harris window at point `n` of 1,024, in 10⁻⁵ × 2⁻³⁰ (log entry 111). -/
def windowAt (n : Nat) : Int :=
  35875 * 2 ^ 30 - 48829 * cosTurn n 1024 + 14128 * cosTurn (2 * n) 1024 - 1168 * cosTurn (3 * n) 1024

/-- One block of 1,024 samples under the window. -/
def windowed (l : List Cplx) : List Cplx :=
  l.zipIdx.map (fun e => let w := windowAt e.2; { re := w * e.1.re, im := w * e.1.im })

/-- Σ of |X|² over `n` consecutive blocks, at bin `k`: transform output (k − 512) mod 1,024. -/
def binSum (k : Nat) : Nat → List Cplx → Nat
  | 0, _ => 0
  | n + 1, l => (dftBin (windowed (l.take 1024)) ((k + 512) % 1024) 1024).energy + binSum k n (l.drop 1024)

/-- The word of a bin with power `a` ÷ `b` (R115). -/
def binWord (a b : Nat) : Word :=
  if a = 0 then 0 else if a < b then Config.weakBin a b else BitVec.ofNat 16 (dbFree a b)

/-- The spectrum of `n` blocks of `l`. -/
def spectrumOf (n : Nat) (l : List Cplx) : List Word :=
  (List.range 1024).map (fun k => binWord (binSum k n l) (n * Config.specScale))

end Sys2Proof.Machine
end

