-- ==== Sys2Proof/Machine/FrontEnd.lean ====
section
/-!
DEFINITION. Aerial front ends and band synthesisers (spec/03_aerial_front_ends.md, R74 to R103).
-/

namespace Sys2Proof.Machine

/-- The state of path `b` of aerial `a` in FE_STAT_a.PATH: 0 OFF, 1 HOLD, 2 RUN, 3 CAL. -/
def pathFld (a b : Nat) : Fld := ⟨0x702008 + a, 5 + 2 * b, 4 + 2 * b⟩

/-- The PATH_EN bit of band `b` of aerial `a`. -/
def pathEnFld (a b : Nat) : Fld := ⟨0x702004 + a, b, b⟩

/-- The fault UNIT of aerial `a`, band `b` (R566): bit 4 the aerial, bits 1:0 the band, 3 for none. -/
def feUnit (a b : Nat) : Nat := a * 16 + b

/-- The FESM state of aerial `a`: 0 OFF, 1 BIAS, 2 LO_CAL, 3 LO_SETTLE, 4 GAIN_CAL, 5 RUN, 6 FAULT. -/
def State.fesm (s : State) (a : Nat) : Nat := s.get (R.FE_STAT_STATE a)

/-- All three band LOs are locked. -/
def State.losLocked (s : State) : Bool :=
  s.isOn (R.LO_STAT_LOCK 0) && s.isOn (R.LO_STAT_LOCK 1) && s.isOn (R.LO_STAT_LOCK 2)

/-- The bias switch of aerial `a` is closed (R77, R80, R90). -/
def State.biasClosed (s : State) (a : Nat) : Bool :=
  let st := s.fesm a
  let cause := s.get (R.FE_STAT_CAUSE a)
  s.pwr.stage == .running && s.isOn (R.FE_CTRL_BIAS_EN a) && !s.isOn R.FE_VIN_ANT_VIN_HIGH &&
    ((1 ≤ st && st ≤ 5) || (st == 6 && cause != 1 && cause != 7 && !(cause == 6 && s.fe.limpOpen.getD a false)))

/-- Path `i` stops delivering samples in mid-tick (R93). -/
def State.pathStop (s : State) (i : Nat) : State :=
  { s with fe := { s.fe with
      cut := if s.fe.deliver.getD i false then listPut s.fe.cut i (some s.samplesNow) none else s.fe.cut
      deliver := listPut s.fe.deliver i false false, whole := listPut s.fe.whole i false false } }

/-- Every path of aerial `a` stops and reads OFF, and its waiting changes are dropped (R93, R95). -/
def State.pathsOff (s : State) (a : Nat) : State :=
  (List.range 3).foldl (fun s b =>
    let i := 3 * a + b
    let s := (s.pathStop i).put (pathFld a b) 0
    { s with fe := { s.fe with toOff := listPut s.fe.toOff i false false, toCal := listPut s.fe.toCal i false false,
                               toRun := listPut s.fe.toRun i false false, loHold := listPut s.fe.loHold i false false } }) s

/-- What an open switch does to the bias measurement of aerial `a`: its average is not of a whole tick, and the status reads
OFF, or SHORT while that keeps it open (R78). -/
def State.biasFollow (s : State) (a : Nat) : State :=
  if s.biasClosed a then s
  else
    let s := { s with fe := { s.fe with biasWhole := listPut s.fe.biasWhole a false false } }
    if s.get (R.FE_BIAS_I_BSTAT a) == 3 && s.fesm a == 6 && s.get (R.FE_STAT_CAUSE a) == 1 then s
    else s.put (R.FE_BIAS_I_BSTAT a) 0

/-- Sets the FESM state of aerial `a`, and when it was entered. -/
def State.setFesm (s : State) (a st : Nat) : State :=
  let off := [0, 1, 2].map (fun b => 3 * a + b)
  State.biasFollow { (s.put (R.FE_STAT_STATE a) st) with fe := { s.fe with
      gainCalOk := listPut s.fe.gainCalOk a false false, fesmAt := listPut s.fe.fesmAt a s.clk.age 0
      calOk := off.foldl (fun l i => listPut l i false false) s.fe.calOk } } a

/-- The FESM of aerial `a` goes to FAULT with `cause` (R94): 1 SHORT, 2 OPEN, 3 LO_CAL, 4 LO_LOCK, 5 CAL, 6 CLK,
7 VIN. -/
def State.fesmFault (s : State) (a cause : Nat) : State :=
  ((s.pathsOff a).put (R.FE_STAT_CAUSE a) cause).setFesm a 6

/-- The conditions of FAULT that last (R78, R80, R94): VIN_HIGH with BIAS_EN at 1, and an OPEN status with OPEN_ACT at 1, in
any state but OFF and FAULT. -/
def State.fesmHeld (s : State) (a : Nat) : State :=
  if s.fesm a == 0 || s.fesm a == 6 then s
  else if s.isOn R.FE_VIN_ANT_VIN_HIGH && s.isOn (R.FE_CTRL_BIAS_EN a) then s.fesmFault a 7
  else if s.get (R.FE_BIAS_I_BSTAT a) == 2 && s.isOn (R.FE_CTRL_OPEN_ACT a) then s.fesmFault a 2
  else s

/-- The FESM of aerial `a` enters LO_CAL (R89): with every LO locked it passes LO_CAL and LO_SETTLE in one system clock
each; otherwise it waits there, and calibration of all three starts if it is not running, even where the other aerial runs
and one LO relocks (log entry 115). -/
def State.enterLoCal (s : State) (a : Nat) : State :=
  if s.losLocked then s.setFesm a 4
  else { (s.setFesm a 2) with fe := { (s.setFesm a 2).fe with loCalRunning := true } }

/-- The FESM leaves OFF once ENABLE is 1 and the synthesiser has made its first lock (R94). -/
def State.fesmStart (s : State) (a : Nat) : State :=
  if s.fesm a == 0 && s.isOn (R.FE_CTRL_ENABLE a) && s.syn.firstLock then (s.setFesm a 1).fesmHeld a else s

/-- ENABLE at 0: the FESM goes to OFF at once (R95). -/
def State.fesmOff (s : State) (a : Nat) : State := (s.pathsOff a).setFesm a 0

/-- Sets CMD_IGN of aerial `a`. -/
def State.feIgnore (s : State) (a : Nat) : State := s.putB (R.FE_STAT_CMD_IGN a) true

/-- FE_CMD_a.CLEAR (R94, R95). -/
def State.feClear (s : State) (a : Nat) : State :=
  let cause := s.get (R.FE_STAT_CAUSE a)
  if s.fesm a != 6 || (cause == 6 && s.clk.limp) then s.feIgnore a
  else if cause == 3 || cause == 4 || cause == 6 then (s.enterLoCal a).fesmHeld a
  else (s.setFesm a 1).fesmHeld a

/-- FE_CMD_a.RECAL_b (R97): the path goes to CAL at the next tick edge. -/
def State.feRecal (s : State) (a b : Nat) : State :=
  if s.fesm a == 5 && s.get (pathFld a b) == 2 then
    { s with fe := { s.fe with toCal := listPut s.fe.toCal (3 * a + b) true false } }
  else s.feIgnore a

/-- A PATH_EN bit changes while the FESM is in RUN (R96): cleared, the path goes to OFF at the next tick edge; set
again, it goes to CAL and runs the calibration of R98. -/
def State.pathEnable (s : State) (a b : Nat) (on : Bool) : State :=
  let i := 3 * a + b
  if s.fesm a != 5 then s
  else if on then
    let s1 := { s with fe := { s.fe with toOff := listPut s.fe.toOff i false false } }
    if s.get (pathFld a b) == 0 then
      { (s1.put (pathFld a b) 3) with fe := { s1.fe with pathAt := listPut s1.fe.pathAt i s.clk.age 0 } } else s1
  else { s with fe := { s.fe with toOff := listPut s.fe.toOff i true false } }

/-- Sets the gain code of path `i`, with AT_MAX and AT_MIN (R82). -/
def State.setGain (s : State) (i g : Nat) : State :=
  ((s.put (R.FE_AGC_GAIN_GAIN i) g).putB (R.FE_AGC_GAIN_AT_MAX i) (g == 120)).putB (R.FE_AGC_GAIN_AT_MIN i) (g == 0)

/-- The effect of a write of `v` to a register of the FE block, beyond storing it; `old` is the word before. -/
def feOnWrite (gwa v : Nat) (old : Nat) (s : State) : State :=
  if gwa = 0x702004 ∨ gwa = 0x702005 then
    let a := gwa - 0x702004
    let s := if bitOf old 15 && !bitOf v 15 then s.fesmOff a else if bitOf v 15 then s.fesmStart a else s
    let s := (List.range 3).foldl (fun s b => if bitOf old b != bitOf v b then s.pathEnable a b (bitOf v b) else s) s
    (s.biasFollow a).fesmHeld a
  else if gwa = 0x702006 ∨ gwa = 0x702007 then
    let a := gwa - 0x702006
    let s := if bitOf v 15 then s.feClear a else s
    (List.range 3).foldl (fun s b => if bitOf v b then s.feRecal a b else s) s
  else if 0x702010 ≤ gwa ∧ gwa ≤ 0x70201D then
    let i := (gwa - 0x702010) % 8
    if s.get (R.FE_AGC_CFG_MODE i) == 1 && s.get (pathFld (i / 3) (i % 3)) == 2 then
      s.setGain i (s.get (R.FE_AGC_MAN_GAIN i))
    else s
  else s

/-! ### Events -/

/-- BIAS_SETTLE (R94, R103): t_BSET, or 10 µs with BIAS_EN at 0, has passed in BIAS. -/
def State.biasSettle (s : State) (a : Nat) : State :=
  if s.fesm a == 1 then
    s.dueAt (s.fe.fesmAt.getD a 0 + (if s.isOn (R.FE_CTRL_BIAS_EN a) then 2000 else 10) * agePerUs) (fun s => s.enterLoCal a)
  else s

/-- BIAS_SHORT (R78): the switch opens and the FESM goes to FAULT. -/
def State.biasShort (s : State) (a : Nat) : State :=
  if s.biasClosed a && s.fesm a != 0 then
    let s := (s.put (R.FE_BIAS_I_BSTAT a) 3).raise 0x0101 (feUnit a 3) (s.get (R.FE_BIAS_I_CURRENT a))
    s.fesmFault a 1
  else s

/-- BIAS_RETRY (R79): the switch is closed again after each RETRY_INT, in units of 10 ms. -/
def State.biasRetry (s : State) (a : Nat) (held : Bool) : State :=
  if s.fesm a == 6 && s.get (R.FE_STAT_CAUSE a) == 1 && s.isOn (R.FE_CTRL_AUTO_RETRY a) then
    s.dueAt (s.fe.fesmAt.getD a 0 + s.get (R.FE_BIAS_CFG_RETRY_INT a) * 10000 * agePerUs) (fun s =>
      if held then { s with fe := { s.fe with fesmAt := listPut s.fe.fesmAt a s.clk.age 0 } }
      else (s.setFesm a 1).fesmHeld a)
  else s

/-- VIN_FAULT (R80); `volt` in 10 mV. -/
def State.vinFault (s : State) (volt : Nat) : State :=
  if volt < 290 then
    if s.isOn R.FE_VIN_ANT_VIN_LOW then s
    else (s.putB R.FE_VIN_ANT_VIN_LOW true).raise 0x0107 3 volt
  else if 580 < volt then
    if s.isOn R.FE_VIN_ANT_VIN_HIGH then { s with fe := { s.fe with vinOk := 0 } }
    else
      let s := (s.putB R.FE_VIN_ANT_VIN_HIGH true).raise 0x0107 3 volt
      let s := { s with fe := { s.fe with vinOk := 0, biasWhole := [false, false] } }
      (List.range 2).foldl (fun s a =>
        if s.isOn (R.FE_CTRL_BIAS_EN a) && s.fesm a != 0 then s.fesmFault a 7 else s.biasFollow a) s
  else s

/-- VIN_RECOVER (R80): VIN_ANT has stayed below 5.70 V for 10 ticks. -/
def State.vinRecover (s : State) : State :=
  if s.fe.vinOk < 10 then s
  else (List.range 2).foldl (fun s a =>
      if s.fesm a == 6 && s.get (R.FE_STAT_CAUSE a) == 7 then (s.setFesm a 1).fesmHeld a else s)
    (s.putB R.FE_VIN_ANT_VIN_HIGH false)

/-- The frequency check of band `b` starts again: the next window begins now (R88). -/
def State.loRestart (s : State) (b : Nat) : State :=
  { s with fe := { s.fe with loGood := listPut s.fe.loGood b 0 0, loBad := listPut s.fe.loBad b 0 0
                             loFrom := listPut s.fe.loFrom b s.clk.age 0 } }

/-- LO_CAL_DONE (R89, R92): a calibration of all three LOs, or, after a loss in RUN, of those without lock. FESMs that wait
for it go on, or to FAULT when no VCO band locks. -/
def State.loCalDone (s : State) (ok : Bool) (bands : List Nat) : State :=
  let all := s.fe.loCalRunning
  if !all && (s.losLocked || s.clk.limp || !(s.fesm 0 == 5 || s.fesm 1 == 5)) then s
  else
    let s := { s with fe := { s.fe with loCalRunning := false } }
    let s := if ok then forUp 3 (fun b s =>
        if all || !s.isOn (R.LO_STAT_LOCK b) then
          State.loRestart ((s.putB (R.LO_STAT_CAL_DONE b) true).put (R.LO_STAT_VCO_BAND b) (bands.getD b 0)) b
        else s) s else s
    (List.range 2).foldl (fun s a =>
      if s.fesm a == 2 || (!all && s.fesm a == 5) then
        (if !ok then (s.fesmFault a 3).raise 0x0103 (feUnit a 3)
         else if s.fesm a == 2 then s.setFesm a (if s.losLocked then 4 else 3) else s)
      else s) s

/-- The LO of band `b` is locked (R91, R92, R94): its waiting paths run from the next tick edge. -/
def State.loLocked (s : State) (b : Nat) : State :=
  let s := s.putB (R.LO_STAT_LOCK b) true
  let s := (List.range 2).foldl (fun s a =>
    let i := 3 * a + b
    if s.fe.loHold.getD i false then
      { s with fe := { s.fe with loHold := listPut s.fe.loHold i false false, toRun := listPut s.fe.toRun i true false } }
    else s) s
  let s := if s.losLocked then { s with fe := { s.fe with lostAt := none } } else s
  (List.range 2).foldl (fun s a => if s.fesm a == 3 && s.losLocked then s.setFesm a 4 else s) s

/-- The two paths of band `b` go to HOLD while their LO relocks (R91, R92). -/
def State.bandHold (s : State) (b : Nat) (midTick : Bool) : State :=
  (List.range 2).foldl (fun s a =>
    let i := 3 * a + b
    let p := s.get (pathFld a b)
    if s.fesm a == 5 && (p == 2 || p == 3 || (p == 1 && s.fe.toRun.getD i false)) then
      let s := if midTick then s.pathStop i else { s with fe := { s.fe with deliver := listPut s.fe.deliver i false false } }
      { (s.put (pathFld a b) 1) with fe := { s.fe with loHold := listPut s.fe.loHold i true false,
                                                        toRun := listPut s.fe.toRun i false false } }
    else s) s

/-- The LO of band `b` loses lock (R92). -/
def State.loUnlocked (s : State) (b : Nat) : State :=
  let s := (s.putB (R.LO_STAT_LOCK b) false).putB (R.LO_STAT_UNLOCK b) true
  let inRun := s.fesm 0 == 5 || s.fesm 1 == 5
  let s := if inRun then (s.bandHold b true).raise 0x0105 b else s
  let s := if inRun && s.fe.lostAt.isNone then { s with fe := { s.fe with lostAt := some s.clk.age } } else s
  (List.range 2).foldl (fun s a => if s.fesm a == 4 then s.setFesm a 3 else s) s

/-- `ClkSt.age` that a window of the frequency check takes: 2^LK_WIN cycles of 3.84 MHz (R88). -/
def State.loWindowAge (s : State) : Nat := 80000 * 2 ^ s.get R.LO_LOCK_CFG_LK_WIN

/-- A window of band `b`'s frequency check ends with `count` LO cycles (R88). -/
def State.loWindow (s : State) (b count : Nat) : State :=
  let want := s.act (R.LO_BAND_CFG_LO_N b) * 2 ^ s.get R.LO_LOCK_CFG_LK_WIN
  let good := decide (((count : Int) - want).natAbs ≤ s.get R.LO_LOCK_CFG_LK_TOL)
  let g := if good then s.fe.loGood.getD b 0 + 1 else 0
  let w := if good then 0 else s.fe.loBad.getD b 0 + 1
  let s := { s with fe := { s.fe with
      loGood := listPut s.fe.loGood b g 0, loBad := listPut s.fe.loBad b w 0
      loFrom := listPut s.fe.loFrom b (s.fe.loFrom.getD b 0 + s.loWindowAge) 0 } }
  if s.isOn (R.LO_STAT_LOCK b) then (if s.get R.LO_LOCK_CFG_LK_BAD ≤ w then s.loUnlocked b else s)
  else if s.get R.LO_LOCK_CFG_LK_GOOD ≤ g then s.loLocked b
  else s

/-- The windows of band `b`'s frequency check that end within the tick in progress, while the LO has a reference (R88, R90). -/
def State.loWindows (s : State) (b : Nat) (counts : List Nat) : State :=
  if s.clk.limp then s
  else counts.foldl (fun s n => s.dueAt (s.fe.loFrom.getD b 0 + s.loWindowAge) (fun s => s.loWindow b n)) s

/-- LO_LOCK_TIMEOUT (R92, R94): t_LOTO has passed since aerial `a` entered LO_SETTLE, or since a loss in RUN. -/
def State.loLockTimeout (s : State) (a : Option Nat) : State :=
  match a with
  | some a =>
    if s.fesm a == 3 && !s.losLocked then
      s.dueAt (s.fe.fesmAt.getD a 0 + 20000 * agePerUs) (fun s => (s.fesmFault a 4).raise 0x0104 (feUnit a 3))
    else s
  | none =>
    match s.fe.lostAt with
    | some t =>
      if s.losLocked then s
      else s.dueAt (t + 20000 * agePerUs) (fun s =>
        (List.range 2).foldl (fun s a => if s.fesm a == 5 then s.fesmFault a 4 else s)
          { s with fe := { s.fe with lostAt := none } })
    | none => s

/-- The check of step 4 of R98. -/
def calPasses (c : PathCal) : Bool :=
  c.dcI.natAbs ≤ 127 && c.dcQ.natAbs ≤ 127 && c.gain.natAbs ≤ 2047 && c.phase.natAbs ≤ 2047 && 40 ≤ c.imageDb

/-- Sets field `f` in the snapshot of page `p` that waits in a stage. -/
def stageSet (p : Nat) (f : Fld) (v : Nat) (l : List (Nat × WMap)) : List (Nat × WMap) :=
  l.map (fun e => if e.1 == p then
    (e.1, wmPut (resetWord f.gwa) f.gwa (putBits (wmGet (resetWord f.gwa) e.2 f.gwa) f.hi f.lo v) e.2) else e)

/-- Sets shadow and active of `f` at once and overrides a value that waits from a COMMIT (R99). -/
def State.putOver (s : State) (f : Fld) (v : Nat) : State :=
  let p := f.gwa / 0x1000
  let s := s.putBoth f v
  { s with stage := stageSet p f v s.stage, late := stageSet p f v s.late }

/-- Hardware writes the correction coefficients of path `i` (R99). -/
def State.writeCoefs (s : State) (i : Nat) (c : PathCal) : State :=
  let s := s.putOver (R.FE_IQ_DC_DC_I i) (unsignedOf 8 c.dcI)
  let s := s.putOver (R.FE_IQ_DC_DC_Q i) (unsignedOf 8 c.dcQ)
  let s := s.putOver (R.FE_IQ_GAIN_GAIN i) (unsignedOf 12 c.gain)
  s.putOver (R.FE_IQ_PHASE_PHASE i) (unsignedOf 12 c.phase)

/-- The calibration of one path ends (R98, R99); answers whether it passed. -/
def State.pathCalOne (s : State) (a : Nat) (c : PathCal) : State :=
  let i := 3 * a + c.band.val
  let s := s.setGain i c.agc.val
  if calPasses c then (if s.isOn R.FE_CAL_CFG_COEF_SRC then s else s.writeCoefs i c)
  else s.raise 0x0106 (feUnit a c.band.val)

/-- t_GCAL: steps 1 to 4 of R98. -/
def calAge : Nat := 3000 * agePerUs

/-- GAIN_CAL of aerial `a` ends: every enabled path has been calibrated (R94, R98). -/
def State.gainCalEnd (s : State) (a : Nat) (cal : List PathCal) : State :=
  let cal := cal.filter (fun c => s.isOn (pathEnFld a c.band.val))
  let s := cal.foldl (fun s c => s.pathCalOne a c) s
  if cal.all calPasses then
    { s with fe := { s.fe with gainCalOk := listPut s.fe.gainCalOk a true false
                               calOk := cal.foldl (fun l c => listPut l (3 * a + c.band.val) true false) s.fe.calOk } }
  else s.fesmFault a 5

/-- PATH_CAL_DONE (R98): GAIN_CAL of the aerial, or CAL of single paths, ends. GAIN_CAL ends only with a measurement of
every enabled path. -/
def State.pathCalDone (s : State) (a : Nat) (cal : List PathCal) : State :=
  if s.fesm a == 4 then
    if (List.range 3).all (fun b => !s.isOn (pathEnFld a b) || cal.any (fun c => c.band.val == b)) then
      s.dueAt (s.fe.fesmAt.getD a 0 + calAge) (fun s => s.gainCalEnd a cal)
    else s
  else if s.fesm a == 5 then
    cal.foldl (fun s c =>
      let b := c.band.val
      let i := 3 * a + b
      if s.get (pathFld a b) == 3 then
        s.dueAt (s.fe.pathAt.getD i 0 + calAge) (fun s =>
          let s := s.pathCalOne a c
          if calPasses c then { s with fe := { s.fe with toRun := listPut s.fe.toRun i true false } }
          else s.put (pathFld a b) 1)
      else s) s
  else s

/-- Largest move of a window in gain codes: STEP_MAX 0.5, 1, 2 or 4 dB (R81, FE_AGC_CFG). -/
def stepCodes (n : Nat) : Nat := 2 ^ n

/-- The gain code after a window in which Σ (I² + Q²) over `n` samples is `e`, against `target` (LSB RMS on I and Q), by at
most `lim` codes (R81). The size of the move below the limit is open (log entry 11). -/
def agcMove (gain e n target lim : Nat) : Nat :=
  let want := 2 * n * target ^ 2
  let k := min lim (Config.agcSteps e want)
  if e < want then min 120 (gain + k) else if want < e then gain - k else gain

/-- The samples of a window that the blanker leaves: their Σ (I² + Q²) and their number (R82). The window's own samples
decide (log entry 116). -/
def State.windowLevel (s : State) (i : Nat) (l : List Taken) : Nat × Nat :=
  let w := (s.rg (0x704008 + i)).toNat
  let b := (blankIn (l.map (fun t => (t.x, w))) 0).1 ++ List.replicate 4 ({} : Blank)
  unblanked ((l.map (fun t => ({ re := t.i, im := t.q } : Cplx))).zip ((blankOut b).map (·.2)))

/-- The calibration that began at `t` is in step 1 or 4 of R98, where the AGC runs. -/
def State.calAgc (s : State) (t : Nat) : Bool := decide (s.clk.age ≤ t + 1000 * agePerUs ∨ t + 2500 * agePerUs < s.clk.age)

/-- The end of a window of path `i` with samples `l` (R81 to R83). -/
def State.agcEnd (s : State) (i : Nat) (l : List Taken) : State :=
  let a := i / 3
  let g := s.get (R.FE_AGC_GAIN_GAIN i)
  let target := s.get (R.FE_AGC_CFG_TARGET i)
  let (e, n) := s.windowLevel i l
  let moved (lim : Nat) : State := if 2 * n < l.length then s else s.setGain i (agcMove g e n target lim)
  if s.fesm a == 4 then (if s.calAgc (s.fe.fesmAt.getD a 0) then moved (stepCodes 3) else s)
  else if s.fesm a == 5 then
    match s.get (pathFld a (i % 3)) with
    | 3 => if s.calAgc (s.fe.pathAt.getD i 0) then moved (stepCodes 3) else s
    | 2 =>
      match s.get (R.FE_AGC_CFG_MODE i) with
      | 0 => moved (stepCodes (s.get (R.FE_AGC_CFG_STEP_MAX i)))
      | 1 => s.setGain i (s.get (R.FE_AGC_MAN_GAIN i))
      | _ => s
    | _ => s
  else s

/-- AGC_WINDOW of path `i` (R81): once 8,192 samples have come since the last window, they are one. -/
def State.agcWindow (s : State) (i : Nat) (l : List Adc) : State :=
  let s := s.takeSamples i l
  let w := s.dfe.win.getD i []
  if w.length < 8192 then s
  else
    let s := { s with dfe := { s.dfe with win := listPut s.dfe.win i (w.drop 8192) [] } }
    s.agcEnd i (w.take 8192)

/-- A switch of the internal domains to the limp oscillator (R90). -/
def State.feLimp (s : State) : State :=
  let s := forUp 3 (fun b s =>
    (if s.isOn (R.LO_STAT_LOCK b) then s.putB (R.LO_STAT_UNLOCK b) true else s).putB (R.LO_STAT_LOCK b) false) s
  let s := { s with fe := { s.fe with loCalRunning := false } }
  (List.range 2).foldl (fun s a =>
    if s.fesm a != 0 && !(s.fesm a == 6 && s.get (R.FE_STAT_CAUSE a) == 6) then
      let s := { s with fe := { s.fe with lostAt := none, limpOpen := listPut s.fe.limpOpen a (!s.biasClosed a) false } }
      (s.fesmFault a 6).raise 0x0108 (feUnit a 3)
    else s) s

/-- The clock monitor reports the system clock good again (R90). -/
def State.feClockGood (s : State) : State :=
  (List.range 2).foldl (fun s a =>
    if s.fesm a == 6 && s.get (R.FE_STAT_CAUSE a) == 6 then (s.enterLoCal a).fesmHeld a else s)
    (forUp 3 (fun b s => s.loRestart b) s)

/-! ### The tick edge -/

/-- The bias measurement of aerial `a` over the tick that ends, in 0.125 mA (R78). -/
def State.biasTick (s : State) (a cur : Nat) : State :=
  let closed := s.biasClosed a
  let whole := closed && s.fe.biasWhole.getD a false
  let s := { s with fe := { s.fe with biasWhole := listPut s.fe.biasWhole a closed false } }
  let s := s.putB (R.FE_BIAS_I_VALID a) whole
  if !closed then s.biasFollow a
  else if !whole then s.put (R.FE_BIAS_I_BSTAT a) 1
  else
    let s := s.put (R.FE_BIAS_I_CURRENT a) (min cur 1023)
    let th := 4 * s.get (R.FE_BIAS_CFG_OPEN_TH a)
    let was := s.get (R.FE_BIAS_I_BSTAT a)
    let s :=
      if cur < th then
        (if was == 2 then s else (s.put (R.FE_BIAS_I_BSTAT a) 2).raise 0x0102 (feUnit a 3) (min cur 1023))
      else if was == 2 && cur < th + 4 then s
      else s.put (R.FE_BIAS_I_BSTAT a) 1
    s.fesmHeld a

/-- VIN_ANT over the tick (R80, FE_VIN_ANT); `volt` in 10 mV. -/
def State.vinTick (s : State) (volt : Nat) : State :=
  let s := (s.put R.FE_VIN_ANT_VOLT (min volt 1023))
  let s := if 290 ≤ volt then s.putB R.FE_VIN_ANT_VIN_LOW false else s
  { s with fe := { s.fe with vinOk := if volt < 570 then s.fe.vinOk + 1 else 0 } }

/-- Path `i` ends its calibration or its wait at a tick edge: it runs and delivers samples, with the gain of its mode, or
holds until its LO is locked (R83, R91 to R93). -/
def State.pathStart (s : State) (i : Nat) : State :=
  let f := pathFld (i / 3) (i % 3)
  if s.isOn (R.LO_STAT_LOCK (i % 3)) then
    let s := { (s.put f 2) with fe := { s.fe with deliver := listPut s.fe.deliver i true false } }
    if s.get (R.FE_AGC_CFG_MODE i) == 1 then s.setGain i (s.get (R.FE_AGC_MAN_GAIN i)) else s
  else { (s.put f 1) with fe := { s.fe with loHold := listPut s.fe.loHold i true false } }

/-- The change of path `i` at a tick edge (R93, R94, R96, R97). -/
def State.pathTick (s : State) (i : Nat) : State :=
  let a := i / 3
  let b := i % 3
  let p := s.get (pathFld a b)
  let f := s.fe
  let s1 : State :=
    if s.fesm a != 5 then s
    else if f.toOff.getD i false then
      { (s.put (pathFld a b) 0) with fe := { f with
          deliver := listPut f.deliver i false false, loHold := listPut f.loHold i false false } }
    else if f.toCal.getD i false && p == 2 then
      { (s.put (pathFld a b) 3) with fe := { f with
          deliver := listPut f.deliver i false false, pathAt := listPut f.pathAt i s.clk.age 0 } }
    else if f.toRun.getD i false then s.pathStart i
    else s
  { s1 with fe := { s1.fe with toOff := listPut s1.fe.toOff i false false, toCal := listPut s1.fe.toCal i false false,
                               toRun := listPut s1.fe.toRun i false false } }

/-- GAIN_CAL that has passed ends in RUN: every path that is enabled and has passed runs (R94); one enabled since goes to CAL
(R96). -/
def State.fesmTick (s : State) (a : Nat) : State :=
  if s.fesm a == 4 && s.fe.gainCalOk.getD a false then
    let ok := s.fe.calOk
    (List.range 3).foldl (fun s b =>
      let i := 3 * a + b
      if !s.isOn (pathEnFld a b) then s
      else if ok.getD i false then s.pathStart i
      else { (s.put (pathFld a b) 3) with fe := { s.fe with pathAt := listPut s.fe.pathAt i s.clk.age 0 } }) (s.setFesm a 5)
  else s

/-- DC tracking of path `i` (R100), on the samples `l` of the tick that ends. DC_I and DC_Q stop at ±127 (log entry 117). -/
def State.dcTrack (s : State) (i : Nat) (l : List Taken) : State :=
  if l.isEmpty then s
  else if s.fesm (i / 3) == 5 && s.get (pathFld (i / 3) (i % 3)) == 2 && !s.isOn R.FE_CAL_CFG_COEF_SRC
      && s.isOn R.FE_CAL_CFG_DC_TRACK then
    let upd (f : Fld) (sum : Int) (s : State) : State :=
      let v := s.actS f
      s.putOver f (unsignedOf 8 (clampInt (-127) 127 (v + rdiv (16 * sum - v * l.length) (64 * l.length))))
    upd (R.FE_IQ_DC_DC_Q i) (l.map (·.q)).sum (upd (R.FE_IQ_DC_DC_I i) (l.map (·.i)).sum s)
  else s

/-- RMS of I and Q over samples `l`, in LSB (FE_ADC_STAT). -/
def rmsLevel (l : List Taken) : Nat :=
  if l.isEmpty then 0 else rootFree (l.map (fun (t : Taken) => t.i * t.i + t.q * t.q)).sum.toNat (2 * l.length)

/-- What path `i` measured on the samples `l` of the tick that ends (R84, R85, FE_ADC_STAT), and whether it delivered samples
throughout (R93). -/
def State.pathStat (s : State) (i : Nat) (l : List Taken) : State :=
  let s := s.put (R.FE_AGC_GAIN_TICK_GAIN i) (s.get (R.FE_AGC_GAIN_GAIN i))
  let clipped := (l.filter (fun t => clippedSample t.i t.q)).length
  let s := (s.put (R.FE_ADC_STAT_CLIP i) (min (clipped / 64) 255)).put (R.FE_ADC_STAT_LEVEL i) (min (rmsLevel l) 255)
  { s with fe := { s.fe with cut := listPut s.fe.cut i none none, lastWhole := listPut s.fe.lastWhole i (s.fe.whole.getD i false && s.fe.deliver.getD i false) false } }

/-- The front ends at a tick edge: measurements of the tick that ends, then the changes that take effect at the edge. -/
def State.feTick (s : State) (bias : List Nat) (vin : Nat) : State :=
  let s := forUp 2 (fun a s => s.biasTick a (bias.getD a 0)) s
  let s := s.vinTick vin
  let s := forUp 6 (fun i s => s.dcTrack i (s.dfe.taken.getD i [])) s
  let s := forUp 6 (fun i s => s.pathStat i (s.dfe.taken.getD i [])) s
  let s := forUp 6 (fun i s => s.pathTick i) s
  let s := forUp 2 (fun a s => s.fesmTick a) s
  { s with fe := { s.fe with whole := s.fe.deliver } }

/-- Activation of LO_BAND_CFG at a tick edge: each band whose LO_N changes relocks (R91). `old` is LO_N before. The sticky
UNLOCK is left as it is (log entry 118). -/
def State.loRelock (s : State) (old : List Nat) : State :=
  forUp 3 (fun b s =>
    if s.act (R.LO_BAND_CFG_LO_N b) == old.getD b 0 then s
    else if s.isOn (R.LO_STAT_LOCK b) then ((s.putB (R.LO_STAT_LOCK b) false).bandHold b false).loRestart b
    else s.loRestart b) s

end Sys2Proof.Machine
end

