-- ==== Sys2Proof/Machine/MemSys.lean ====
section
/-!
DEFINITION. The memory system (spec/14_memory_system.md, R427 to R459): regions, access tables, error correction,
scrubbing, the background test, retention and the secure-store wipe.
-/

namespace Sys2Proof.Machine

/-- The regions of the GWA map (R38); `block` carries the register block's index in the order of R41. -/
inductive Region where
  | engineLocal | reserved | pool (bank : Nat) | capture | backwater | secure | channelTable | jobTable | codeStore
  | block (b : Nat) | flash
  deriving DecidableEq, Repr

/-- The region of `a` (R38). -/
def regionOf (a : Nat) : Region :=
  if a < 0x008000 then .engineLocal
  else if a < 0x100000 then .reserved
  else if a < 0x300000 then .pool ((a - 0x100000) / 0x10000)
  else if a < 0x600000 then .capture
  else if a < 0x620000 then .backwater
  else if a < 0x624000 then .secure
  else if a < 0x640000 then .reserved
  else if a < 0x643000 then .channelTable
  else if a < 0x650000 then .reserved
  else if a < 0x65C000 then .jobTable
  else if a < 0x660000 then .reserved
  else if a < 0x6A0000 then .codeStore
  else if a < 0x700000 then .reserved
  else if a < 0x714000 then .block ((a - 0x700000) / 0x1000)
  else if a < 0x800000 then .reserved
  else .flash

/-- The access-table target of a region (R454). -/
def Region.target : Region → Option Nat
  | .pool b => some b
  | .capture => some 32
  | .backwater => some 33
  | .secure => some 34
  | .channelTable => some 35
  | .jobTable => some 36
  | .codeStore => some 37
  | .flash => some 38
  | .block b => some (40 + b)
  | .engineLocal => none
  | .reserved => none

/-- The kinds of access that a table judges (R455, ACC_VIOL). -/
inductive AccKind where
  | read | write | image
  deriving DecidableEq, Repr

/-- The tables let master `m` use target `t` (R454, R455); the background test is not checked (R437). -/
def State.allowed (s : State) (m t : Nat) (k : AccKind) : Bool :=
  let table := match k with
    | .read => 0x70E081
    | .write => 0x70E101
    | .image => 0x70E181
  m == 13 || bitOf (s.rg (table + t)).toNat m

/-- A violation of the access tables (R458). -/
def State.violation (s : State) (m a t : Nat) (k : AccKind) : State :=
  let kind := match k with | .read => 0 | .write => 1 | .image => 2
  let s := s.setRg 0x70E004 (BitVec.ofNat 16 a)
  let s := s.setRg 0x70E005 (BitVec.ofNat 16 (0x8000 + kind * 0x2000 + m % 16 * 0x100 + a / 65536 % 256))
  let s := s.setRg 0x70E006 (BitVec.ofNat 16 (t % 64))
  let s := s.addSat (R.ACC_VIOL 3) 1
  if s.memSt.violSeen.contains (m, t) then s
  else { (s.raise 0x0C0A t a (some m)) with memSt := { s.memSt with violSeen := s.memSt.violSeen ++ [(m, t)] } }

/-- An access to a reserved region, or to the engine-local range by a master other than an engine (R39). -/
def State.reservedHit (s : State) (m a : Nat) : State := s.raise 0x1101 0xFF a (some m)

/-! ### Error correction (R434, R435, R439) -/

/-- Number of bits of `x` that are 1, among its low `n`. -/
def popCount : Nat → Nat → Nat
  | 0, _ => 0
  | n + 1, x => x % 2 + popCount n (x / 2)

/-- Bits in error of a word. -/
def Flip.bits (f : Flip) : Nat := popCount 16 f.data.toNat + popCount 6 f.check

/-- Inserts or merges an error of the word at `a`; errors that cancel leave none. -/
def flipPut (a : Nat) (f : Flip) : List (Nat × Flip) → List (Nat × Flip)
  | [] => [(a, f)]
  | (b, g) :: t =>
    if a < b then (a, f) :: (b, g) :: t
    else if a = b then
      let h : Flip := { data := f.data ^^^ g.data, check := f.check ^^^ g.check, poison := f.poison || g.poison }
      if h.bits = 0 ∧ !h.poison then t else (a, h) :: t
    else (b, g) :: flipPut a f t

/-- The soft errors `u` come about in the stored words. -/
def State.upsets (s : State) (u : List Upset) : State :=
  { s with memSt := { s.memSt with flips := u.foldl (fun l e =>
      if e.data = 0 ∧ e.check.val = 0 then l
      else flipPut e.gwa.toNat { data := e.data, check := e.check.val } l) s.memSt.flips } }

/-- The error of the word at `a`, if any. -/
def State.flipAt (s : State) (a : Nat) : Option Flip := (s.memSt.flips.find? (fun e => e.1 == a)).map (·.2)

/-- MEM_ECC_ADDR and MEM_ECC_INFO name the error (R435). -/
def State.eccNote (s : State) (m a : Nat) (ue : Bool) (f : Flip) : State :=
  let s := s.setRg 0x70D005 (BitVec.ofNat 16 a)
  let s := s.setRg 0x70D006 (BitVec.ofNat 16 (a / 65536))
  s.setRg 0x70D007 (BitVec.ofNat 16 (0x8000 + (if ue then 0x4000 else 0) + m % 16 * 0x400
    + Config.syndrome f.data.toNat f.check % 64))

/-- A single-bit error is corrected (R434): counted, and queued for write-back. -/
def State.eccCorrect (s : State) (m a : Nat) (f : Flip) : State :=
  let s := (s.eccNote m a false f).putB R.MEM_ECC_STAT_CE true
  let s := s.addSat R.MEM_ECC_STAT_CE_CNT 1
  let q := if s.memSt.writeBack.contains a then s.memSt.writeBack else s.memSt.writeBack ++ [a]
  let s := { s with memSt := { s.memSt with writeBack := q } }
  if s.isOn R.MEM_ECC_CFG_CE_FLT && !s.memSt.ceSeen then
    { (s.raise 0x0C01 0xFF a (some m)) with memSt := { s.memSt with ceSeen := true } }
  else s

/-- An uncorrectable error is reported (R435). -/
def State.eccReport (s : State) (m a : Nat) (f : Flip) : State :=
  let s := (s.eccNote m a true f).putB R.MEM_ECC_STAT_UE true
  (s.addSat R.MEM_ECC_STAT_UE_CNT 1).raise 0x0C02 0xFF a (some m)

/-- A read of a SECDED word by master `m` (R434, R435): the word given, and the state after. -/
def State.eccRead (s : State) (m a : Nat) : Word × State :=
  match s.flipAt a with
  | none => (s.memGet a, s)
  | some f =>
    if f.bits = 1 ∧ !f.poison then (s.memGet a, s.eccCorrect m a f)
    else if f.bits = 0 ∧ !f.poison then (s.memGet a, s)
    else (s.memGet a ^^^ f.data, s.eccReport m a f)

/-- Whether the bytes of a word of the capture buffer read with good parity: one parity bit per byte (R439). Bits 0 and
1 of `check` are the parity bits of the low and the high byte. -/
def Flip.parityBad (f : Flip) : Bool :=
  f.poison || (popCount 8 (f.data.toNat % 256) + f.check % 2) % 2 = 1
    || (popCount 8 (f.data.toNat / 256) + f.check / 2 % 2) % 2 = 1

/-- A read of the capture buffer by a master other than a pipeline (R439). -/
def State.captureRead (s : State) (m a : Nat) : Word × State :=
  match s.flipAt a with
  | none => (s.memGet a, s)
  | some f =>
    let w := s.memGet a ^^^ f.data
    if f.parityBad then (w, s.raise 0x0C04 0xFF a (some m)) else (w, s)

/-! ### Background test (R440 to R443) -/

/-- The slice of a Pool address (R440). -/
def sliceOf (a : Nat) : Nat := (a - 0x100000) / 0x100

/-- Slice `n` meets an enabled exclusion range. -/
def State.sliceExcluded (s : State) (n : Nat) : Bool :=
  (List.range 8).any (fun r =>
    let f := (s.rg (0x70D018 + 2 * r)).toNat
    let l := (s.rg (0x70D019 + 2 * r)).toNat
    bitOf f 15 && f % 0x2000 ≤ n && n ≤ l % 0x2000)

/-- The first slice from `n` on that may be borrowed, and whether a pass ended on the way. -/
def State.sliceFrom (s : State) : Nat → Nat → Option (Nat × Bool)
  | 0, _ => none
  | fuel + 1, n =>
    if n ≥ 7680 then
      (s.sliceFrom fuel 0).map (fun r => (r.1, true))
    else if s.sliceExcluded n then s.sliceFrom fuel (n + 1)
    else some (n, false)

/-- Moves on to the slice after `n` (R440); a pass that ends is counted. -/
def State.testAdvance (s : State) (n : Nat) : State :=
  let s := { s with memSt := { s.memSt with abandons := 0, borrowed := none } }
  if n + 1 ≥ 7680 then (s.put R.MEM_TEST_POS_SLICE 0).addWrap R.MEM_TEST_PASS_PASSES 1
  else s.put R.MEM_TEST_POS_SLICE (n + 1)

/-- The slice in test is given up: the restore runs at once (R442). After four abandons in a row it is passed over
(R443). -/
def State.sliceAbandon (s : State) (n : Nat) : State :=
  let s := (s.addSat R.MEM_TEST_STAT_ABANDON 1).putB R.MEM_TEST_STAT_BUSY false
  let k := s.memSt.abandons + 1
  if k ≥ 4 then (s.addSat R.MEM_TEST_STAT_SKIPPED 1).testAdvance n
  else { s with memSt := { s.memSt with borrowed := none, abandons := k } }

/-- A request of a word in a borrowed slice makes the test abandon it (R442). -/
def State.touchSlice (s : State) (a : Nat) : State :=
  match s.memSt.borrowed with
  | some n => if 0x100000 ≤ a ∧ sliceOf a = n then s.sliceAbandon n else s
  | none => s

/-- The copy of slice `n` (R441): each word is read with correction; answers whether a word was uncorrectable. -/
def State.sliceCopy (s : State) (n : Nat) : Bool × State :=
  let base := 0x100000 + n * 0x100
  (s.memSt.flips.filter (fun e => base ≤ e.1 && e.1 < base + 0x100)).foldl (fun (r : Bool × State) e =>
    if e.2.bits = 1 ∧ !e.2.poison then (r.1, r.2.eccCorrect 13 e.1 e.2)
    else if e.2.bits = 0 ∧ !e.2.poison then r
    else (true, r.2.eccReport 13 e.1 e.2)) (false, s)

/-- The march and the restore of the borrowed slice `n` (R441): the slice comes back with fresh check bits. -/
def State.sliceMarch (s : State) (n : Nat) (mismatch : Bool) : State :=
  let base := 0x100000 + n * 0x100
  let s := { s with memSt := { s.memSt with
    flips := s.memSt.flips.filter (fun e => e.1 < base || base + 0x100 ≤ e.1)
    writeBack := s.memSt.writeBack.filter (fun a => a < base || base + 0x100 ≤ a) } }
  let s := if mismatch then
      (((s.putB R.MEM_TEST_STAT_FAIL true).putB R.MEM_TEST_FAIL_VALID true).put R.MEM_TEST_FAIL_SLICE n).raise 0x0C05 0xFF n
    else s
  (s.putB R.MEM_TEST_STAT_BUSY false).testAdvance n

/-- TEST_SLICE (R440 to R443). `hold` leaves the slice borrowed. -/
def State.testSlice (s : State) (hold mismatch : Bool) : State :=
  match s.memSt.borrowed with
  | some n => if hold then s else s.sliceMarch n mismatch
  | none =>
    if !(s.isOn R.MEM_TEST_CFG_EN && s.memSt.testDue) then s
    else
      let s := { s with memSt := { s.memSt with testDue := false } }
      match s.sliceFrom 15362 (s.get R.MEM_TEST_POS_SLICE) with
      | none => s
      | some (n, wrapped) =>
        let s := if wrapped then s.addWrap R.MEM_TEST_PASS_PASSES 1 else s
        let s := if n == s.get R.MEM_TEST_POS_SLICE then s else { s with memSt := { s.memSt with abandons := 0 } }
        let s := s.put R.MEM_TEST_POS_SLICE n
        let (bad, s) := s.sliceCopy n
        if bad then s.testAdvance n
        else
          let s := (s.putB R.MEM_TEST_STAT_BUSY true)
          let s := { s with memSt := { s.memSt with borrowed := some n } }
          if hold then s else s.sliceMarch n mismatch

/-! ### Retained memories (R444 to R448) -/

/-- The Backwater and the secure store give access (R444, R445). -/
def State.bwOpen (s : State) : Bool := s.isOn R.MEM_BW_STAT_READY && !s.isOn R.MEM_BW_STAT_RETAINED

/-- A refused access to a retained memory (R444). -/
def State.bwRefuse (s : State) (m a : Nat) : State :=
  let s := s.putB R.MEM_BW_STAT_EARLY true
  if s.memSt.retSeen then s
  else { (s.raise 0x0C06 0xFF a (some m)) with memSt := { s.memSt with retSeen := true } }

/-- An access to the secure store while it is wiped (R447). -/
def State.wipeHit (s : State) (m a : Nat) : State :=
  if s.memSt.wipeSeen then s
  else { (s.raise 0x0C07 0xFF a (some m)) with memSt := { s.memSt with wipeSeen := true } }

/-- The secure store refuses every access, with no wipe running: a wipe has failed (R448), or the lifecycle state is RETURNED
or SCRAPPED (R512). -/
def State.secureShut (s : State) : Bool := s.isOn R.MEM_SS_STAT_FAIL || decide (3 ≤ s.get R.LCS_STAT_LC)

/-- A wipe of the secure store starts (R447): every word is written with the all-zero codeword. A wipe in progress
goes on. -/
def State.startWipe (s : State) (cause : Nat) : State :=
  if s.isOn R.MEM_SS_STAT_WIPING then s
  else
    let s := s.putB R.MEM_SS_STAT_WIPING true
    { s with mem := wmReplace 0x620000 0x624000 s.mem []
             memSt := { s.memSt with
               flips := s.memSt.flips.filter (fun e => e.1 < 0x620000 || 0x624000 ≤ e.1)
               writeBack := s.memSt.writeBack.filter (fun a => a < 0x620000 || 0x624000 ≤ a)
               wipeSeen := false, wipeAgain := false, wipeCause := cause } }

/-- The verification of a wipe ends (R448); answers whether the wipe has completed well. -/
def State.wipeVerified (s : State) (ok : Bool) : Bool × State :=
  if !s.isOn R.MEM_SS_STAT_WIPING then (false, s)
  else if ok then
    let s := ((s.putB R.MEM_SS_STAT_WIPING false).putB R.MEM_SS_STAT_WIPED true).put R.MEM_SS_STAT_CAUSE s.memSt.wipeCause
    (true, s.addWrap R.MEM_SS_STAT_COUNT 1)
  else if s.memSt.wipeAgain then
    (false, ((s.putB R.MEM_SS_STAT_WIPING false).putB R.MEM_SS_STAT_FAIL true).raise 0x0C08 0xFF)
  else (false, { s with memSt := { s.memSt with wipeAgain := true } })

/-- MEM_BW_CTRL.RETAIN and RESUME (R444). -/
def State.bwCtrl (s : State) (retain resume : Bool) : State :=
  let s := if retain && !s.isOn R.MEM_BW_STAT_RETAINED then
      { (s.putB R.MEM_BW_STAT_RETAINED true) with memSt := { s.memSt with retSeen := false } } else s
  if resume && s.pwr.rails.getD 2 false then s.putB R.MEM_BW_STAT_RETAINED false else s

/-! ### Words of memory as a master sees them -/

/-- Whether `a` is a word of one of the memories held in `State.mem`. -/
def Region.isMemory : Region → Bool
  | .pool _ | .capture | .backwater | .secure | .codeStore => true
  | _ => false

/-- Why an access to the retained memories is refused, if it is: the state after the refusal (R444, R447, R448). -/
def State.retainedRefusal (s : State) (m a : Nat) : Region → Option State
  | .backwater => if s.bwOpen then none else some (s.bwRefuse m a)
  | .secure =>
    if !s.bwOpen then some (s.bwRefuse m a)
    else if s.isOn R.MEM_SS_STAT_WIPING then some (s.wipeHit m a)
    else if s.secureShut then some s
    else none
  | _ => none

/-- A read of a memory word by master `m`, past the access tables. -/
def State.memReadAs (s : State) (m a : Nat) : Word × State :=
  let r := regionOf a
  match s.retainedRefusal m a r with
  | some s => (0, s)
  | none =>
    match r with
    | .pool _ => (s.touchSlice a).eccRead m a
    | .backwater => s.eccRead m a
    | .secure => s.eccRead m a
    | .capture => s.captureRead m a
    | .codeStore => (s.memGet a, s)
    | _ => (0, s)

/-- `a` lies in the frozen staged image (R551). -/
def State.frozenAt (s : State) (a : Nat) : Bool :=
  match s.start.frozen with
  | some (b, n) => decide (b ≤ a) && decide (a < b + n)
  | none => false

/-- A write by master `m` to the frozen image is dropped: fault 0x1106, once a tick (R551). -/
def State.frozenHit (s : State) (m a : Nat) : State :=
  if s.start.frozenSeen then s
  else { (s.raise 0x1106 0xFF a (some m)) with start := { s.start with frozenSeen := true } }

/-- A write of a memory word by master `m`, past the access tables. The Code Store, the Channel Table and the Job Table
carry no check (R427). -/
def State.memWriteAs (s : State) (m a : Nat) (w : Word) : State :=
  let r := regionOf a
  match s.retainedRefusal m a r with
  | some s => s
  | none =>
    if s.frozenAt a then s.frozenHit m a
    else if r.isMemory then (s.touchSlice a).memPut a w
    else s

/-- A write of the word at `a` by master `m` reaches the memory: the access tables and the freeze let it pass. -/
def State.takesWrite (s : State) (m a : Nat) : Bool :=
  match (regionOf a).target with
  | some t => s.allowed m t .write && !s.frozenAt a
  | none => false

/-- A write by an internal master through the access tables to a memory (R458). -/
def State.memWriteChecked (s : State) (m a : Nat) (w : Word) : State :=
  match (regionOf a).target with
  | none => s.reservedHit m a
  | some t => if s.allowed m t .write then s.memWriteAs m a w else s.violation m a t .write

/-- A read by an internal master through the access tables of a memory (R458). -/
def State.memReadChecked (s : State) (m a : Nat) : Word × State :=
  match (regionOf a).target with
  | none => (0, s.reservedHit m a)
  | some t => if s.allowed m t .read then s.memReadAs m a else (0, s.violation m a t .read)

/-- A word that arrives with bad parity is stored with a poisoned codeword (R560). -/
def State.poisonWord (s : State) (a : Nat) : State :=
  { s with memSt := { s.memSt with flips := flipPut a { data := 0, check := 0, poison := true } s.memSt.flips } }

/-- Fault 0x030A of a poisoned word, once a tick (R560). -/
def State.parityFault (s : State) (unit a : Nat) : State :=
  if s.perrSeen then s else { (s.raise 0x030A unit a) with perrSeen := true }

/-- Two writes of one word of a mailbox bank in one clock, from both ports (R433). `m` and `w` are this access, `m2` and
`w2` the other port's. Port B serves the host port, the flash port, Confluence and the scrubber (R432). -/
def State.collide (s : State) (a m : Nat) (w : Word) (m2 : Nat) (w2 : Word) : State :=
  let isB (k : Nat) : Bool := k == 10 || k == 11 || k == 12 || k == 13
  if w = w2 ∨ isB m = isB m2 then s.memWriteAs m a w
  else
    let (ma, wa, mb) := if isB m then (m2, w2, m) else (m, w, m2)
    let s := s.memWriteAs ma a wa
    let s := s.setRg 0x70D00C (BitVec.ofNat 16 a)
    let s := s.setRg 0x70D00D (BitVec.ofNat 16 (0x8000 + a / 65536 % 256))
    let n := min ((s.rg 0x70D00E).toNat % 256 + 1) 255
    let s := s.setRg 0x70D00E (BitVec.ofNat 16 (ma % 16 * 0x1000 + mb % 16 * 0x100 + n))
    s.raise 0x0C03 0xFF a (some mb)

/-! ### Events -/

/-- The scrubber skips the retained memories while they give no access, and steps through Pool, Backwater and secure
store (R436). Before its first word MEM_SCRUB_POS reads its reset value 0. -/
def State.scrubPos (s : State) : Nat :=
  let p := (s.rg 0x70D008).toNat + 65536 * (s.rg 0x70D009).toNat
  if p < 0x100000 then 0x100000 else p

/-- The word after `p` in the scrub order, and whether a pass ends. -/
def scrubNext (p : Nat) : Nat × Bool :=
  if p = 0x2FFFFF then (0x600000, false)
  else if p = 0x623FFF then (0x100000, true)
  else (p + 1, false)

/-- The scrubber reads its next word (R436). -/
def State.scrubWord (s : State) : State :=
  if !s.isOn R.MEM_ECC_CFG_SCRUB_EN || !s.live then s
  else
    let p := s.scrubPos
    let inSlice := match s.memSt.borrowed with | some n => p < 0x300000 && sliceOf p == n | none => false
    if inSlice then s
    else
      let setPos (p : Nat) (s : State) : State :=
        (s.setRg 0x70D008 (BitVec.ofNat 16 p)).setRg 0x70D009 (BitVec.ofNat 16 (p / 65536))
      -- a closed retained memory is skipped whole
      let p' := if 0x600000 ≤ p ∧ p < 0x620000 ∧ !s.bwOpen then 0x620000 else p
      let closedSecure := !s.bwOpen || s.isOn R.MEM_SS_STAT_WIPING || s.isOn R.MEM_SS_STAT_FAIL
      if 0x620000 ≤ p' ∧ closedSecure then
        let s := s.addWrap R.MEM_SCRUB_PASS_PASSES 1
        let s := (s.eccRead 13 0x100000).2
        setPos 0x100001 s
      else
        let s := (s.eccRead 13 p').2
        let (q, e) := scrubNext p'
        let s := if e then s.addWrap R.MEM_SCRUB_PASS_PASSES 1 else s
        setPos q s

/-- SCRUB (R436): the read that is due 2^SCRUB_RATE system clocks after the last. -/
def State.scrub (s : State) : State :=
  s.dueClock (s.memSt.scrubAt + 2 ^ s.get R.MEM_ECC_CFG_SCRUB_RATE) (fun s =>
    { s.scrubWord with memSt := { s.scrubWord.memSt with scrubAt := s.clk.total } })

/-- ECC_WRITEBACK (R434): the oldest corrected word is written back. -/
def State.eccWriteBack (s : State) : State :=
  match s.memSt.writeBack with
  | [] => s
  | a :: t =>
    { s with memSt := { s.memSt with writeBack := t, flips := s.memSt.flips.filter (fun e => e.1 != a) } }

/-- BW_READY (R445): READY rises no earlier than the end of reset, with VDD_RET in its run range. -/
def State.bwReady (s : State) : State :=
  if s.pwr.rails.getD 2 false && (s.pwr.stage == .boot || s.pwr.stage == .running) then
    { (s.putB R.MEM_BW_STAT_READY true) with memSt := { s.memSt with retSeen := false } } else s

/-- The memory system at a tick edge: the interval of the background test (R440) and what is recorded once a tick. -/
def State.memTick (s : State) : State :=
  let m := { s.memSt with violSeen := [], ceSeen := false, codeLog := [] }
  let s := { s with memSt := m }
  if s.isOn R.MEM_TEST_CFG_EN then
    let k := s.memSt.testTicks + 1
    if s.get R.MEM_TEST_CFG_INTERVAL ≤ k then { s with memSt := { s.memSt with testDue := true, testTicks := 0 } }
    else { s with memSt := { s.memSt with testTicks := k } }
  else { s with memSt := { s.memSt with testTicks := 0, testDue := false } }

/-- The effect of a write of `v` to a MEM register, beyond storing it. -/
def memOnWrite (gwa v : Nat) (s : State) : State :=
  if gwa = 0x70D030 then s.bwCtrl (bitOf v 15) (bitOf v 14)
  else if gwa = 0x70D033 then (if bitOf v 15 then s.startWipe 3 else s)
  else s

end Sys2Proof.Machine
end

