-- ==== Sys2Proof/Machine/Conditioning.lean ====
section
/-!
DEFINITION. Sample conditioning and interference (spec/04_sample_conditioning.md, R105 to R125).
-/

namespace Sys2Proof.Machine

/-- Notch `k` is MANUAL, by the shadow of its MODE bit. -/
def State.notchManual (s : State) (k : Nat) : Bool := bitOf (s.get (R.DFE_NOTCH_CTL_MODE (k / 8))) (k % 8)

/-- Notch `k` is MANUAL, by the active MODE bit. -/
def State.notchManualAct (s : State) (k : Nat) : Bool := bitOf (s.act (R.DFE_NOTCH_CTL_MODE (k / 8))) (k % 8)

/-- AUTO notch `k` holds a tone. -/
def State.notchAssigned (s : State) (k : Nat) : Bool := bitOf (s.get (R.DFE_NOTCH_STAT_ASSIGNED (k / 8))) (k % 8)

/-- The frequency notch `k` acts at, if it is enabled and placed; `t` is that of an AUTO notch (R111). -/
def State.notchWith (s : State) (k : Nat) (t : Int) : Option Int :=
  if !bitOf (s.act (R.DFE_NOTCH_CTL_EN (k / 8))) (k % 8) then none
  else if s.notchManualAct k then some (s.actS (R.DFE_NOTCH_FREQ_FREQ k))
  else if s.notchAssigned k then some t
  else none

/-- The frequency notch `k` acts at now. -/
def State.notchPlace (s : State) (k : Nat) : Option Int := s.notchWith k (s.dfe.track.getD k 0)

/-- The frequency notch `k` acts at on sample `n` of the tick in progress (R113). -/
def State.notchPlaceAt (s : State) (k n : Nat) : Option Int :=
  s.notchWith k (match s.dfe.trackLog.find? (fun e => e.1 == k && n < e.2.1) with
    | some e => e.2.2
    | none => s.dfe.track.getD k 0)

/-- Band `b`'s notches are linked (R114). -/
def State.notchLink (s : State) (b : Nat) : Bool := bitOf (s.act R.DFE_NOTCH_CFG_LINK) b

/-- The path whose notch set path `i` runs (R114). -/
def State.notchPath (s : State) (i : Nat) : Nat := if s.notchLink (i % 3) then i % 3 else i

/-- BW of band `b`'s notches. -/
def State.notchBw (s : State) (b : Nat) : Nat := s.act R.DFE_NOTCH_CFG_BW / 4 ^ b % 4

/-- Half the −3 dB width of band `b`'s notches, in 1,250 Hz: widths of 10, 40, 160 and 640 kHz (R111). -/
def State.notchHalf (s : State) (b : Nat) : Nat := 4 * 4 ^ s.notchBw b

/-! ### The stages over a tick (R105) -/

/-- What path `i` gives over the samples it has taken in the tick in progress, of `n`: toward the fabric (and the spectrum
monitor), toward the decimator, what it measured, and what it carries into the next tick. -/
structure PathOut where
  fab : List Lined := []
  notched : List Cplx := []
  blanked : Nat := 0
  /-- Σ |x|² of the notched samples that were not blanked, and their number (R121). -/
  level : Nat × Nat := (0, 0)
  tail : List Blank := List.replicate 4 {}
  hold : Nat := 0
  notch : List Biquad := List.replicate 8 {}
  line : List Lined := List.replicate 20 {}

/-- `l` with zero samples before it, up to `n`. -/
def fillLine (n : Nat) (l : List Lined) : List Lined := List.replicate (n - l.length) ({} : Lined) ++ l

/-- Path `i` delivers samples in the tick in progress. -/
def State.delivering (s : State) (i : Nat) : Bool := s.fe.deliver.getD i false || (s.fe.cut.getD i none).isSome

/-- The stages of R105 over the tick in progress, of `n` samples: mixed samples are blanked, notched, clamped at ±127 and
requantised. A path that delivers zeros passes zeros through every stage (R106). -/
def State.pathRun (s : State) (i n : Nat) : PathOut :=
  if !s.delivering i then {}
  else
    let d := s.dfe
    let r := blankIn ((d.taken.getD i []).zipIdx.map (fun e => (e.1.x, s.blankAt i e.2))) (d.hold.getD i 0)
    let all := d.tail.getD i [] ++ r.1
    let out := blankOut all
    let place (k : Nat) : List (Option Int) := (List.range 8).map (fun m => s.notchPlaceAt (8 * s.notchPath i + m) (k - 4))
    let f := notchRun (s.notchBw (i % 3)) place 0 (out.map (·.1)) ((d.notch.drop (8 * i)).take 8)
    let ys := f.1.map (fun y => y.map (clampInt (-127) 127))
    let g := d.reqGain.getD i 32
    let lined : List Lined := (out.zip ys).map (fun e => { x := e.1.1, i := requantise g e.2.re, q := requantise g e.2.im })
    let stream := d.line.getD i [] ++ lined
    { fab := stream.take n, notched := ys, blanked := (out.filter (·.2)).length
      level := unblanked (ys.zip (out.map (·.2)))
      tail := lastOf 4 all, hold := r.2, notch := f.2, line := fillLine 20 (stream.drop n) }

/-- What the six paths give over the tick in progress. -/
def State.pathOuts (s : State) : List PathOut := (List.range 6).map (fun i => s.pathRun i s.samplesInTick)

/-- The 5-bit samples that path `i` has given the fabric in the tick in progress so far. -/
def State.fabric (s : State) (i : Nat) : List (Int × Int) :=
  (s.pathRun i s.samplesInTick).fab.map (fun e => (e.i, e.q))

/-- The decimating branch over the tick that ends (R122, R123): the words it gives, and its filter's inputs. -/
def State.decTick (s : State) (outs : List PathOut) : List Word × List Cplx :=
  let d := s.act R.DFE_DEC_CFG_D
  if s.act R.DFE_DEC_CFG_EN = 0 ∨ d = 0 ∨ !s.delivering (s.act R.DFE_DEC_CFG_SRC) then ([], [])
  else decRun d (s.act R.DFE_DEC_MIX_DEC_MIX) s.dfe.decPhase (s.dfe.decCount % d) s.dfe.decHist
    ((outs.getD (s.act R.DFE_DEC_CFG_SRC) {}).notched.drop s.dfe.phaseFrom)

/-- The frequency of bin `k` (R112, R115). -/
def binFreq (k : Nat) : Int := ((k : Int) - 512) * 64

/-- Bin `k` of path `i` lies within the width of an enabled, placed notch of the set the path runs. -/
def State.binCovered (s : State) (i k : Nat) : Bool :=
  let p := s.notchPath i
  (List.range 8).any (fun n =>
    match s.notchPlace (8 * p + n) with
    | none => false
    | some f => (binFreq k - f).natAbs ≤ s.notchHalf (i % 3))

/-- Insertion in rising order. -/
def insertNat (x : Nat) : List Nat → List Nat
  | [] => [x]
  | h :: t => if x ≤ h then x :: h :: t else h :: insertNat x t

/-- A spectrum's median; with an even number of bins, a value of the configuration from the two middle ones. -/
def medianWord (l : List Nat) : Nat :=
  let r := l.foldl (fun acc x => insertNat x acc) []
  let n := r.length
  if n % 2 = 1 then r.getD (n / 2) 0 else Config.medianOf (r.getD (n / 2 - 1) 0) (r.getD (n / 2) 0)

/-- The first of the strongest bins, with its power. -/
def peakBin (l : List Nat) : Nat × Nat :=
  (l.zipIdx).foldl (fun (r : Nat × Nat) e => if r.2 < e.1 then (e.2, e.1) else r) (0, l.headD 0)

/-- Bins of `l` at least `th` above `med`, strongest first. -/
def strongBins (l : List Nat) (med th : Nat) : List (Nat × Nat) :=
  ((l.zipIdx).filter (fun e => med + th ≤ e.1)).foldl
    (fun acc e =>
      let (hi, lo) := acc.span (fun x => e.1 ≤ x.2)
      hi ++ [(e.2, e.1)] ++ lo) []

/-- Assignment and release of the AUTO notches of set `p`, from the powers `l` (R112): what takes effect at the next
tick edge. -/
def State.notchAssign (s : State) (p : Nat) (l : List Nat) : State :=
  let med := medianWord l
  let th := 256 * s.get R.DFE_JAM_CFG_CW_TH
  let free := (List.range 8).filter (fun n =>
    let k := 8 * p + n
    bitOf (s.act (R.DFE_NOTCH_CTL_EN p)) n && !s.notchManualAct k && !s.notchAssigned k)
  let half := s.notchHalf (p % 3)
  let placed := (List.range 8).filterMap (fun n => s.notchPlace (8 * p + n))
  -- the strong bins outside every placed notch, strongest first, take the free notches in turn
  let bins := ((strongBins l med th).map (fun e => binFreq e.1)).filter (fun f => placed.all (fun g => half < (f - g).natAbs))
  let go := (free.zip bins).map (fun e => (8 * p + e.1, e.2))
  let s := { s with dfe := { s.dfe with assign := s.dfe.assign ++ go } }
  (List.range 8).foldl (fun s n =>
    let k := 8 * p + n
    if !s.notchAssigned k || s.notchManualAct k then s
    else
      let bin := ((s.dfe.track.getD k 0 + 32) / 64 + 512).toNat % 1024
      let low := l.getD bin 0 + 768 < med + th
      let q := if low then s.dfe.quiet.getD k 0 + 1 else 0
      let s := { s with dfe := { s.dfe with quiet := listPut s.dfe.quiet k q 0 } }
      if s.get R.DFE_SPEC_CFG_RELEASE ≤ q then { s with dfe := { s.dfe with release := s.dfe.release ++ [k] } } else s) s

/-- What one path's spectrum shows (R106, R118, DFE_SPEC_STAT). -/
def State.specStat (s : State) (i : Nat) (l : List Nat) : State :=
  let v := s.dfe.specValid.getD i false
  let s := s.putB (R.DFE_SPEC_STAT_VALID i) v
  if !v then s
  else
    let med := medianWord l
    let (pk, pw) := peakBin l
    let th := 256 * s.get R.DFE_JAM_CFG_CW_TH
    let strong := (l.zipIdx).filter (fun e => med + th ≤ e.1)
    let s := s.put (R.DFE_SPEC_STAT_PEAK_BIN i) pk
    let s := s.put (R.DFE_SPEC_STAT_EXCESS i) (min (rdiv ((pw : Int) - med) 256).toNat 31)
    { s with dfe := { s.dfe with
        cw := listPut s.dfe.cw i (!strong.isEmpty)
        uncov := listPut s.dfe.uncov i (strong.any (fun e => !s.binCovered i e.2)) } }

/-- Writes one spectrum to the Pool as master 8, dropped where the access table denies it (R116, R117, R560). -/
def State.specWrite (s : State) (base : Nat) (ws : List Word) (bad : List Nat) : State :=
  (ws.zipIdx).foldl (fun s e =>
    let a := base + e.2
    let s := s.memWriteChecked 8 a e.1
    if bad.contains e.2 && s.takesWrite 8 a then (s.poisonWord a).parityFault 0xFF a else s) s

/-- SPECTRUM (R112, R115 to R117): the six spectra of the tick that ended are written, and the notches assigned. In a linked
band one aerial's spectrum serves alone while the other delivers zeros (log entry 112). -/
def State.spectrum (s : State) (bad : List (Nat × Nat)) : State :=
  if !s.dfe.specReady then s
  else
    let spectra := s.dfe.spectra
    let pw := spectra.map (fun l => l.map BitVec.toNat)
    let base := s.get R.DFE_SPEC_BASE_BASE * 0x1000 + s.dfe.specBuf * 0x1800
    let s := (List.range 6).foldl (fun s i =>
      s.specWrite (base + i * 0x400) ((spectra.getD i []).take 1024) ((bad.filter (fun e => e.1 == i)).map (·.2))) s
    let s := (s.put R.DFE_SPEC_SEQ_BUF s.dfe.specBuf).addWrap R.DFE_SPEC_SEQ_SEQ 1
    let s := (List.range 6).foldl (fun s p =>
      let b := p % 3
      if s.notchLink b then
        if p < 3 then
          if s.dfe.specValid.getD b false || s.dfe.specValid.getD (b + 3) false then
            let la := if s.dfe.specValid.getD b false then pw.getD b [] else []
            let lb := if s.dfe.specValid.getD (b + 3) false then pw.getD (b + 3) [] else []
            s.notchAssign p ((List.range 1024).map (fun k => max (la.getD k 0) (lb.getD k 0)))
          else s
        else s
      else if s.dfe.specValid.getD p false then s.notchAssign p (pw.getD p []) else s) s
    { s with dfe := { s.dfe with specReady := false, specBuf := 1 - s.dfe.specBuf } }

/-- NOTCH_TRACK (R106, R113): an assigned AUTO notch of a set in use moves one unit; a linked set while one of its paths
delivers samples (log entry 112). -/
def State.notchTrack (s : State) (k : Nat) (up : Bool) : State :=
  let p := k / 8
  let used := !(3 ≤ p && s.notchLink (p % 3))
  let samples := s.fe.deliver.getD p false || (p < 3 && s.notchLink p && s.fe.deliver.getD (p + 3) false)
  if s.notchAssigned k && !s.notchManualAct k && used && samples then
    let f := s.dfe.track.getD k 0 + (if up then 1 else -1)
    { s with dfe := { s.dfe with track := listPut s.dfe.track k f 0
                                 trackLog := s.dfe.trackLog ++ [(k, s.samplesNow, s.dfe.track.getD k 0)] } }
  else s

/-! ### The tick edge -/

/-- One jamming flag with its fault on a rise after 100 ticks at 0 (R118, R119). -/
def State.jamFlag (s : State) (i which : Nat) (f : Fld) (now : Bool) (code arg : Nat) : State :=
  let was := s.isOn f
  let z := s.dfe.zeroTicks.getD (3 * i + which) 0
  let s := s.putB f now
  let s := if now && !was && 100 ≤ z then s.raise code i arg else s
  { s with dfe := { s.dfe with zeroTicks := listPut s.dfe.zeroTicks (3 * i + which) (if now then 0 else z + 1) } }

/-- A tick that is not measured: the flags stand, and those at 0 have been 0 for one tick more (R106, R119). -/
def State.jamIdle (s : State) (i : Nat) : State :=
  let add (which : Nat) (f : Fld) (s : State) : State :=
    let k := 3 * i + which
    let z := if s.isOn f then 0 else s.dfe.zeroTicks.getD k 0 + 1
    { s with dfe := { s.dfe with zeroTicks := listPut s.dfe.zeroTicks k z 0 } }
  add 2 (R.DFE_JAM_PULSE i) (add 1 (R.DFE_JAM_BROAD i) (add 0 (R.DFE_JAM_UNCOV i) s))

/-- DFE_JAM_i at a tick edge, from the tick just ended (R106, R118): of `samples` band samples, `blanked` were blanked and
`clipped` clipped. -/
def State.jamTick (s : State) (i samples blanked clipped : Nat) : State :=
  let v := s.fe.lastWhole.getD i false
  let s := s.putB (R.DFE_JAM_VALID i) v
  let s := s.put (R.DFE_BLANK_CNT_COUNT i) (blanked / 32)
  if !v then s.jamIdle i
  else
    let drop := s.get (R.DFE_JAM_REF_REF_GAIN i) - s.get (R.FE_AGC_GAIN_TICK_GAIN i)
    let cw := s.dfe.cw.getD i false
    let uncov := s.dfe.uncov.getD i false
    let broad := s.get R.DFE_JAM_CFG_BB_TH ≤ drop && !cw
    let pulse := s.get R.DFE_JAM_CFG_PULSE_TH * samples < 64 * blanked
    let clip := 1024 < clipped
    let s := (s.put (R.DFE_JAM_AGC_DROP i) drop).putB (R.DFE_JAM_CW i) cw
    let s := s.putB (R.DFE_JAM_CLIP i) clip
    let s := s.jamFlag i 0 (R.DFE_JAM_UNCOV i) uncov 0x0201 (s.get (R.DFE_SPEC_STAT_PEAK_BIN i))
    let s := s.jamFlag i 1 (R.DFE_JAM_BROAD i) broad 0x0202 0
    let s := s.jamFlag i 2 (R.DFE_JAM_PULSE i) pulse 0x0203 0
    s.put (R.DFE_JAM_LEVEL i) (min 3 (b2n uncov + b2n broad + b2n pulse + b2n clip))

/-- The requantiser gain of the next tick (R121): toward TARGET, by at most a factor of 2, within 1 to 255. `level` is
Σ |x|² of the samples that were not blanked, and their number: with RMS x on I and Q, the output reaches TARGET ÷ 8 LSB at
GAIN 4 × TARGET ÷ x. Without a sample the gain stays (log entry 113). -/
def reqStep (gain target : Nat) (level : Nat × Nat) : Nat :=
  let want := if level.2 = 0 then gain else if level.1 = 0 then 2 * gain
    else rootFree (32 * target ^ 2 * level.2) level.1
  min 255 (max 1 (min (2 * gain) (max ((gain + 1) / 2) want)))

/-- The requantiser at a tick edge, after activation (R106, R121). -/
def State.reqTick (s : State) (i : Nat) (level : Nat × Nat) : State :=
  let g := s.dfe.reqGain.getD i 32
  let g' :=
    if s.act (R.DFE_REQ_MODE i) == 1 then s.act (R.DFE_REQ_GAIN i)
    else if s.fe.lastWhole.getD i false then reqStep g (s.act (R.DFE_REQ_TARGET i)) level
    else g
  { s with dfe := { s.dfe with reqGain := listPut s.dfe.reqGain i g' } }

/-- Sets ASSIGNED of notch `k`. -/
def State.putAssigned (s : State) (k : Nat) (b : Bool) : State :=
  let f := R.DFE_NOTCH_STAT_ASSIGNED (k / 8)
  let w := s.get f
  let bit := 2 ^ (k % 8)
  s.put f (if b then w ||| bit else w - (if bitOf w (k % 8) then bit else 0))

/-- Assignments and releases of notches take effect (R112); a MANUAL notch holds no tone. -/
def State.notchEdge (s : State) : State :=
  let s := s.dfe.release.foldl (fun s k => s.putAssigned k false) s
  let s := s.dfe.assign.foldl (fun s e =>
    let s := s.putAssigned e.1 true
    { s with dfe := { s.dfe with track := listPut s.dfe.track e.1 e.2 0, quiet := listPut s.dfe.quiet e.1 0 0 } }) s
  let s := { s with dfe := { s.dfe with assign := [], release := [] } }
  (List.range 48).foldl (fun s k => if s.notchManualAct k && s.notchAssigned k then s.putAssigned k false else s) s

/-- CAP at a tick edge: REF_GAIN takes TICK_GAIN. -/
def State.capTick (s : State) (i : Nat) : State :=
  if s.dfe.cap.getD i false then
    { (s.put (R.DFE_JAM_REF_REF_GAIN i) (s.get (R.FE_AGC_GAIN_TICK_GAIN i))) with
      dfe := { s.dfe with cap := listPut s.dfe.cap i false false } }
  else s

/-- The mixers and the decimator run through the tick that ends, of `samples` band samples, at the values active in it (R107,
R122), from a release in it on (R108, R123). With the branch off, or after a change of D, the decimator's count goes on,
modulo the D in force (log entry 114). -/
def State.mixRun (s : State) (samples : Nat) : State :=
  let samples := samples - s.dfe.phaseFrom
  let adv (p : Nat) (ofs : Nat) : Nat := (p + ofs * samples) % 65536
  let d := s.act R.DFE_DEC_CFG_D
  { s with dfe := { s.dfe with
      mixPhase := (List.range 3).map (fun b => adv (s.dfe.mixPhase.getD b 0) (s.act (R.DFE_MIX_MIX_OFS b)))
      decPhase := adv s.dfe.decPhase (s.act R.DFE_DEC_MIX_DEC_MIX)
      decCount := if d = 0 then 0 else (s.dfe.decCount + samples) % d
      phaseFrom := 0 } }

/-- The spectra of the tick that ends, and what they show (R115, R118). -/
def State.specTick (s : State) (outs : List PathOut) : State :=
  if !s.dfe.specRun then s
  else
    let n := 2 ^ s.get R.DFE_SPEC_CFG_AVG
    let l := outs.map (fun o => spectrumOf n (o.fab.map (·.x)))
    let s := { s with dfe := { s.dfe with
        specRun := false, specReady := true, specValid := s.fe.lastWhole, spectra := l } }
    forUp 6 (fun i s => s.specStat i ((l.getD i []).map BitVec.toNat)) s

/-- What the paths carry into the next tick. -/
def State.dfeCarry (s : State) (outs : List PathOut) (hist : List Cplx) : State :=
  { s with dfe := { s.dfe with
      taken := [[], [], [], [], [], []], tail := outs.map (·.tail), hold := outs.map (·.hold)
      notch := (outs.map (·.notch)).flatten, line := outs.map (·.line), decHist := hist, blankLog := [], trackLog := [] } }

/-- Sample conditioning at a tick edge, on the tick that ends, of `samples` band samples, in which the paths gave `outs`; `hist`
are then the inputs of the decimator's filter. Spectra not yet written are written by its end (R116). -/
def State.dfeTickEnd (s : State) (samples : Nat) (outs : List PathOut) (hist : List Cplx) : State :=
  let s := if s.dfe.specReady then s.spectrum [] else s
  let s := s.specTick outs
  let s := forUp 6 (fun i s =>
    s.jamTick i samples (outs.getD i {}).blanked
      ((s.dfe.taken.getD i []).filter (fun e => clippedSample e.i e.q)).length) s
  let s := forUp 6 (fun i s => s.capTick i) s
  (s.dfeCarry outs hist).mixRun samples

/-- Sample conditioning at a tick edge, after activation; the tick that begins has count `s.clk.tickCount`. -/
def State.dfeTickStart (s : State) (outs : List PathOut) : State :=
  let s := forUp 6 (fun i s => s.reqTick i (outs.getD i {}).level) s
  let s := s.notchEdge
  let per := s.get R.DFE_SPEC_CFG_PERIOD
  if s.isOn R.DFE_SPEC_CFG_EN && per != 0 && s.clk.tickCount % per == 0 then
    { s with dfe := { s.dfe with specRun := true } } else s

/-- The synchronous release that follows a lock clears the mixers' phase and sets the decimator's, from the next band sample on
(R108, R123). -/
def State.dfeRelease (s : State) : State :=
  { s with dfe := { s.dfe with mixPhase := [0, 0, 0], decPhase := 0, decCount := 0, phaseFrom := s.samplesNow } }

/-- What a read of an AUTO notch's FREQ, or of an AUTO path's requantiser GAIN, gives (R30). -/
def State.dfeReadView (s : State) (a : Nat) (w : Word) : Word :=
  if 0x704050 ≤ a ∧ a < 0x704080 then
    let k := a - 0x704050
    if s.notchManual k then w else BitVec.ofInt 16 (s.dfe.track.getD k 0)
  else if 0x704028 ≤ a ∧ a < 0x70402E then
    let i := a - 0x704028
    if s.isOn (R.DFE_REQ_MODE i) then w else putBits w 7 0 (s.dfe.reqGain.getD i 32)
  else w

/-- What a write of `v` stores: FREQ of an AUTO notch and GAIN in AUTO ignore writes. -/
def State.dfeStoreView (s : State) (a : Nat) (old v : Nat) : Nat :=
  if 0x704050 ≤ a ∧ a < 0x704080 then (if s.notchManual (a - 0x704050) then v else old)
  else if 0x704028 ≤ a ∧ a < 0x70402E then (if bitOf v 15 then v else v / 256 * 256 + old % 256)
  else v

/-- The effect of a write of `v` to a DFE register, beyond storing it; `old` is the word before. -/
def dfeOnWrite (gwa v old : Nat) (s : State) : State :=
  if 0x704040 ≤ gwa ∧ gwa < 0x704046 ∧ bitOf v 15 then
    { s with dfe := { s.dfe with cap := listPut s.dfe.cap (gwa - 0x704040) true false } }
  else if 0x704008 ≤ gwa ∧ gwa < 0x70400E then
    { s with dfe := { s.dfe with blankLog := s.dfe.blankLog ++ [(gwa - 0x704008, s.samplesNow, old)] } }
  else s

end Sys2Proof.Machine
end

