-- ==== Sys2Proof/Machine/Store.lean ====
section
/-!
DEFINITION. What a write stores in a register (spec/00_scope.md R11 to R17), the same for every block.
-/

namespace Sys2Proof.Machine

/-- The word a register holds after a write of `v` over `old`: RW fields take `v`, W1C fields clear where `v` has a 1,
every other bit is kept (R11, R12, R16). -/
def RegGroup.stored (g : RegGroup) (old v : Nat) : Nat :=
  let rw := g.maskOf (fun f => f.ty == .rw)
  let w1c := g.maskOf (fun f => f.ty == .w1c)
  ((old &&& (65535 - rw)) &&& (65535 - (w1c &&& v))) ||| (v &&& rw)

/-- Every written field of `g` holds an accepted value in `v` (R17). -/
def RegGroup.accepts (g : RegGroup) (v : Nat) : Bool :=
  g.fields.all (fun f => !(f.ty == .rw || f.ty == .wo) || f.accepts v)

/-- A write of `v` over `old` is barred while the owner of `g` runs (R13): every field it writes is S-class, or, where `g`
holds other fields too, it would change one that is (log entry 16). -/
def RegGroup.changesStopped (g : RegGroup) (old v : Nat) : Bool :=
  let m := g.maskOf (fun f => f.ty == .rw && f.cls == .stopped)
  (old &&& m) != (v &&& m) || (m != 0 && g.fields.all (fun f => !(f.ty == .rw || f.ty == .wo) || f.cls == .stopped))

/-- `g` has a T-class field. -/
def RegGroup.hasTick (g : RegGroup) : Bool := g.fields.any (fun f => f.cls == .tick)

/-- `g` has a written field. -/
def RegGroup.writable (g : RegGroup) : Bool := g.fields.any (fun f => f.ty == .rw || f.ty == .wo || f.ty == .w1c)

/-- Stores a write of `v` in the register at `a`. -/
def State.store (s : State) (a v : Nat) : State :=
  match regAt a with
  | none => s
  | some (g, _) => s.setRg a (BitVec.ofNat 16 (g.stored (s.rg a).toNat v))

end Sys2Proof.Machine
end

