-- ==== Sys2Proof/Machine/TimeBase.lean ====
section
/-!
DEFINITION. The time base: discipline, coast, holdover bound, trust, offsets, scales and leap seconds
(spec/08_time_base_and_time_pulse.md, R227 to R253; spec/18_start_sleep_update.md R545).
-/

namespace Sys2Proof.Machine

/-- TB_STAT.TRUST: 0 FREERUN, 1 ACQUIRING, 2 DISCIPLINED, 3 HOLDOVER, 4 HOLDOVER_EXPIRED. -/
def State.trust (s : State) : Nat := s.get R.TB_STAT_TRUST

/-- The time base coasts. -/
def State.coasting (s : State) : Bool := s.isOn R.TB_STAT_COAST

/-- Ticks in a day. -/
def dayTicks : Nat := 86400000

/-- Units of B in 2⁻¹⁶ ns. -/
def boundPerSub : Nat := 84375000000

/-- Units of B in one nanosecond. -/
def boundPerNs : Nat := boundPerSub * 65536

/-- Units of a slew remainder in 2⁻¹⁶ ns. -/
def slewPerSub : Nat := 4000 * 491520

/-- The offset that TB_OFFSET shows, in 2⁻¹⁶ ns: pending step, remaining slew or held offset. -/
def State.tbOffset (s : State) : Int :=
  if s.isOn R.TB_STAT_SLEW then rdiv s.tb.slew slewPerSub
  else if s.isOn R.TB_STAT_STEP_PEND || s.isOn R.TB_STAT_HOLD_WAIT then s.tb.offset
  else 0

/-- B is valid (R241). -/
def State.boundValid (s : State) : Bool := 2 ≤ s.trust && s.trust ≤ 4 && !s.tb.taint && !(s.coasting && s.tb.rawCoast)

/-- B in nanoseconds. -/
def State.boundNs (s : State) : Nat := (rdiv s.tb.bound boundPerNs).toNat

/-- SLEW_LIMIT in 2⁻¹⁶ ns. -/
def State.slewLimit (s : State) : Nat := s.get R.TB_SLEW_CFG_SLEW_LIMIT * 4 * 65536

/-- Writes an `n`-word number into registers from `a`. -/
def State.setNum (s : State) (a n : Nat) (v : Int) : State := s.setWords a n (unsignedOf (16 * n) v)

/-- TB_OFFSET, TB_HOLD_BOUND, to the nearest 0.25 ns (R241 and its example), and BOUND_V follow the state. -/
def State.tbShow (s : State) : State :=
  let s := s.setNum 0x707016 3 s.tbOffset
  let s := s.putB R.TB_STAT_BOUND_V s.boundValid
  s.setWords 0x707014 2 (if s.boundValid then min (2 ^ 32 - 1) (rnear (4 * s.tb.bound : Nat) boundPerNs).toNat else 2 ^ 32 - 1)

/-- Trust moves to `t` (R241, R243). Fault 0x0503 carries B in nanoseconds, a free value where B is not valid (log entry 55). -/
def State.setTrust (s : State) (t : Nat) : State :=
  if s.trust = t then s
  else
    let arg := if s.boundValid then min (2 ^ 32 - 1) s.boundNs else Config.freeValue s.free
    let s := if t = 4 ∧ !s.boundValid then { s with free := s.free + 1 } else s
    let s := s.put R.TB_STAT_TRUST t
    let s := if t = 2 then { s with tb := { s.tb with taint := false } }
      else if t = 1 then s else { s with tb := { s.tb with run := 0 } }
    if t = 4 then (s.putB R.TB_STAT_EXP_STICKY true).raise 0x0503 0xFF arg else s

/-! ### Coast (R233 to R239) -/

/-- TAB at the temperature code `c` (1/64), in 0.01 ppb ÷ 64 (R237). -/
def State.tempTab (s : State) (c : Nat) : Int :=
  let t (k : Nat) : Int := signedOf 16 (s.actRg (0x707040 + min k 63)).toNat
  64 * t (c / 64) + (t (c / 64 + 1) - t (c / 64)) * (c % 64)

/-- The coast rate in 2⁻⁷² (R237). -/
def State.coastRate (s : State) : Int :=
  let avg := rdiv (s.tb.avgSum * 2 ^ 32) s.tb.avgCount
  let drift : Int :=
    if s.act R.TB_CTRL_DRIFT_EN = 1 then
      rdiv (signedOf 16 (s.actRg 0x707019).toNat * s.tb.coastTicks * 2 ^ 72) (10 ^ 12 * dayTicks)
      + rdiv ((s.tempTab (s.get R.TB_TEMP_CODE) - s.tempTab s.tb.c0) * 2 ^ 72) (64 * 10 ^ 11)
    else 0
  avg + drift - s.tb.steps * 2 ^ 32

/-- The part of the remaining slew that the tick in progress takes (R248). -/
def State.slewPart (s : State) : Int :=
  let cap : Int := s.get R.TB_SLEW_CFG_SLEW_MAX * 65536 * s.clk.tickLen
  clampInt (-cap) cap s.tb.slew

/-- RATE_EFF with its slew term for the tick in progress (R227, R237, R248). -/
def State.setEff (s : State) : State :=
  let base := if s.coasting then s.coastRate else s.tb.rate * 2 ^ 32
  let part := if s.isOn R.TB_STAT_SLEW && !s.clk.limp then s.slewPart else 0
  let ns := slewPerSub * 65536 * 1000000
  let term := if s.clk.limp then 0 else rdiv (part * 491520 * 2 ^ 72) (ns * s.clk.tickLen)
  { s with tb := { s.tb with eff := base + term, slewNow := if s.clk.limp then s.tb.slewNow else part } }

/-- Coast begins at an edge: RATE_AVG, of the rates `h`, c₀, d and S start (R237). -/
def State.coastBegin (s : State) (h : List Int) : State :=
  let s := s.putB R.TB_STAT_COAST true
  { s with tb := { s.tb with
      avgSum := if h.isEmpty then s.tb.rate else h.foldl (· + ·) 0, avgCount := max 1 h.length
      c0 := s.get R.TB_TEMP_CODE, coastTicks := 0, steps := s.tb.edgeStep, rawCoast := decide (s.trust ≤ 1) } }

/-- Coast begins with the rates of the 64 edges before. -/
def State.coastStart (s : State) : State := s.coastBegin s.tb.hist

/-- Trust on coast entry (R243). -/
def State.coastTrust (s : State) : State :=
  match s.trust with
  | 1 => s.setTrust 0
  | 2 => s.setTrust 3
  | _ => s

/-- Trust after a switch to the limp oscillator in the tick that ended (R243). -/
def State.limpTrust (s : State) : State :=
  if s.tb.limpPend then
    let s := { s with tb := { s.tb with limpPend := false } }
    if s.trust = 2 ∨ s.trust = 3 then s.setTrust 4 else if s.trust = 1 then s.setTrust 0 else s
  else s

/-- Trust that expires at an edge: the bound, or a coast without lock (R243). -/
def State.expireTick (s : State) : State :=
  if s.trust = 2 ∨ s.trust = 3 then
    let beyond := s.boundValid && decide (s.get R.TB_HOLD_LIMIT * boundPerNs < s.tb.bound)
    if beyond || (s.coasting && !s.synLocked) then s.setTrust 4 else s
  else s

/-- COAST_ENTRY (R233): two ticks in a row were missed. -/
def State.coastEntry (s : State) : State :=
  if s.atEdge && !s.coasting && s.get R.TB_STAT_MISS == 2 then
    ((s.coastStart.coastTrust.raise 0x0501 0xFF).expireTick.setEff).tbShow
  else s

/-- PLANNED_COAST (R235, R236): a write of n to TB_CTRL.PCOAST. -/
def State.plannedCoast (s : State) (n : Nat) : State :=
  if n = 0 then s
  else if s.coasting then s.putB R.TB_STAT_PC_IGN true
  else { s with tb := { s.tb with pcReq := n } }

/-- A planned coast becomes an unplanned one (R235). -/
def State.coastUnplanned (s : State) : State :=
  ((s.putB R.TB_STAT_PCOAST false).coastTrust.raise 0x0501 0xFF).expireTick.tbShow

/-- PLANNED_COAST_EXPIRY (R235). -/
def State.plannedCoastExpiry (s : State) : State :=
  if s.atEdge && s.isOn R.TB_STAT_PCOAST && s.tb.pcLeft == 0 then s.coastUnplanned else s

/-- The rates that RATE_AVG of a planned coast takes: with that of its start edge, if one became active there (R235). -/
def State.plannedRates (s : State) : List Int :=
  if s.tb.newRate then (s.tb.hist ++ [s.tb.rate]).drop (s.tb.hist.length - 63) else s.tb.hist

/-- A planned coast of `n` ticks starts at the edge at hand (R235, R236); `force`: a hitless update starts it, which
replaces a planned coast in progress. -/
def State.pcoastStart (s : State) (n : Nat) (force : Bool) : State :=
  if !s.coasting then
    let s := (s.coastBegin s.plannedRates).putB R.TB_STAT_PCOAST true
    { s with tb := { s.tb with pcLeft := n } }
  else if force then (if s.isOn R.TB_STAT_PCOAST then { s with tb := { s.tb with pcLeft := n } } else s)
  else s.putB R.TB_STAT_PC_IGN true

/-! ### Offsets (R246 to R249) -/

/-- Clears pending step, slew and held offset. -/
def State.offsetClear (s : State) : State :=
  let s := ((s.putB R.TB_STAT_STEP_PEND false).putB R.TB_STAT_SLEW false).putB R.TB_STAT_HOLD_WAIT false
  { s with tb := { s.tb with offset := 0, slew := 0 } }

/-- `v` becomes a pending step (R247). -/
def State.offsetStep (s : State) (v : Int) : State :=
  { (s.offsetClear.putB R.TB_STAT_STEP_PEND true) with tb :=
    { s.offsetClear.tb with offset := v, stepAt := s.clk.age } }

/-- `v` is slewed (R248). -/
def State.offsetSlew (s : State) (v : Int) : State :=
  { (s.offsetClear.putB R.TB_STAT_SLEW true) with tb := { s.offsetClear.tb with slew := v * slewPerSub } }

/-- `v` is held (R249). -/
def State.offsetHold (s : State) (v : Int) : State :=
  ({ (s.offsetClear.putB R.TB_STAT_HOLD_WAIT true) with tb := { s.offsetClear.tb with offset := v } }).raise 0x0504 0xFF
    (unsignedOf 32 (rdiv v 65536))

/-- An offset of `v` (2⁻¹⁶ ns) becomes active (R243, R246). -/
def State.newOffset (s : State) (v : Int) : State :=
  if v = 0 then s.offsetClear
  else if s.trust ≤ 1 then s.offsetStep v
  else if v.natAbs ≤ s.slewLimit then s.offsetSlew v
  else
    let s := if s.trust = 2 then s.setTrust 3 else s
    match s.get R.TB_CTRL_POLICY with
    | 0 => s.offsetStep v
    | 1 => s.offsetSlew v
    | _ => s.offsetHold v

/-- A write of TB_CTRL.APPROVE (R249). -/
def State.approve (s : State) (slew : Bool) : State :=
  if s.isOn R.TB_STAT_HOLD_WAIT then { s with tb := { s.tb with approve := if slew then 2 else 1 } } else s

/-! ### Discipline updates (R231, R232, R234) -/

/-- A write of `v` to TB_DISC. -/
def State.tbDisc (s : State) (v : Nat) : State :=
  let u : Update := {
    qual := v / 16384
    rate := if bitOf v 13 then some (signedOf 32 (wordsValue s.rg 0x70700A 2)) else none
    step := if bitOf v 12 then some (signedOf 48 (wordsValue s.rg 0x70700C 3)) else none
    unc := v % 4096 }
  if s.inGuard then { s with tb := { s.tb with updLate := some u } } else { s with tb := { s.tb with upd := some u } }

/-- A write of `v` to TB_RATE or TB_STEP: lower words wait in a latch, the most significant moves the value (R231). -/
def State.tbHold (s : State) (a v : Nat) : State :=
  let base := if a < 0x70700C then 0x70700A else 0x70700C
  let last := if a < 0x70700C then 0x70700B else 0x70700E
  if a = last then
    let s := (List.range (last - base)).foldl (fun (s : State) k => s.setRg (base + k) (wmGet 0 s.latch (base + k))) s
    s.setRg a (BitVec.ofNat 16 v)
  else { s with latch := wmPut 0 a (BitVec.ofNat 16 v) s.latch }

/-- The NO_SOLUTION update (R234). -/
def State.noSolution (s : State) : State :=
  if !s.coasting then (s.coastStart.coastTrust).raise 0x0502 0xFF
  else if s.isOn R.TB_STAT_PCOAST then ((s.putB R.TB_STAT_PCOAST false).coastTrust).raise 0x0502 0xFF
  else s

/-- An update becomes active at the edge at hand (R232, R235, R239, R243). -/
def State.updateActive (s : State) (u : Update) : State :=
  let s := { s with tb := { s.tb with counting := true, unc := u.unc } }
  let s := s.put R.TB_STAT_MISS 0
  if u.qual = 0 then s.noSolution
  else
    let s := match u.rate with
      | none => s
      | some r =>
        let s := { s with tb := { s.tb with rate := r, newRate := true } }
        (s.putB R.TB_STAT_COAST false).putB R.TB_STAT_PCOAST false
    let s : State := match u.step with
      | none => s
      | some v => s.newOffset v
    if s.trust == 0 && u.rate.isSome then s.setTrust 1
    else if s.trust == 2 && u.qual == 1 then s.setTrust 3
    else s

/-- The tick that ended had no update that counts for it (R233). -/
def State.updateMissed (s : State) : State :=
  if s.tb.counting && !s.isOn R.TB_STAT_PCOAST then s.put R.TB_STAT_MISS (min 2 (s.get R.TB_STAT_MISS + 1)) else s

/-- QUALIFYING_RUN (R242, R243). -/
def State.qualifyingRun (s : State) : State :=
  if s.atEdge ∧ s.get R.TB_ACQ_CFG_DISC_N * 100 ≤ s.tb.run ∧ !s.isOn R.TB_STAT_STEP_PEND ∧ !s.isOn R.TB_STAT_HOLD_WAIT
      ∧ s.tbOffset.natAbs ≤ s.slewLimit ∧ (s.trust = 1 ∨ s.trust = 3 ∨ s.trust = 4) then
    (s.setTrust 2).tbShow
  else s

/-! ### Steps, leaps and scales (R247, R252, R253, R545) -/

/-- The next second boundary, as a reading. -/
def State.nextSecond (s : State) : Nat := (s.tbSec + 1) * accPerSec

/-- The boundary at hand, or the next one: the clocks run to it if it comes in this tick. -/
def State.toBoundary (s : State) : Option State :=
  if s.clk.acc % accPerSec < s.lastAdd then some s else s.runTo s.nextSecond

/-- 100 µs have passed since `ClkSt.age` was `t`. -/
def State.after100us (s : State) (t : Nat) : Bool := t + 100 * agePerUs ≤ s.clk.age

/-- A step of the time base at a second boundary (R247, R545): what other units do is their own. -/
def State.applyStep (s : State) : State :=
  let due := s.isOn R.TB_STAT_STEP_PEND && s.after100us s.tb.stepAt
  let dueSec := s.isOn R.SYS_SECSTEP_CTL_PEND && s.after100us s.tb.secAt
  let base : Int := if due then (s.clk.acc / accPerSec * accPerSec : Nat) + s.tb.offset * accPerSub else s.clk.acc
  let v := base + (if dueSec then s.tb.sec else 0) * accPerSec
  let acc := (v % ((2 ^ 48 * accPerSec : Nat) : Int)).toNat
  let arg := unsignedOf 32 (rdiv s.tb.offset 65536)
  let s := { s with clk := { s.clk with acc := acc }, tb := { s.tb with stepped := some acc } }
  let s := if due then
      (let s := s.offsetClear
       if 2 ≤ s.trust then s.raise 0x0505 0xFF arg else s)
    else s
  let s := if dueSec then s.putB R.SYS_SECSTEP_CTL_PEND false else s
  s.tbShow

/-- A step falls due at the boundary clock at hand. -/
def State.stepDue (s : State) : Bool :=
  (s.isOn R.TB_STAT_STEP_PEND && s.after100us s.tb.stepAt)
    || (s.isOn R.SYS_SECSTEP_CTL_PEND && s.after100us s.tb.secAt)

/-- Scale `k` less the time base, in 0.25 ns (R252). -/
def State.scaleOffset (s : State) (k : Nat) : Int :=
  signedOf 32 (wordsValue s.actRg (0x707021 + 2 * k) 2) * 4000000000 + signedOf 16 (s.actRg (0x70702D + k)).toNat

/-- Applies `f` to the words of a block in its shadow, both stages and the active values (R253). -/
def State.everyStage (s : State) (p : Nat) (f : WMap → WMap) : State :=
  let onStage (l : List (Nat × WMap)) : List (Nat × WMap) := l.map (fun e => if e.1 == p then (e.1, f e.2) else e)
  { s with regs := f s.regs, active := f s.active, stage := onStage s.stage, late := onStage s.late }

/-- Adds `d` to the 32-bit number in words `a` and `a + 1` of a map. -/
def addWide (a : Nat) (d : Int) (m : WMap) : WMap :=
  let v := unsignedOf 32 (wordsValue (wmGet 0 m) a 2 + d)
  wmPut 0 (a + 1) (BitVec.ofNat 16 (v / 65536)) (wmPut 0 a (BitVec.ofNat 16 v) m)

/-- LEAP moves by `d` and PEND clears, in a map. -/
def leapWord (d : Int) (m : WMap) : WMap :=
  let w := (wmGet 0 m 0x70701D).toNat
  wmPut 0 0x70701D (BitVec.ofNat 16 (unsignedOf 8 (w / 256 + d) * 256 + w % 64)) m

/-- The second in which a leap is pending, as a reading (R253). -/
def State.leapAt (s : State) : Nat := wordsValue s.actRg 0x70701E 3 * accPerSec

/-- The leap that is to be made at a reading yet to come: 1, −1 or 0 (R253). -/
def State.leapAhead (s : State) : Int :=
  if s.leapAt ≤ s.clk.acc then 0
  else match s.act R.TB_LEAP_PEND with
    | 1 => 1
    | 2 => -1
    | _ => 0

/-- A leap is made: insert (`d` = 1) or delete (`d` = −1). -/
def State.makeLeap (s : State) (d : Int) : State :=
  let s := s.everyStage 0x707 (fun m => leapWord d (addWide 0x707029 (-d) (addWide 0x707027 (-d) m)))
  if d = 1 then { s with tb := { s.tb with inserted := some s.tbSec } } else s

/-- LEAP_SECOND (R253), but for what time pulses do; answers what the leap was: 1, −1, or 0 when none is made. -/
def State.leapSecond (s : State) : Int × State :=
  let pend := s.act R.TB_LEAP_PEND
  if pend ≠ 1 ∧ pend ≠ 2 then (0, s)
  else
    let d : Int := if pend = 1 then 1 else -1
    let t := s.leapAt
    let counted := s.tb.stepped.all (fun x => x < t || s.clk.acc < x)
    if s.clk.acc < t then
      match s.runTo t with
      | some s => (d, s.makeLeap d)
      | none => (0, s)
    else if s.clk.acc < t + s.lastAdd && counted then (d, s.makeLeap d)
    else
      match s.toBoundary with
      | some s => (0, s.everyStage 0x707 (leapWord 0))
      | none => (0, s)

/-! ### The tick edge -/

/-- The temperature code in 1/64 (R238): `die` in 0.001 °C, `ext` in µV. -/
def State.tempCode (s : State) (die : Int) (ext : Nat) : Nat :=
  let c : Int := if s.act R.TB_CTRL_TSRC = 1 then (((ext : Int) - 100000) * 128 + 12500) / 25000
    else ((die + 40000) * 128 + 2500) / 5000
  (clampInt 0 4032 c).toNat

/-- B at an edge (R240, R241). -/
def State.boundTick (s : State) : State :=
  if s.coasting then
    if 2 ≤ s.trust then
      let dc := ((s.get R.TB_TEMP_CODE : Int) - s.tb.c0).natAbs
      let u := (s.get R.TB_HB_CFG_0 * dayTicks + s.get R.TB_HB_CFG_1_AGE_UNC * s.tb.coastTicks) * 64
        + s.get R.TB_HB_CFG_1_TEMP_UNC * dc * dayTicks
      { s with tb := { s.tb with bound := s.tb.bound + u } }
    else s
  else { s with tb := { s.tb with bound := s.tb.unc * (boundPerNs / 4) + s.tbOffset.natAbs * boundPerSub } }

/-- The slew of the tick that ended is used up (R248). -/
def State.slewTick (s : State) : State :=
  if s.isOn R.TB_STAT_SLEW then
    let r := s.tb.slew - s.tb.slewNow
    let s := { s with tb := { s.tb with slew := r, slewNow := 0 } }
    if r = 0 then s.putB R.TB_STAT_SLEW false else s
  else s

/-- The time base at a tick edge, after activation (R231 to R249). -/
def State.tbTick (s : State) (die : Int) (ext : Nat) : State :=
  let s := s.slewTick
  let s := (s.put R.TB_TEMP_CODE (s.tempCode die ext)).putB R.TB_TEMP_VALID true
  let wasCoast := s.coasting
  let u := s.tb.upd
  -- the rates active at the 64 edges before this one
  let s := { s with tb := { s.tb with
      upd := s.tb.updLate, updLate := none, newRate := false, hist := (s.tb.hist ++ [s.tb.rate]).drop (s.tb.hist.length - 63) } }
  let approve := s.tb.approve
  let good := match u with
    | some u => u.qual == 2 && decide (u.unc ≤ 4 * s.get R.TB_ACQ_CFG_UNC_MAX)
    | none => false
  let s := { s with tb := { s.tb with run := if good then s.tb.run + 1 else 0, approve := 0 } }.limpTrust
  let s := match u with
    | some u => s.updateActive u
    | none => s.updateMissed
  let s := if approve != 0 && s.isOn R.TB_STAT_HOLD_WAIT && !u.any (fun u => u.qual != 0 && u.step.isSome) then
      (if approve = 1 then s.offsetStep s.tb.offset else s.offsetSlew s.tb.offset) else s
  let s := if wasCoast && s.coasting then
      { s with tb := { s.tb with coastTicks := s.tb.coastTicks + 1, pcLeft := s.tb.pcLeft - 1 } } else s
  let n := s.tb.pcReq
  let s := { s with tb := { s.tb with pcReq := 0 } }
  let s := if wasCoast && s.coasting then s.boundTick else if s.coasting then s else s.boundTick
  -- a coast on missed ticks that begins at this edge is entered by its own command
  let s := if n != 0 && !s.coasting && s.get R.TB_STAT_MISS == 2 then s.putB R.TB_STAT_PC_IGN true
    else if n != 0 then s.pcoastStart n false else s
  s.expireTick.setEff.tbShow

/-- A switch of the internal domains to the limp oscillator (R245, R248). -/
def State.tbLimp (s : State) : State :=
  if !s.clk.tbRun then s
  else
    let s := { s with tb := { s.tb with
      slewNow := s.tb.slewNow * s.clk.phase / (max 1 s.clk.tickLen : Nat), limpPend := true, taint := true } }
    ((s.putB R.TB_STAT_LIMP true).raise 0x0506 0xFF).tbShow

/-- A synchronous release: the time base starts, or goes on from its limp count (R230, R245). -/
def State.tbRelease (s : State) : State :=
  let s := { s with clk := { s.clk with tbRun := true, limp := false } }
  let spent := s.tb.slewNow
  let s := (s.putB R.TB_STAT_LIMP false).setEff
  -- only the rest of the tick in progress takes its slew
  let left : Int := (s.clk.tickLen - s.clk.phase : Nat)
  let part := s.tb.slewNow * left / (max 1 s.clk.tickLen : Nat)
  { s with tb := { s.tb with slewNow := clampInt (-(s.tb.slew.natAbs : Int)) s.tb.slew.natAbs (spent + part) } }

end Sys2Proof.Machine
end

