-- ==== Sys2Proof/Machine/TimePulse.lean ====
section
/-!
DEFINITION. Time pulses, TOD_OUT and event capture (spec/08_time_base_and_time_pulse.md, R247, R254 to R266, R584).
-/

namespace Sys2Proof.Machine

/-- Output `n`. -/
def State.tpOut (s : State) (n : Nat) : TpOut := s.tp.outs.getD n {}

/-- Sets output `n`. -/
def State.setTpOut (s : State) (n : Nat) (o : TpOut) : State := { s with tp := { s.tp with outs := listPut s.tp.outs n o {} } }

/-- Bit `n` of a flag field that starts at bit `lo` of TP_STAT. -/
def tpStatBit (lo n : Nat) : Fld := ⟨0x708018, lo + n, lo + n⟩

/-- Sets bit `n` of a flag field of TP_STAT; output 4 is CFL_PPS_OUT, which has no bit there (R508). -/
def State.tpFlag (s : State) (lo n : Nat) (b : Bool) : State := if n < 4 then s.putB (tpStatBit lo n) b else s

/-- Output `n` runs. -/
def State.tpOn (s : State) (n : Nat) : Bool := if n < 4 then s.isOn (tpStatBit 4 n) else s.isOn R.CFL_PPS_CFG_OUT_EN

/-- The period of output `n` in ms (R254, R256, R508). -/
def State.tpPeriod (s : State) (n : Nat) : Nat :=
  if n < 4 then s.act (R.TP_PER_COUNT n) * (if s.act (R.TP_PER_UNIT n) = 1 then 1000 else 1) else 1000

/-- The scale of output `n`. -/
def State.tpScale (s : State) (n : Nat) : Nat := if n < 4 then s.act (R.TP_CFG_SCALE n) else 0

/-- The width of output `n` in 10 µs (R254, R508). -/
def State.tpWidth (s : State) (n : Nat) : Nat := if n < 4 then (s.actRg (0x70800C + n)).toNat else 1

/-- What output `n` adds to a multiple of its period, in ps: its scale's offset and its delay; CFL_PPS_OUT stands on the
time base's own scale with zero delay (R254, R508). -/
def State.tpShift (s : State) (n : Nat) : Int :=
  if n < 4 then signedOf 32 (wordsValue s.actRg (0x708010 + 2 * n) 2) - s.scaleOffset (s.tpScale n) * 250 else 0

/-- The delay from a placement to the ball, in ps (R255, R260): the level of VDD_IO_B decides. -/
def State.dTpo (s : State) : Nat := if s.pwr.io33B then 3900 else 4350

/-- Scale `k` less the time base in whole seconds (R252). -/
def State.scaleSec (s : State) (k : Nat) : Int := signedOf 32 (wordsValue s.actRg (0x707021 + 2 * k) 2)

/-- The targets of output `n` are counts above 1 of a scale that makes leaps (R253, R254). -/
def State.tpCounts (s : State) (n : Nat) : Bool := (s.tpScale n == 3 || s.tpScale n == 4) && 1000 < s.tpPeriod n

/-- The time-base second of target `k` of output `n`, by the offsets in force. -/
def State.tpSecond (s : State) (n : Nat) (k : Int) : Int := k * (s.tpPeriod n / 1000 : Nat) - s.scaleSec (s.tpScale n)

/-- The reading, in ps, at which the leading edge of pulse `k` of output `n` reaches the ball (R254). A target at or past a leap
that is still to come moves with it; an inserted second carries none. -/
def State.tpReading (s : State) (n : Nat) (k : Int) : Int :=
  k * (s.tpPeriod n * 1000000000 : Nat) + s.tpShift n
    + (if s.tpCounts n && decide ((s.leapAt / accPerSec : Nat) ≤ s.tpSecond n k) then s.leapAhead * 10 ^ 12 else 0)

/-- Index `k` of output `n`, or the next where a deletion to come takes away the second that `k` counts (R253, R254). -/
def State.tpIndex (s : State) (n : Nat) (k : Int) : Int :=
  if s.tpCounts n && s.leapAhead == -1 && s.tpSecond n k == (s.leapAt / accPerSec : Nat) then k + 1 else k

/-- DELAY of output `n`, in ps. -/
def State.tpDelay (s : State) (n : Nat) : Int := if n < 4 then signedOf 32 (wordsValue s.actRg (0x708010 + 2 * n) 2) else 0

/-- The reading at which the leading edge of pulse `k` of output `n` is placed, in counter units over 1,000 (R255). -/
def State.tpPlace (s : State) (n : Nat) (k : Int) : Int := (s.tpReading n k - s.dTpo) * accPerNs

/-- The first pulse of output `n` whose leading edge would come at a reading of at least `t` ps. -/
def State.tpFirst (s : State) (n : Nat) (t : Int) : Int :=
  let p : Int := max 1 (s.tpPeriod n * 1000000000)
  let base := s.tpReading n 0
  (t - base + p - 1) / p

/-- The time base's reading in ps, rounded down. -/
def State.tbPs (s : State) : Int := (s.clk.acc * 1000 / accPerNs : Nat)

/-- Output `n` is held back by its SUPPRESS field (R257). -/
def State.tpSuppressed (s : State) (n : Nat) : Bool :=
  match (if n < 4 then s.act (R.TP_CFG_SUPPRESS n) else 0) with
  | 1 => s.trust == 4
  | 2 => !s.trusted
  | _ => false

/-- The fine delay for a remainder `r` after the clock edge, in counter units over 1,000 (R255): rounded to nearest. -/
def State.fineTaps (s : State) (r : Nat) : Nat :=
  let d := max 1 (400000 * 2 ^ 72 * 1000)
  (2 * r * s.get R.TP_FINE_CAL_TAPS + d) / (2 * d)

/-- Indices of output `n` from `k` on that are already due. -/
def State.tpOverdue (s : State) (n : Nat) (k : Int) : Nat :=
  let d := s.clk.acc * 1000 - s.tpPlace n k
  if d < 0 then 0
  else (d / ((max 1 (s.tpPeriod n * 1000000000) * accPerNs : Nat) : Int) + 1).toNat

/-- `k` indices of output `n` are used and skipped (R247). -/
def State.tpSkip (s : State) (n k : Nat) : State :=
  if k = 0 then s
  else
    let o := s.tpOut n
    (s.tpFlag 12 n true).setTpOut n { o with next := o.next + k, skips := o.skips + k }

/-- A run of skipped indices of output `n` ends: fault 0x0601 names how many (R247). -/
def State.tpSkipEnd (s : State) (n : Nat) : State :=
  let o := s.tpOut n
  if o.skips = 0 then s else (s.raise 0x0601 n (min o.skips (2 ^ 32 - 1))).setTpOut n { o with skips := 0 }

/-- Indices of the running outputs whose targets passed while no pulse could begin are used; nothing is placed for them
(R245, R527; log entry 61). -/
def State.tpPass (s : State) : State :=
  forUp 5 (fun n s =>
    let o := s.tpOut n
    if s.tpOn n && s.clk.tbRun then s.setTpOut n { o with next := o.next + s.tpOverdue n o.next } else s) s

/-- Units of the counter over 1,000 in a unit of `ClkSt.age`, at rate 0. -/
def fracPerAge : Nat := 640000 * 2 ^ 72

/-- The half-period rule: the leading edge, at `r` after the clock at hand, would come too soon after the last, or while a pulse
is active (R247). -/
def State.tpTooSoon (s : State) (n r : Nat) : Bool :=
  let o := s.tpOut n
  o.active || (match o.lead with
    | some t => decide (2 * ((s.clk.age - t) * fracPerAge + r : Nat) < (s.tpPeriod n * (1000 * agePerUs) * fracPerAge + 2 * o.leadR : Nat))
    | none => false)

/-- TIME_PULSE (R247, R254, R255, R257): the leading edge of the next pulse of output `n`. -/
def State.timePulse (s : State) (n : Nat) : State :=
  let o := s.tpOut n
  if !s.tpOn n || s.clk.limp || !s.clk.tbRun || s.tp.stopped then s
  else
    let k := s.tpIndex n o.next
    match s.runBefore (s.tpPlace n k) 1000 with
    | none => s
    | some (s, r) =>
      let s := s.setTpOut n { s.tpOut n with next := k }
      if s.tpSuppressed n then
        let s := s.tpSkipEnd n
        (s.tpFlag 8 n true).setTpOut n { s.tpOut n with next := k + 1 }
      else if s.tpTooSoon n r then s.tpSkip n (max 1 (s.tpOverdue n k))
      else
        let s := s.tpSkipEnd n
        let o := s.tpOut n
        let w := s.tpWidth n
        let s := (s.tpFlag 8 n false).setTpOut n { o with
          next := k + 1, lead := some s.clk.age, leadR := r, active := true, taps := s.fineTaps r
          pol := n < 4 && s.act (R.TP_CFG_POL n) == 1
          endAcc := s.clk.acc + r / 1000 + w * 10000 * accPerNs, endAge := none }
        s.tpSkip n (s.tpOverdue n (k + 1))

/-- TIME_PULSE_END (R247, R254): the trailing edge of output `n`. -/
def State.timePulseEnd (s : State) (n : Nat) : State :=
  let o := s.tpOut n
  if !o.active then s
  else
    let r := match o.endAge with
      | some t =>
        let d := (t - s.clk.age) * fracPerAge + o.leadR
        let clk := s.ageStep * fracPerAge
        if s.inTick (d / clk) then some (s.elapse (d / clk), d % clk) else none
      | none => (s.runBefore o.endAcc 1).map (fun (e : State × Nat) => (e.1, e.2 * 1000))
    match r with
    | none => s
    | some (s, r) => s.setTpOut n { o with active := false, taps := s.fineTaps r }

/-- What a step of the time base does to a pulse in progress: it ends WIDTH × 10 µs of elapsed time after its leading edge
(R247). -/
def State.tpStep (s : State) : State :=
  forUp 5 (fun n s =>
    let o := s.tpOut n
    if o.active && o.endAge.isNone then
      s.setTpOut n { o with endAge := some (o.lead.getD s.clk.age + (s.tpWidth n * 10) * agePerUs) }
    else s) s

/-- What a leap does to the outputs on scales 3 and 4 (R253, R254): the index of the next pulse moves with the count. -/
def State.tpLeap (s : State) (d : Int) : State :=
  forUp 4 (fun n s =>
    let o := s.tpOut n
    let sc := s.tpScale n
    if sc != 3 && sc != 4 then s
    else
      let p := s.tpPeriod n
      if p ≤ 1000 then s.setTpOut n { o with next := o.next - d * (1000 / max 1 p : Nat) }
      -- the second that a deletion took away is, by the new offset, the one before LEAP_AT
      else if d = -1 ∧ s.tpSecond n o.next + 1 = (s.leapAt / accPerSec : Nat) then s.setTpOut n { o with next := o.next + 1 }
      else s) s

/-- LEAP_SECOND (R253). -/
def State.leapEvent (s : State) : State :=
  let (d, s) := s.leapSecond
  if d = 0 then s else s.tpLeap d

/-- FINE_CAL (R255): N_CAL is measured at the second boundary, and holds for the second that follows. -/
def State.fineCal (s : State) (taps : Nat) : State :=
  if !s.clk.tbRun then s
  else match s.toBoundary with
    | some s => (s.putB R.TP_FINE_CAL_VALID true).put R.TP_FINE_CAL_TAPS taps
    | none => s

/-! ### Activation (R256, R258, R263) -/

/-- The words of output `n`. -/
def tpWords (n : Nat) : List Nat := [0x708004 + n, 0x708008 + n, 0x70800C + n, 0x708010 + 2 * n, 0x708011 + 2 * n]

/-- Activated values of a TP register that must not act keep their old ones (R256). -/
def State.keepOld (s o : State) (ws : List Nat) : State := ws.foldl (fun s a => s.setActRg a (o.actRg a)) s

/-- A refused activation (R256). -/
def State.tpRefuse (s : State) (unit a : Nat) : State :=
  ((s.putB R.TP_CFG_REJ_REJ true).put R.TP_CFG_REJ_OFFSET (a % 4096)).raise 0x0602 unit (a % 4096)

/-- The first index of output `n` whose target comes later than that of the last pulse used under the values of `o` (R258; log
entry 133). -/
def State.tpGoesOn (s o : State) (n : Nat) : Int :=
  s.tpFirst n (o.tpReading n ((o.tpOut n).next - 1) - o.tpDelay n + s.tpDelay n + 1)

/-- Output `n` at an activation edge; `o` is the state before it. -/
def State.tpActivate (s o : State) (n : Nat) : State :=
  let per := s.tpPeriod n
  let bad := decide (per * 100 ≤ (s.actRg (0x70800C + n)).toNat)
  let s := if bad then (s.keepOld o (tpWords n)).tpRefuse n (0x70800C + n) else s
  let on := s.act (R.TP_CFG_EN n) == 1
  let was := o.act (R.TP_CFG_EN n) == 1
  let out := s.tpOut n
  let s := s.putB (tpStatBit 4 n) on
  if on && !was then s.setTpOut n { out with next := s.tpFirst n (s.tbPs + 1000000000) }
  else if on && (s.tpScale n != o.tpScale n || s.tpPeriod n != o.tpPeriod n) then
    s.setTpOut n { out with next := s.tpGoesOn o n }
  else if !on then (s.putB (tpStatBit 8 n) false).tpSkipEnd n
  else s

/-- Length of a TOD message in µs, rounded up: 260 bits (R263). -/
def todLength (baud : Nat) : Nat := match baud with | 0 => 27084 | 1 => 2257 | _ => 283

/-- Bits a second of BAUD (R263). -/
def todBaud (baud : Nat) : Nat := match baud with | 0 => 9600 | 1 => 115200 | _ => 921600

/-- A write of CFL_PPS_CFG.OUT_EN (R508): the first pulse is that of the next second of the time base. -/
def State.ppsEnable (s : State) (was : Bool) : State :=
  let on := s.isOn R.CFL_PPS_CFG_OUT_EN
  if on && !was then s.setTpOut 4 { s.tpOut 4 with next := s.tpFirst 4 s.tbPs }
  else if !on && was then s.tpSkipEnd 4
  else s

/-- TOD_OUT at an activation edge (R263). -/
def State.todActivate (s o : State) : State :=
  let bad := decide (1000000 ≤ s.act R.TP_TOD_CFG_START * 1000 + todLength (s.act R.TP_TOD_CFG_BAUD))
  let s := if bad then (s.keepOld o [0x70801A]).tpRefuse 0xFF 0x70801A else s
  if s.actRg 0x70801A != o.actRg 0x70801A then { s with tp := { s.tp with todNext := none, todAgain := none } } else s

/-- Time pulses and TOD_OUT at an edge at which TP values become active; `o` is the state before it. -/
def State.tpTick (s o : State) : State := (forUp 4 (fun n s => s.tpActivate o n) s).todActivate o

/-! ### TOD_OUT (R263, R264) -/

/-- CRC-16, polynomial 0x1021, over one byte. -/
def crc16Byte (crc b : Nat) : Nat :=
  (List.range 8).foldl (fun c _ => if 32768 ≤ c then (2 * c % 65536) ^^^ 0x1021 else 2 * c) (crc ^^^ (b % 256 * 256))

/-- CRC-16 of bytes: polynomial 0x1021, initial value 0xFFFF, no reflection, no final XOR (R264). -/
def crc16 (bytes : List Nat) : Nat := bytes.foldl crc16Byte 0xFFFF

/-- `n` bytes of `v`, least significant first. -/
def leBytes : Nat → Nat → List Nat
  | 0, _ => []
  | n + 1, v => v % 256 :: leBytes n (v / 256)

/-- The reading at which scale `k` starts the second that time-base second `m` goes with, in 0.25 ns: its sub-second offset
before (R252; log entry 134). -/
def State.scaleSecond (s : State) (k : Nat) (m : Int) : Int := m * 4000000000 - signedOf 16 (s.actRg (0x70702D + k)).toNat

/-- Counter units in 0.25 ns. -/
def accPerQuarter : Nat := accPerNs / 4

/-- The 26 bytes of the message of time-base second `m` on scale `k` (R264); the inserted second reports 60 (R253). -/
def State.todBytes (s : State) (k : Nat) (m : Int) : List Nat :=
  let c := m + s.scaleSec k
  let start := s.scaleSecond k m * accPerQuarter
  let stepped := match s.tb.stepped with
    | some x => start ≤ x && x ≤ s.clk.acc
    | none => false
  let again := s.tp.todAgain.any (fun x => decide (m < x))
  let inserted := match s.tb.inserted with
    | some x => m == (x : Int)
    | none => false
  let pend := s.act R.TB_LEAP_PEND
  let flags := b2n (pend == 1) + b2n (pend == 2) * 2 + b2n (stepped || again) * 4 + b2n (s.isOn R.TB_STAT_SLEW) * 8
    + b2n s.coasting * 16 + b2n (s.isOn R.TB_STAT_HOLD_WAIT) * 32 + b2n s.boundValid * 64
  let som := if k = 3 ∨ k = 4 then (if inserted then 60 else (c % 60).toNat) else 0xFF
  let bound := if s.boundValid then min (2 ^ 32 - 1) s.boundNs else 2 ^ 32 - 1
  let body := [0x01, 20, k, s.trust, flags, s.act R.TB_LEAP_LEAP] ++ leBytes 6 (unsignedOf 48 c) ++ [som, 0]
    ++ leBytes 4 bound ++ leBytes 2 s.tb.unc ++ leBytes 2 s.tp.todSeq
  [0x4B, 0x54] ++ body ++ leBytes 2 (crc16 body)

/-- The first second, as the time base numbers it, whose message starts at the clock at hand or later (R263). -/
def State.todAhead (s : State) : Int :=
  let now : Int := ((s.clk.acc + 1 - s.lastAdd + accPerQuarter - 1) / accPerQuarter : Nat) - s.act R.TP_TOD_CFG_START * 4000000
    + signedOf 16 (s.actRg (0x70702D + s.act R.TP_TOD_CFG_SCALE)).toNat
  (now + 3999999999) / 4000000000

/-- What a step does to TOD_OUT (R263): the next message is the first whose start lies ahead on the stepped time base, and
those that were sent before, up to the second `sent`, are sent again. -/
def State.todStep (s : State) (sent : Int) : State :=
  if s.act R.TP_TOD_CFG_EN = 0 then { s with tp := { s.tp with todNext := none } }
  else { s with tp := { s.tp with todNext := none, todAgain := some (max sent (s.tp.todAgain.getD sent)) } }

/-- The second of the next message: one whose start has passed, as after a limp episode, is not sent (R245, R263). -/
def State.todSecond (s : State) : Int :=
  match s.tp.todNext with
  | some m => max m s.todAhead
  | none => s.todAhead

/-- TOD_MESSAGE (R263): the next message, if its start comes in this tick. -/
def State.todMessage (s : State) : State :=
  if s.act R.TP_TOD_CFG_EN = 0 || s.clk.limp || !s.clk.tbRun || s.tp.stopped then s
  else
    let k := s.act R.TP_TOD_CFG_SCALE
    let ms := s.act R.TP_TOD_CFG_START
    let c := s.todSecond
    let t := (s.scaleSecond k c + ms * 4000000) * accPerQuarter
    match s.runTo t.toNat with
    | none => s
    | some s =>
      { s with tp := { s.tp with
          todNext := some (c + 1), todLast := s.todBytes k c, todSeq := (s.tp.todSeq + 1) % 65536
          todAt := some s.clk.age, todRate := todBaud (s.act R.TP_TOD_CFG_BAUD) } }

/-! ### Levels -/

/-- The level of CFL_PPS_OUT (R67, R508). -/
def State.ppsBall (s : State) : Bool := s.pwr.stage == .running && (s.tpOut 4).active

/-- The level of ball TP_n (R258, R259): a pulse in progress keeps the polarity it began with; a tamper stop lets it complete
(R527). -/
def State.tpBall (s : State) (n : Nat) : Bool :=
  let o := s.tpOut n
  if s.pwr.stage != .running || (s.tp.stopped && !o.active) then false
  else if o.active then !o.pol
  else s.act (R.TP_CFG_EN n) == 1 && s.act (R.TP_CFG_POL n) == 1

/-- Bit `i` of a line that sends `bytes`: a start bit, eight data bits, the least significant first, a stop bit (R263). -/
def serialBit (bytes : List Nat) (i : Nat) : Bool :=
  match i % 10 with
  | 0 => false
  | 9 => true
  | k => bitOf (bytes.getD (i / 10) 0) (k - 1)

/-- The bit of the message in progress on TOD_OUT, if one is (R263). -/
def State.todBit (s : State) : Option Nat :=
  match s.tp.todAt with
  | some t =>
    let i := (s.clk.age - t) * s.tp.todRate / (1000000 * agePerUs)
    if i < 10 * s.tp.todLast.length then some i else none
  | none => none

/-- The level of TOD_OUT (R67, R263, R527): idle high with EN at 1, low with EN at 0 or once a tamper has stopped it. -/
def State.todBall (s : State) : Bool :=
  if s.pwr.stage != .running then false
  else match s.todBit with
    | some i => serialBit s.tp.todLast i
    | none => s.act R.TP_TOD_CFG_EN == 1 && !s.tp.stopped

/-! ### Events (R265, R266, R584) -/

/-- The entry of an edge of input `n` at `ofs`, but for its count (R265, EVT_FIFO). -/
def State.eventEntry (s : State) (n : Nat) (falling : Bool) (ofs : Nat) : List Word :=
  let v := s.tbSub + ofs
  let ns := v / 65536 % 1000000000
  let sec := v / 65536 / 1000000000
  let w (x : Nat) : Word := BitVec.ofNat 16 x
  [w (0x8000 + n * 0x1000 + b2n falling * 0x800), w v, w ns, w (ns / 65536), w sec, w (sec / 65536), w (sec / 2 ^ 32),
   w s.clk.tickCount]

/-- Entries with the counts that run on from `count`. -/
def countEvents (count : Nat) (l : List (List Word)) : List (List Word) :=
  l.zipIdx.map (fun e => match e.1 with
    | w :: t => BitVec.ofNat 16 (w.toNat / 2048 * 2048 + (count + e.2) % 2048) :: t
    | [] => [])

/-- The input of an entry. -/
def eventInput (e : List Word) : Nat := bitsOf (e.headD 0).toNat 14 12

/-- Input `n` has detected an edge less than t_EVD, 40 ns, before an edge `ofs` after the clock in progress (R266, R267). -/
def State.evtBlind (s : State) (n ofs : Nat) : Bool :=
  match s.evt.seen.getD n none with
  | some (age, o) => decide ((s.clk.age - age) * 655360 + ofs * 3072 < (40 * 65536 + o) * 3072)
  | none => false

/-- Input `n` detects an edge. Edges of one clock stand in ascending input order (R265); the one beyond the 16th entry is lost
(R266). -/
def State.eventDetect (s : State) (n : Nat) (falling : Bool) (ofs : Nat) : State :=
  let fresh := if s.evt.lastAt = s.clk.total then min s.evt.fresh s.evt.fifo.length else 0
  let base := s.evt.fifo.length - fresh
  let room := 16 - (s.evt.fifo.length + s.evt.held.length)
  let now := insertBy (fun a b => decide (eventInput a < eventInput b)) (s.eventEntry n falling ofs) (s.evt.fifo.drop base)
  let kept := countEvents ((s.evt.count + 2048 - fresh) % 2048) (now.take (fresh + min 1 room))
  let s := { s with evt := { s.evt with
      fifo := s.evt.fifo.take base ++ kept, count := (s.evt.count + min 1 room) % 2048
      lastAt := s.clk.total, fresh := kept.length, seen := listPut s.evt.seen n (some (s.clk.age, ofs)) none } }
  if 0 < room then s
  else
    let s := (s.putB R.EVT_STAT_OVF true).addSat R.EVT_STAT_LOST 1
    if s.evt.spell then s else { (s.raise 0x0610 0xFF) with evt := { s.evt with spell := true } }

/-- EVENT_CAPTURE: an edge on input `n`, `ofs` after the clock in progress in 2⁻¹⁶ ns. Whether one in the dead time of its input
is detected is open (R266; log entry 60). -/
def State.eventCapture (s : State) (n : Nat) (falling : Bool) (ofs : Nat) : State :=
  let cfg := (s.rg 0x713003).toNat
  if !bitOf cfg (8 + n) || bitOf cfg n != falling then s
  else if !s.evtBlind n ofs then s.eventDetect n falling ofs
  else
    let missed := Config.freeValue s.free % 2 == 1
    let s := { s with free := s.free + 1 }
    if missed then s else s.eventDetect n falling ofs

/-- Sets the shadow of master `m`. -/
def EvtSt.setShadow (e : EvtSt) (m : Nat) (ws : List Word) : EvtSt :=
  { e with shadow := e.shadow.filter (fun x => x.1 != m) ++ [(m, ws)] }

/-- A read of EVT_FIFO_0 by master `m`: removes the head entry, or reserves it for the host port (R584). -/
def State.evtRead0 (s : State) (m : Nat) : Word × State :=
  match s.evt.fifo with
  | [] => (0, { s with evt := s.evt.setShadow m (List.replicate 8 0) })
  | e :: t =>
    let v := { s.evt.setShadow m e with fifo := t }
    if m = 10 then (e.headD 0, { s with evt := { v with held := s.evt.held ++ [e] } })
    else (e.headD 0, { s with evt := { v with spell := false } })

/-- A read of word `k` of EVT_FIFO, 1 to 7. -/
def State.evtReadN (s : State) (m k : Nat) : Word :=
  match s.evt.shadow.find? (fun x => x.1 == m) with
  | some e => e.2.getD k 0
  | none => (s.evt.fifo.headD []).getD k 0

/-- The reservations of a host frame become removals, or go back to the head of the FIFO (R584). -/
def State.evtSettle (s : State) (accepted : Bool) : State :=
  if s.evt.held.isEmpty then s
  else if accepted then { s with evt := { s.evt with held := [], spell := false } }
  else { s with evt := { s.evt with held := [], fifo := s.evt.held ++ s.evt.fifo } }

/-- EVT_STAT. -/
def State.evtView (s : State) (w : Word) : Word :=
  putBits w 12 8 (s.evt.fifo.length + s.evt.held.length)

end Sys2Proof.Machine
end

