-- ==== Sys2Proof/Machine/Confluence.lean ====
section
/-!
DEFINITION. The Confluence link: ports, beacons, two-way time transfer, election, agreement and USER messages
(spec/16_confluence_cascade.md, R491 to R511).
-/

namespace Sys2Proof.Machine

/-- CRC-32 over one byte, reflected (R494). -/
def crc32Byte (crc b : Nat) : Nat :=
  (List.range 8).foldl (fun c _ => if c % 2 = 1 then (c / 2) ^^^ 0xEDB88320 else c / 2) (crc ^^^ (b % 256))

/-- CRC-32 of bytes: polynomial 0x04C1_1DB7 reflected, initial value and final XOR 0xFFFF_FFFF (R494). -/
def crc32 (bytes : List Nat) : Nat := bytes.foldl crc32Byte 0xFFFFFFFF ^^^ 0xFFFFFFFF

/-- A message between its start and end characters: the body and its CRC, least significant byte first (R494). -/
def cflFrame (body : List Nat) : List Nat := body ++ leBytes 4 (crc32 body)

/-- The body of a message whose CRC agrees. -/
def cflBody (frame : List Nat) (whole : Bool) : Option (List Nat) :=
  let body := frame.take (frame.length - 4)
  if whole && cflFrame body == frame then some body else none

/-- The number that bytes `i` to `i + n − 1` of a body hold, least significant first. -/
def bodyNum (body : List Nat) (i n : Nat) : Nat := ((body.drop i).take n).foldr (fun b v => b + 256 * v) 0

/-- A stamp of a body, in 2⁻¹⁶ ns (R495). -/
def bodyStamp (body : List Nat) (i : Nat) : Nat :=
  bodyNum body i 2 + 65536 * (bodyNum body (i + 2) 4 + 1000000000 * bodyNum body (i + 6) 6)

/-- The bytes of a stamp. -/
def stampBytes (t : Nat) : List Nat :=
  leBytes 2 (t % 65536) ++ leBytes 4 (t / 65536 % 1000000000) ++ leBytes 6 (t / 65536 / 1000000000)

/-- The BEACON that a body of 42 bytes holds (R495). -/
def parseBeacon (b : List Nat) : Beacon :=
  let at_ (i : Nat) : Nat := b.getD i 0
  { version := at_ 1, src := at_ 2 / 32, cand := bitOf (at_ 2) 4, state := at_ 2 % 16
    lead := at_ 3 / 32, hops := at_ 3 / 4 % 8, cumV := bitOf (at_ 3) 1, clkq := bitOf (at_ 3) 0
    lseq := at_ 4, seq := at_ 5, trust := at_ 6 % 8, agree := bitOf (at_ 6) 3, rxV := bitOf (at_ 6) 4
    rxSeq := at_ 7, ldig := bodyNum b 8 4, tx := bodyStamp b 12, rx := bodyStamp b 24
    cum := signedOf 48 (bodyNum b 36 6) }

/-- Port `p`. -/
def State.cflPort (s : State) (p : Nat) : CflPort := s.cfl.ports.getD p {}

/-- Sets port `p`. -/
def State.setCflPort (s : State) (p : Nat) (c : CflPort) : State :=
  { s with cfl := { s.cfl with ports := listPut s.cfl.ports p c {} } }

/-- CFL_STAT.STATE: 0 OFF, 1 LISTEN, 2 LEADER, 3 FOLLOWER, 4 DEGRADED (R501). -/
def State.cflState (s : State) : Nat := s.get R.CFL_STAT_STATE

/-- This device follows a leader. -/
def State.cflFollows (s : State) : Bool := s.cflState == 3 || s.cflState == 4

/-- The link is on and port `p` is enabled (R493, R511). -/
def State.portOn (s : State) (p : Nat) : Bool :=
  s.isOn R.CFL_CTRL_EN && bitOf (s.get R.CFL_CTRL_PORT_EN) p && s.pwr.stage == .running

/-- PSTATE of port `p`: 0 DOWN, 1 UP, 2 JOINED, 3 REFUSED. -/
def State.pstate (s : State) (p : Nat) : Nat := s.get (R.CFL_PORT_STAT_PSTATE p)

/-- The agreement signal takes the value `b`; AG_DROP notes a fall. -/
def State.setAgree (s : State) (b : Bool) : State :=
  let s := if s.agreed && !b then
      { (s.putB R.CFL_STAT_AG_DROP true) with cfl := { s.cfl with good := 0 } } else s
  s.putB R.CFL_STAT_AGREE b

/-- CFL_DIGEST. -/
def State.cflDigest (s : State) : Nat := s.getW ⟨0x711013, 2⟩

/-- CFL_LDIG and the leader's SEQ follow the state (R495, R502). -/
def State.cflShow (s : State) : State :=
  match s.cflState with
  | 2 => s.putW ⟨0x711015, 2⟩ s.cflDigest
  | 3 | 4 =>
    match (s.cflPort (s.get R.CFL_STAT_UPPORT)).last with
    | some (b, _) => { (s.putW ⟨0x711015, 2⟩ b.ldig) with cfl := { s.cfl with lseq := b.lseq } }
    | none => s
  | _ => s.putW ⟨0x711015, 2⟩ 0

/-- The digest over the active words CFL_AG_CFG and CFL_SITE, recomputed when a CFL commit becomes active (R502). -/
def State.cflActivated (s : State) : State :=
  let words := (s.actRg 0x711004).toNat :: (List.range 8).map (fun i => (s.actRg (0x711018 + i)).toNat)
  s.putW ⟨0x711013, 2⟩ (crc32 (words.flatMap (fun w => leBytes 2 w)))

/-! ### Ports (R491 to R494, R499) -/

/-- The neighbour's data on port `p` is discarded (R499). -/
def State.dropNeighbour (s : State) (p : Nat) : State :=
  s.setCflPort p { s.cflPort p with last := none, whole := true, lseqAge := none, quiet := 0 }

/-- A character comes in while the port is DOWN, or while it is UP (R492). -/
def CflPort.seek (c : CflPort) (x : LinkChar) : CflPort :=
  if x.good then { c with run := c.run + 1, aligned := c.aligned || x.comma } else { c with run := 0, aligned := false }
def CflPort.watch (c : CflPort) (x : LinkChar) : CflPort :=
  { c with since := if x.good && x.comma then 0 else c.since + 1
           errs := (if x.good then [] else [0]) ++ (c.errs.map (· + 1)).filter (· < 1024) }

/-- A run that makes a port UP, and what takes it DOWN (R492). -/
def CflPort.found (c : CflPort) : Bool := decide (64 ≤ c.run) && c.aligned
def CflPort.lost (c : CflPort) : Bool := decide (4 ≤ c.errs.length) || decide (1024 ≤ c.since)

/-- The characters up to the first at which `stop` holds. -/
def CflPort.over (f : CflPort → LinkChar → CflPort) (stop : CflPort → Bool) : CflPort → List LinkChar → CflPort
  | c, [] => c
  | c, x :: t => if stop c then c else CflPort.over f stop (f c x) t

/-- LINK_UP (R492): 64 valid characters in a row, a comma among them. -/
def State.linkUp (s : State) (p : Nat) (chars : List LinkChar) : State :=
  if !s.portOn p || s.pstate p != 0 then s
  else
    let c := CflPort.over CflPort.seek CflPort.found (s.cflPort p) chars
    if c.found then
      ((s.setCflPort p { c with run := 0, aligned := false, since := 0, errs := [] }).dropNeighbour p).put (R.CFL_PORT_STAT_PSTATE p) 1
    else s.setCflPort p c

/-- LINK_DOWN (R492): 4 errors within 1,024 characters, or 1,024 characters with no comma. -/
def State.linkDown (s : State) (p : Nat) (chars : List LinkChar) : State :=
  if s.pstate p = 0 then s
  else
    let c := CflPort.over CflPort.watch CflPort.lost (s.cflPort p) chars
    if c.lost then
      (((s.setCflPort p { c with run := 0, aligned := false, since := 0, errs := [] }).dropNeighbour p).put (R.CFL_PORT_STAT_PSTATE p)
        0).raise 0x0F08 p
    else s.setCflPort p c

/-- Port `p` stops; with `leave` it sends LEAVE first (R494). -/
def State.portStop (s : State) (p : Nat) (leave : Bool) : State :=
  let s := if leave && s.pstate p != 0 && !s.clk.limp then
      s.setCflPort p { s.cflPort p with out := cflFrame [3, 1, s.get R.CFL_CTRL_ID * 32] } else s
  (s.dropNeighbour p).put (R.CFL_PORT_STAT_PSTATE p) 0

/-- A message is discarded (R494); a discarded beacon leaves the measurement that needs it not valid (R497). -/
def State.cflDiscard (s : State) (p : Nat) (beacon : Bool := false) : State :=
  let s := s.addSat (R.CFL_PORT_STAT_CRC_ERR p) 1
  let c := s.cflPort p
  let s := if c.crcSeen then s else s.raise 0x0F03 p
  s.setCflPort p { c with crcSeen := true, whole := c.whole && !beacon }

/-- LEAVE_RX (R494, R499, R505). -/
def State.leaveRx (s : State) (p : Nat) (frame : List Nat) (whole : Bool) : State :=
  if !s.portOn p || s.pstate p == 0 then s
  else match cflBody frame whole with
  | none => s.cflDiscard p
  | some body =>
    if body.headD 0 != 3 then s
    else if body.length != 3 then s.cflDiscard p
    else
      let s := s.setCflPort p { s.cflPort p with left := true }
      if s.pstate p = 2 then
        -- a beacon of the same tick is not used
        let s := if s.cflFollows && s.get R.CFL_STAT_UPPORT == p then { s with cfl := { s.cfl with ofsSeen := false } } else s
        (s.dropNeighbour p).put (R.CFL_PORT_STAT_PSTATE p) 1
      else s

/-- NEIGHBOUR_TIMEOUT (R499). -/
def State.neighbourTimeout (s : State) (p : Nat) : State :=
  if s.pstate p = 2 ∧ 4 ≤ (s.cflPort p).quiet then (s.dropNeighbour p).put (R.CFL_PORT_STAT_PSTATE p) 1 else s

/-! ### Agreement (R503) -/

/-- TIME_TOL in 2⁻¹⁶ ns. -/
def State.timeTol (s : State) : Int := (s.act R.CFL_AG_CFG_TIME_TOL * 65536 : Nat)

/-- A valid offset `th` to the leader (R498, R503). -/
def State.cflOffset (s : State) (th : Int) : State :=
  let s := s.setNum 0x71100A 3 th
  let c := s.cfl
  let s := { s with cfl := { c with ofsSeen := true, fromLead := false } }
  if s.cflState != 3 then s
  else if s.timeTol < th.natAbs then
    let s := { s with cfl := { s.cfl with good := 0 } }
    if s.agreed then (s.setAgree false).raise 0x0F04 0xFF else s
  else if c.fromLead && s.agreed then { s with cfl := { s.cfl with good := s.act R.CFL_AG_CFG_AG_GOOD } }
  else { s with cfl := { s.cfl with good := min (c.good + 1) 15 } }

/-- AGREEMENT_LOSS (R503), at the edge that ends the last tick without θ_L. -/
def State.agreementLoss (s : State) : State :=
  if s.atEdge ∧ s.cflState = 3 ∧ s.act R.CFL_AG_CFG_LOSS_N ≤ s.cfl.noOfs ∧ s.agreed then
    (s.setAgree false).raise 0x0F05 0xFF
  else s

/-- AGREEMENT_RISE (R503), in the tick of the measurement that decides. -/
def State.agreementRise (s : State) : State :=
  if s.cflState = 3 ∧ s.cfl.ofsSeen = true ∧ s.act R.CFL_AG_CFG_AG_GOOD ≤ s.cfl.good then s.setAgree true else s

/-- DEGRADED (R502), at a tick edge. -/
def State.cflDegrade (s : State) : State :=
  if s.atEdge ∧ s.cflState = 3 ∧ s.get R.CFL_TIMING_DIG_GRACE ≤ s.cfl.mism then
    ((s.put R.CFL_STAT_STATE 4).setAgree false).raise 0x0F06 0xFF
  else s

/-! ### Beacons (R495 to R499) -/

/-- Takes `n` bytes that the spec leaves open. -/
def State.openBytes (s : State) (n : Nat) : List Nat × State :=
  (leBytes n (Config.freeValue s.free), { s with free := s.free + 1 })

/-- One BEACON on port `p` with TX stamp `tx` (R495, R498). Fields that a valid bit marks as not valid are open. -/
def State.beaconOut (s : State) (p tx : Nat) : State :=
  let c := s.cflPort p
  let leader := s.cflState == 2
  let cumV := leader || (s.cflFollows && s.isOn R.CFL_STAT_OFS_V)
  let b2 := s.get R.CFL_CTRL_ID * 32 + s.get R.CFL_CTRL_CAND * 16 + s.cflState
  let b3 := s.get R.CFL_STAT_LEAD * 32 + s.get R.CFL_STAT_HOPS * 4 + b2n cumV * 2 + b2n (!s.synLocked)
  let lseq := if leader then c.txSeq else s.cfl.lseq
  let b6 := s.get R.TB_STAT_TRUST + b2n s.agreed * 8 + b2n c.last.isSome * 16
  let (rx, s) := match c.last with
    | some (b, t) => (([b.seq], stampBytes t), s)
    | none => let (x, s) := s.openBytes 13; ((x.take 1, x.drop 1), s)
  let (cum, s) := if leader then (leBytes 6 0, s)
    else if cumV then (leBytes 6 (s.getW ⟨0x71100A, 3⟩), s) else s.openBytes 6
  let body := [1, 1, b2, b3, lseq, c.txSeq, b6] ++ rx.1 ++ leBytes 4 (s.getW ⟨0x711015, 2⟩) ++ stampBytes tx ++ rx.2 ++ cum
  s.setCflPort p { c with
    txSeq := (c.txSeq + 1) % 256, sent := ((c.txSeq, tx) :: c.sent.filter (fun e => e.1 != c.txSeq)), out := cflFrame body }

/-- The counter reading at which the next beacons start: a whole millisecond plus 10,000 ns (R496). -/
def State.beaconDue (s : State) : Nat :=
  let ms := 1000000 * accPerNs
  let t := (s.clk.acc + ms - 10000 * accPerNs - 1 + (if s.cfl.beaconAt = some s.clk.total then 1 else 0)) / ms * ms
    + 10000 * accPerNs
  if t < s.clk.acc then t + ms else t

/-- BEACON_TX (R496): every port in UP sends its BEACON. -/
def State.beaconTx (s : State) : State :=
  if s.clk.limp || s.perClk == 0 then s
  else
    match s.runTo s.beaconDue with
    | none => s
    | some s =>
      let tx := (rdiv (s.clk.acc * 10 + 24 * accPerNs : Nat) (10 * accPerSub)).toNat
      let s := { s with cfl := { s.cfl with beaconAt := some s.clk.total } }
      forUp 2 (fun p s => if s.portOn p && s.pstate p != 0 then s.beaconOut p tx else s) s

/-- The neighbour fails a check (R499). -/
def State.portRefuse (s : State) (p code : Nat) : State :=
  let s := if s.pstate p = 3 then s else s.raise code p
  (s.dropNeighbour p).put (R.CFL_PORT_STAT_PSTATE p) 3

/-- The measurement that beacon `b`, arrived at `t`, completes on port `p` (R497): θ and d in 2⁻¹⁶ ns. -/
def State.cflMeasure (s : State) (p : Nat) (b : Beacon) : Option (Int × Int) :=
  let c := s.cflPort p
  match c.last, c.sent.find? (fun e => e.1 == b.rxSeq) with
  | some (b0, t4), some (_, t1) =>
    let t1 : Int := t1
    let t2 : Int := b.rx
    let t3 : Int := b0.tx
    let t4 : Int := t4
    if b.rxV && c.whole && !b.clkq && !b0.clkq && (t3 - t1).natAbs ≤ 500000 * 65536 then
      let asym := signedOf 16 (s.rg (0x711011 + p)).toNat
      some (rdiv (((t2 - t1) - (t4 - t3)) * 1000 - asym * 65536) 2000, rdiv ((t4 - t1) - (t3 - t2)) 2)
    else none
  | _, _ => none

/-- BEACON_RX (R497 to R499). -/
def State.beaconRx (s : State) (p : Nat) (frame : List Nat) (whole : Bool) (ofs : Nat) : State :=
  if !s.portOn p || s.pstate p == 0 then s
  else match cflBody frame whole with
  | none => s.cflDiscard p true
  | some body =>
    if body.headD 0 != 1 || (body.length == 42 && (s.cflPort p).left) then s
    else if body.length != 42 then s.cflDiscard p true
    else
    let b := parseBeacon body
    if b.version ≠ 1 then s.portRefuse p 0x0F01
    else if b.src = s.get R.CFL_CTRL_ID then s.portRefuse p 0x0F02
    else
      let s := if s.pstate p = 2 then s else (s.dropNeighbour p).put (R.CFL_PORT_STAT_PSTATE p) 2
      let s := (s.put (R.CFL_PORT_STAT_NEIGH p) b.src).putB (R.CFL_PORT_STAT_CLKQ p) b.clkq
      let t := (rdiv (((s.tbSub + ofs) * 100 : Nat) - 195 * 65536 : Int) 100).toNat
      let m := s.cflMeasure p b
      let c := s.cflPort p
      let age := match c.last with
        | some (b0, _) => if b0.lseq = b.lseq then c.lseqAge else some 0
        | none => none
      let s := s.setCflPort p { c with last := some (b, t), whole := true, lseqAge := age, quiet := 0 }
      let s := match m with
        | none => s
        | some (th, d) =>
          let s := s.putW ⟨0x71100D + 2 * p, 2⟩ (unsignedOf 32 d)
          if s.cflFollows && s.get R.CFL_STAT_UPPORT == p && b.cumV then s.cflOffset (b.cum + th) else s
      s.cflShow

/-! ### CFL_CTRL (R493, R500, R504, R511) -/

/-- A write of `v` to CFL_CTRL by master `m`. -/
def State.cflCtrl (s : State) (m v : Nat) : State :=
  let old := (s.rg 0x711003).toNat
  let en := bitOf v 15
  let was := bitOf old 15
  let idChange := bitsOf old 14 11 != bitsOf v 14 11
  if !en && m != 14 && m != 15 then s.reject 0x711003
  else if idChange && was && bitsOf old 10 9 != 0 then s.reject 0x711003
  else
    let s := forUp 2 (fun p s =>
      let off := bitOf old (9 + p) && !bitOf v (9 + p)
      if was && (off || !en) then s.portStop p off else s) s
    let s := s.store 0x711003 v
    let s := if idChange && was then { s with cfl := { s.cfl with listen := 0 } } else s
    if en && !was then
      let s := { s with cfl := { s.cfl with listen := 0, mism := 0, noOfs := 0, good := 0, fromLead := false } }
      (((s.put R.CFL_STAT_STATE 1).put R.CFL_STAT_LEAD 0).put R.CFL_STAT_HOPS 0).setAgree false |>.cflShow
    else if was && !en then
      (((s.put R.CFL_STAT_STATE 0).put R.CFL_STAT_LEAD 0).put R.CFL_STAT_HOPS 0).setAgree false |>.cflShow
    else s

/-! ### The tick edge (R500 to R503) -/

/-- The offer of port `p`: leader, hops, port (R500). -/
def State.portOffer (s : State) (p : Nat) : Option (Nat × Nat × Nat) :=
  match (s.cflPort p).last, (s.cflPort p).lseqAge with
  | some (b, _), some a =>
    if s.pstate p = 2 ∧ b.hops ≤ 6 ∧ b.lead ≠ s.get R.CFL_CTRL_ID ∧ a < s.act R.CFL_AG_CFG_LOSS_N then
      some (b.lead, b.hops + 1, p)
    else none
  | _, _ => none

/-- The winning offer; port 2 stands for the device itself (R500). -/
def State.cflElect (s : State) : Option (Nat × Nat × Nat) :=
  let own := if s.isOn R.CFL_CTRL_CAND && decide (s.get R.CFL_TIMING_LISTEN_T ≤ s.cfl.listen)
    then [(s.get R.CFL_CTRL_ID, 0, 2)] else []
  let offers := own ++ (s.portOffer 0).toList ++ (s.portOffer 1).toList
  offers.foldl (fun best o => match best with
    | none => some o
    | some b => if o.1 < b.1 ∨ (o.1 = b.1 ∧ o.2.1 < b.2.1) then some o else some b) none

/-- The device takes state `n`: the agreement signal on entry (R501, R503). -/
def State.cflEnter (s : State) (n : Nat) : State :=
  let old := s.cflState
  let s := s.put R.CFL_STAT_STATE n
  match n with
  | 2 => { (s.setAgree true) with cfl := { (s.setAgree true).cfl with mism := 0 } }
  | 3 =>
    if old = 3 then s
    else
      let s := { s with cfl := { s.cfl with good := 0, noOfs := 0, fromLead := old == 2 } }
      if old = 2 then s else s.setAgree false
  | 4 => s.setAgree false
  | _ => { (s.setAgree false) with cfl := { (s.setAgree false).cfl with mism := 0 } }

/-- Election at a tick edge (R500). -/
def State.cflElection (s : State) : State :=
  let before := if 2 ≤ s.cflState then some (s.get R.CFL_STAT_LEAD) else none
  match s.cflElect with
  | none => ((s.put R.CFL_STAT_LEAD 0).put R.CFL_STAT_HOPS 0).cflEnter 1
  | some (lead, hops, p) =>
    let s := (s.put R.CFL_STAT_LEAD lead).put R.CFL_STAT_HOPS hops
    let s := if before = some lead then s else (s.putB R.CFL_STAT_LEAD_CHG true).raise 0x0F07 0xFF lead
    if p = 2 then s.cflEnter 2
    else (s.put R.CFL_STAT_UPPORT p).cflEnter (if s.cflState = 4 then 4 else 3)

/-- The digests are compared at a tick edge (R502). -/
def State.cflCompare (s : State) : State :=
  if !s.cflFollows then s
  else if s.cflDigest = s.getW ⟨0x711015, 2⟩ then
    let s := { s with cfl := { s.cfl with mism := 0 } }
    if s.cflState = 4 then s.cflEnter 3 else s
  else { s with cfl := { s.cfl with mism := s.cfl.mism + 1 } }

/-- The Confluence link at a tick edge; `act`: a CFL commit becomes active. -/
def State.cflTick (s : State) (act : Bool) : State :=
  let s := if act then s.cflActivated else s
  let s := s.putB R.CFL_STAT_OFS_V s.cfl.ofsSeen
  let noOfs := if s.cfl.ofsSeen then 0 else s.cfl.noOfs + 1
  let s := { s with cfl := { s.cfl with
      ofsSeen := false, noOfs := noOfs, listen := if s.isOn R.CFL_CTRL_EN then s.cfl.listen + 1 else 0 } }
  let s := if s.isOn R.CFL_CTRL_EN then s.cflElection.cflShow.cflCompare else s.cflShow
  { s with cfl := { s.cfl with ports := s.cfl.ports.map (fun c =>
      { c with lseqAge := c.lseqAge.map (· + 1), quiet := c.quiet + 1, left := false, crcSeen := false }) } }

/-! ### USER messages (R506, R507) -/

/-- CFL_TX_STAT.BUSY. -/
def State.cflBusy (s : State) : Bool := s.clk.total < s.cfl.busyTo

/-- The clock count at which a message of `n` characters ends on the line, if it starts as soon as R496 lets it: before
the next beacon by 100 ns, or after that beacon; a BEACON takes 480 clocks (R491, R495). -/
def State.userEnd (s : State) (n : Nat) : Nat :=
  let now := match s.cfl.beaconAt with
    | some t => max s.clk.total (t + 480)
    | none => s.clk.total
  let wait := (s.beaconDue - s.clk.acc + s.perClk - 1) / max 1 s.perClk
  if s.perClk = 0 ∨ now + 10 * n + 50 ≤ s.clk.total + wait then now + 10 * n
  else s.clk.total + wait + 480 + 10 * n

/-- GO of CFL_TX_CMD, after the write is stored (R506). -/
def State.userTx (s : State) : State :=
  if s.cflBusy then s.putB R.CFL_TX_STAT_IGN true
  else
    let ports := [0, 1].filter (fun p => bitOf (s.get R.CFL_TX_CMD_PORTS) p && s.portOn p && s.pstate p == 2)
    let len := s.get R.CFL_TX_CMD_LEN
    let base := 0x2E0000 + s.get R.CFL_TX_PTR_PTR * 64
    let (words, s) := (List.range len).foldl (fun (r : List Nat × State) i =>
      let (w, s) := r.2.memReadChecked 12 (base + i)
      (r.1 ++ [w.toNat], s)) ([], s)
    if ports.isEmpty || s.clk.limp then s
    else
      let body := [2, 1, s.get R.CFL_CTRL_ID * 32, s.get R.CFL_TX_CMD_DST, 0, s.cfl.mseq, len]
        ++ words.flatMap (fun w => leBytes 2 w)
      let s := { s with cfl := { s.cfl with mseq := (s.cfl.mseq + 1) % 256, busyTo := s.userEnd (13 + 2 * len) } }
      ports.foldl (fun s p => s.setCflPort p { s.cflPort p with out := cflFrame body }) s

/-- The receive ring takes a record of `len` words from device `src` (R507). -/
def State.userDeliver (s : State) (p src : Nat) (words : List Word) : State :=
  if !s.isOn R.CFL_RX_CFG_EN then s
  else
    let size := (s.get R.CFL_RX_CFG_SIZE + 1) * 1024
    let wr := s.get R.CFL_RX_WR_V
    let free := (s.get R.CFL_RX_RD_V + 2 * size - wr % size - 1) % size
    if free < words.length + 1 then
      let s := s.addSat R.CFL_RX_STAT_DROP 1
      let s := if s.cfl.full then s else s.raise 0x0F09 p
      { s with cfl := { s.cfl with full := true } }
    else
      let base := 0x2E0000 + s.get R.CFL_RX_CFG_BASE * 1024
      let rec_ := BitVec.ofNat 16 (src * 256 + words.length) :: words
      let s := rec_.zipIdx.foldl (fun s e => s.memWriteChecked 12 (base + (wr + e.2) % size) e.1) s
      { (s.put R.CFL_RX_WR_V ((wr + rec_.length) % size)) with cfl := { s.cfl with full := false } }

/-- A whole message with `body` comes in on port `p` as a USER message (R506); one of another type is discarded. -/
def State.userBody (s : State) (p : Nat) (body : List Nat) : State :=
  let at_ (i : Nat) : Nat := body.getD i 0
  if at_ 0 != 2 then s
  else if body.length != 7 + 2 * at_ 6 || at_ 6 == 0 || 64 < at_ 6 then s.cflDiscard p
  else if s.pstate p != 2 then s
  else
    let src := at_ 2 / 32
    let now := s.clk.tickCount
    let recent := s.cfl.taken.filter (fun e => (now + 2 ^ 32 - e.2.2) % 2 ^ 32 < 256)
    if recent.any (fun e => e.1 == src && e.2.1 == at_ 5) then { s with cfl := { s.cfl with taken := recent } }
    else
      let s := { s with cfl := { s.cfl with taken := recent ++ [(src, at_ 5, now)] } }
      let me := at_ 3 == s.get R.CFL_CTRL_ID
      let words := (List.range (at_ 6)).map (fun i => BitVec.ofNat 16 (at_ (7 + 2 * i) + 256 * at_ (8 + 2 * i)))
      let s := if me || at_ 3 == 0x0F then s.userDeliver p src words else s
      let q := 1 - p
      if me || 7 ≤ at_ 4 + 1 || s.pstate q != 2 || !s.portOn q || s.get (R.CFL_PORT_STAT_NEIGH q) == src || s.clk.limp then s
      else s.setCflPort q { s.cflPort q with out := cflFrame (listPut body 4 (at_ 4 + 1)) }

/-- USER_RX (R494, R506). -/
def State.userRx (s : State) (p : Nat) (frame : List Nat) (whole : Bool) : State :=
  if !s.portOn p || s.pstate p == 0 then s
  else match cflBody frame whole with
  | none => s.cflDiscard p
  | some body => s.userBody p body

/-! ### CFL_PPS_IN (R508) -/

/-- CFL_PPS_IN: the stamp of a rising edge. -/
def State.cflPpsIn (s : State) (ofs : Nat) : State :=
  if !s.isOn R.CFL_PPS_CFG_IN_EN then s
  else
    let v := s.tbSub + ofs
    let ns := v / 65536 % 1000000000
    let sec := v / 65536 / 1000000000
    let w (x : Nat) : Word := BitVec.ofNat 16 x
    s.setRgs 0x711021 [w v, w ns, w (ns / 65536), w sec, w (sec / 65536), w (sec / 2 ^ 32)]

end Sys2Proof.Machine
end

