-- ==== Sys2Proof/Machine/Diversity.lean ====
section
/-!
DEFINITION. The fabric's run through band samples, aerial diversity and the measurement records
(spec/05_correlator_channels.md R128 to R136, R144, R145, R162; spec/06_diversity_and_records.md R169 to R196).
-/

namespace Sys2Proof.Machine

/-- The runtime of channel `c`. -/
def State.chan (s : State) (c : Nat) : Chan := s.ch.chans.getD c {}

/-- Sets the runtime of channel `c`. -/
def State.setChan (s : State) (c : Nat) (h : Chan) : State :=
  { s with ch := { s.ch with chans := listPut s.ch.chans c h {} } }

/-- The state of channel `c`: 0 IDLE, 1 ARMED, 2 PULL_IN, 3 TRACK, 4 STALE, 5 STOPPED (R150). -/
def State.chState (s : State) (c : Nat) : Nat := s.get (R.CH_STATE c)

/-- Channel `c` correlates (R150). -/
def State.correlating (s : State) (c : Nat) : Bool := 2 ≤ s.chState c && s.chState c ≤ 4

/-- AER of channel `c`: bit 1 aerial A, bit 0 aerial B (R128). -/
def State.aerOn (s : State) (c x : Nat) : Bool := bitOf (s.get (R.CH_AER c)) (1 - x)

/-- Both aerials of channel `c` are enabled (R169). -/
def State.bothAer (s : State) (c : Nat) : Bool := s.aerOn c 0 && s.aerOn c 1

/-! ### Decisions (R171 to R178) -/

/-- The kind of window in use: 0 FIXED, also where the active values make the mode unusable (R171, R178) and in a
follower, whose decisions are its master's (R184). -/
def State.divMode (s : State) (c : Nat) : Nat :=
  let len := s.act (R.CH_FRAME_LEN c)
  let ofs := s.act (R.CH_FRAME_OFS c)
  if s.isFollower c then 0
  else match s.act (R.CH_DIV_MODE c) with
  | 1 => if s.isOn (R.CH_SEC_EN c) then 1 else 0
  | 2 => if len = 0 ∨ ofs = 0 ∨ len < ofs ∨ len < s.act (R.CH_WORD_LEN c) then 0 else 2
  | _ => 0

/-- The aerial a window's energies name (R174): the other aerial when it is louder by more than HYST, evaluated to
1/256 dB; a tie names the primary. -/
def windowNames (prim hyst : Nat) (e : List Nat) : Nat :=
  let p := e.getD prim 0
  let o := e.getD (1 - prim) 0
  if o ≤ p then prim
  else if p = 0 then 1 - prim
  else if 64 * hyst < dbFree o p then 1 - prim else prim

/-- The end of a decision window of channel `c` (R174, R175, R181). -/
def State.windowEnd (s : State) (c : Nat) (h : Chan) : Chan :=
  let h := { h with winOn := false, winEnded := true }
  if h.winVoid || h.tickZero || !s.bothAer c then h
  else
    let n := windowNames h.prim (s.act (R.CH_HYST c)) h.winE
    if n = h.prim then { h with decision := none }
    else if h.dphiV then { h with decision := some n, decSamples := 0 }
    else h

/-- A window begins (R173, R174, R177). -/
def State.windowStart (s : State) (c : Nat) (h : Chan) : Chan :=
  { h with winOn := true, winE := [0, 0], winEpochs := 0, winVoid := s.chState c != 3 || h.tickZero }

/-- The segment in progress ends (R173, R179). -/
def Chan.closeSegment (h : Chan) : Chan :=
  let a := h.seg.getD 0 {}
  let b := h.seg.getD 1 {}
  { h with
    seg := [{}, {}], segEnd := true
    winE := if h.winOn then [h.winE.getD 0 0 + a.energy, h.winE.getD 1 0 + b.energy] else h.winE
    cross := ⟨h.cross.re + b.re * a.re + b.im * a.im, h.cross.im + b.im * a.re - b.re * a.im⟩ }

/-- The primary chip counter wraps (R131, R136, R171 to R173). -/
def State.onWrap (s : State) (c : Nat) (h : Chan) : Chan :=
  let h := h.closeSegment
  let sl := s.get (R.CH_SEC_LEN c)
  let h := { h with
    head := [h.acc.getD 2 {}, h.acc.getD 9 {}], epochOfs := h.perSamples, noEpoch := false
    sec := if sl = 0 then 0 else (h.sec + 1) % sl, segSamples := 0, wraps := h.wraps + 1 }
  match s.divMode c with
  | 1 =>
    if h.sec = 0 then s.windowStart c (if h.winOn then s.windowEnd c h else h) else h
  | 2 =>
    let h := if h.winOn then { h with winEpochs := h.winEpochs + 1 } else h
    let h := if h.winOn && h.winEpochs == s.act (R.CH_WORD_LEN c) then s.windowEnd c h else h
    let ofs := s.act (R.CH_FRAME_OFS c)
    if h.anchored && ofs ≤ h.wraps && (h.wraps - ofs) % s.act (R.CH_FRAME_LEN c) == 0 then s.windowStart c h else h
  | _ => { h with winOn := false }

/-! ### The run through samples -/

/-- Delay of tap `t` in 1/320 chip (R132, R133). -/
def State.tapDelay (s : State) (c : Nat) (h : Chan) (t : Nat) : Int :=
  if t < 5 then ((t : Int) - 2) * s.act (R.CH_LADDER_SP c)
  else if t = 5 then
    s.actS (R.CH_ROAM_OFS c) + (if s.act (R.CH_ROAM_MODE c) = 1 then (h.roamM * s.act (R.CH_ROAM_STEP c) : Nat) else 0)
  else 320 * (s.getW (R.CH_NOISE_OFS c) : Nat)

/-- The replica value of tap `t` for aerial `x` (R130, R132, R183). -/
def State.tapReplica (s : State) (c : Nat) (h : Chan) (x t : Nat) : Int :=
  let den : Nat := 2 ^ 48 * 5120
  let skew : Int := if x = 1 then s.actS (R.CH_AER_SKEW_SKEW (s.get (R.CH_BAND c))) * s.codeRate c * 320 else 0
  let p : Int := ((h.chip * 2 ^ 48 + h.codeFrac) * 5120 : Nat) - s.tapDelay c h t * 2 ^ 52 - skew
  let q := (p % ((max 1 (s.codeLen c) * den : Nat) : Int)).toNat
  s.replica c (q / den) (q % den) den h.sec h.ran

/-- One band sample (i, q) of aerial `x` enters the seven taps (R129, R134, R173). -/
def State.tapSample (s : State) (c x : Nat) (i q : Int) (h : Chan) : Chan :=
  if !s.aerOn c x || (i = 0 && q = 0) then h
  else
    let k := h.carrFrac / 2 ^ 43
    let h := (List.range 7).foldl (fun (h : Chan) t =>
      let j := 7 * x + t
      let (v, sat) := (h.acc.getD j {}).mix (s.tapReplica c h x t) i q k
      { h with acc := listPut h.acc j v
               satA := h.satA || (sat && x == 0), satB := h.satB || (sat && x == 1) }) h
    let r := s.tapReplica c h x 2
    let cs := cosTable.getD k 0
    let sn := cosTable.getD ((k + 24) % 32) 0
    let g := h.seg.getD x {}
    { h with seg := listPut h.seg x ⟨g.re + r * (i * cs + q * sn), g.im + r * (q * cs - i * sn)⟩ }

/-- The NCOs run through `k` samples in which the chip counter wraps at most once, at the last (R144, R145). A wrap between
a period's last sample and the latch sample of the next counts in the period that ends (log entry 121). -/
def State.advance (s : State) (c k : Nat) (h : Chan) : Chan :=
  let len := max 1 (s.codeLen c) * 2 ^ 48
  let code := h.chip * 2 ^ 48 + h.codeFrac + k * s.codeRate c
  let carr : Int := h.carrFrac + k * s.carrRate c
  let h := { h with
    carrFrac := (carr % 2 ^ 48).toNat
    cycles := ((h.cycles + carr / 2 ^ 48) % 2 ^ 32).toNat
    perSamples := h.perSamples + k, segSamples := h.segSamples + k, ran := h.ran + k
    decSamples := h.decSamples + k
    chip := code % len / 2 ^ 48, codeFrac := code % 2 ^ 48 }
  if len ≤ code then s.onWrap c h
  else if 1638400 ≤ h.segSamples then { h.closeSegment with segSamples := 0 }
  else h

/-- Samples to the next wrap of the chip counter or end of a 20 ms segment, at most `n`. -/
def State.stretch (s : State) (c n : Nat) (h : Chan) : Nat :=
  let len := max 1 (s.codeLen c) * 2 ^ 48
  let rate := s.codeRate c
  let toWrap := if rate = 0 then n else (len - (h.chip * 2 ^ 48 + h.codeFrac) + rate - 1) / rate
  max 1 (min n (min toWrap (1638400 - h.segSamples)))

/-- Channel `c` runs through `n` samples; `stopEnd` stops it after the end of a decision window. -/
def State.chanRun (s : State) (c : Nat) (stopEnd : Bool) :
    Nat → Nat → List (Int × Int) → List (Int × Int) → Chan → Chan
  | 0, _, _, _, h => h
  | fuel + 1, n, la, lb, h =>
    if n = 0 ∨ (stopEnd ∧ h.winEnded) then h
    else
      match la, lb with
      | [], [] =>
        let k := s.stretch c n h
        s.chanRun c stopEnd fuel (n - k) [] [] (s.advance c k h)
      | la, lb =>
        let a := la.headD (0, 0)
        let b := lb.headD (0, 0)
        let h := s.tapSample c 1 b.1 b.2 (s.tapSample c 0 a.1 a.2 h)
        s.chanRun c stopEnd fuel (n - 1) la.tail lb.tail (s.advance c 1 h)

/-- Aerial `x` of channel `c` is enabled and its path has not delivered samples through the tick so far (R93). -/
def State.tickZero (s : State) (c x : Nat) : Bool :=
  let i := 3 * x + s.get (R.CH_BAND c)
  s.aerOn c x && !(s.fe.whole.getD i false && s.fe.deliver.getD i false)

/-- DIV_DECISION: the samples of the channel's two paths come, channel `c` runs to the end of the decision window that ends in
the tick in progress, and decides. -/
def State.divDecision (s : State) (c : Nat) (a b : List Adc) : State :=
  let i := s.get (R.CH_BAND c)
  let s := (s.takeSamples i a).takeSamples (3 + i) b
  if !s.correlating c then s
  else
    let h := { s.chan c with winEnded := false, tickZero := s.tickZero c 0 || s.tickZero c 1 }
    let come := max (s.dfe.taken.getD i []).length (s.dfe.taken.getD (3 + i) []).length
    let n := come - h.ran
    let h' := s.chanRun c true (n + 1) n (((s.fabric i).take come).drop h.ran) (((s.fabric (3 + i)).take come).drop h.ran) h
    if h'.winEnded then s.setChan c { h' with decBefore := some (h.decBefore.getD h.decision) } else s

/-! ### Inter-aerial phase (R179 to R181) -/

/-- The two prompt energies exceed their noise-tap energies by at least DPHI_TH dB (R179). -/
def State.dphiTest (s : State) (h : Chan) : Bool :=
  let th := s.get R.CH_DIV_CFG_DPHI_TH
  let ok (x : Nat) : Bool :=
    let p := (h.acc.getD (7 * x + 2) {}).energy
    let n := (h.acc.getD (7 * x + 6) {}).energy
    0 < p && 10 ^ th * n ^ 10 ≤ p ^ 10
  ok 0 && ok 1

/-- Σ P_B × conj (P_A) over the period's segments (R179); a period in which no segment ends is part of one. -/
def Chan.crossSum (h : Chan) : Cplx :=
  let a := h.acc.getD 2 {}
  let b := h.acc.getD 9 {}
  if h.segEnd then h.cross else ⟨b.re * a.re + b.im * a.im, b.im * a.re - b.re * a.im⟩

/-- DPHI at the end of a period (R179, R180, R185). -/
def State.dphiUpdate (s : State) (c : Nat) (h : Chan) : Chan :=
  let x := h.crossSum
  let valid := s.bothAer c && !h.zeroA && !h.zeroB && s.dphiTest h && (x.re != 0 || x.im != 0)
  if !valid then { h with dphiLapse := h.dphiLapse + 1 }
  else
    let m : Int := (rdiv48 (argTurn x.re x.im))
    let w := signedOf 16 (unsignedOf 16 (m - h.dphi))
    let tc := s.act (R.CH_DPHI_TC c)
    if !h.dphiInit then
      { h with dphi := signedOf 32 (unsignedOf 32 (h.dphi + w)), dphiInit := true, dphiGood := 0, dphiLapse := 0
               dphiInitPer := true }
    else
      let d : Int := (2 * w + 2 ^ tc) / (2 * 2 ^ tc)
      let good := h.dphiGood + 1
      { h with dphi := signedOf 32 (unsignedOf 32 (h.dphi + d)), dphiGood := good, dphiLapse := 0
               dphiV := h.dphiV || 2 ^ tc ≤ good }
where
  /-- An angle in 2⁻⁴⁸ turn in units of 2⁻¹⁶ turn, with the rounding the spec leaves open (log entry 10). -/
  rdiv48 (z : Nat) : Int := (z / 2 ^ 32 : Nat) + (if z % 2 ^ 32 != 0 && Config.roundUp z (2 ^ 32) then 1 else 0)

/-- The primary aerial of the channel changes to `o` at a period start edge (R181): the carrier NCO takes the step. `brk`: the
switch breaks the phase where DPHI_V is 0. -/
def Chan.switchTo (h : Chan) (o : Nat) (reason : Nat) (brk : Bool) : Chan :=
  let step : Int := (if o = 1 then h.dphi else -h.dphi) * 2 ^ 32
  let v : Int := h.cycles * 2 ^ 48 + h.carrFrac + step
  { h with
    cycles := (v / 2 ^ 48 % 2 ^ 32).toNat, carrFrac := (v % 2 ^ 48).toNat
    prim := o, decision := none, winVoid := true
    start := { h.start with sw := true, swr := reason, phBrk := brk && !h.dphiV } }

/-- The primary aerial at a period start edge (R171, R175 to R177, R184); `za`, `zb`: the aerial's path delivers zeros from
that edge. A decision acts at the first such edge 128 clocks after its window, in TRACK, or not at all; in FIXED none is kept. -/
def State.periodSwitch (s : State) (c : Nat) (za zb : Bool) (h : Chan) : Chan :=
  if !s.bothAer c then h
  else
    let zp := if h.prim = 0 then za else zb
    let zo := if h.prim = 0 then zb else za
    if s.isOn R.CH_DIV_CFG_FORCE_EN && zp && !zo then h.switchTo (1 - h.prim) 2 true
    else
      match h.decision with
      | some o =>
        if s.divMode c = 0 then { h with decision := none }
        else if 6 * (h.decSamples + 1) < 128 then h
        else if s.chState c = 3 ∧ o ≠ h.prim then h.switchTo o 1 false
        else { h with decision := none }
      | none => h

/-! ### Records (R190 to R196) -/

/-- The smallest shift, up to 8, that brings every value into 16 bits (R195). -/
def expFor (vs : List Int) : Nat :=
  ((List.range 9).find? (fun e => vs.all (fun v => -32768 ≤ v / 2 ^ e && v / 2 ^ e ≤ 32767))).getD 8

/-- A value's word under exponent `e`. -/
def expWord (e : Nat) (v : Int) : Word := BitVec.ofInt 16 (v / 2 ^ e)

/-- I and Q of sums. -/
def iqs (l : List Cplx) : List Int := l.flatMap (fun x => [x.re, x.im])

/-- The 48 words of a record (R194 to R196). -/
def recordWords (p : PeriodBuf) (seq : Nat) : List Word :=
  let e := p.start
  let w (n : Nat) : Word := BitVec.ofNat 16 n
  let x := e.prim
  let both := p.aer = 3
  let prim := ((List.range 6).map (fun t => p.acc.getD (7 * x + t) {})) ++ [p.head.getD x {}]
  let other := if both then [p.acc.getD (7 * (1 - x) + 2) {}, p.head.getD (1 - x) {}] else [{}, {}]
  let ep := expFor (iqs prim)
  let es := if both then expFor (iqs other) else 0
  let flags0 := e.st * 0x2000 + e.prim * 0x1000 + b2n e.sw * 0x800 + e.swr * 0x200 + b2n e.phBrk * 0x100
    + b2n p.stale * 0x80 + b2n p.stopped * 0x40 + b2n p.partialPer * 0x20 + b2n p.clkq * 0x10 + b2n p.invalid * 8
    + b2n p.noEpoch * 4 + b2n e.dphiV * 2 + b2n p.dphiInit
  let flags1 := ep * 0x1000 + es * 0x100 + b2n p.satA * 0x80 + b2n p.satB * 0x40 + b2n p.zeroA * 0x20
    + b2n p.zeroB * 0x10 + e.roamM
  let dphi := unsignedOf 32 e.dphi
  [w seq, w e.tick, w flags0, w flags1] ++ (List.range 6).map (fun i => e.stampW.getD i 0)
  ++ [w e.chip, w (e.sec * 32 + e.chip / 65536), w (e.codeFrac / 2 ^ 16), w (e.codeFrac / 2 ^ 32),
      w (e.carrFrac / 2 ^ 16), w (e.carrFrac / 2 ^ 32), w e.cycles, w (e.cycles / 65536),
      w e.codeRate, w (e.codeRate / 65536), w (e.codeRate / 2 ^ 32),
      w e.carrRate, w (e.carrRate / 65536), w (e.carrRate / 2 ^ 32), w dphi, w (dphi / 65536),
      w p.epochOfs, w (p.epochOfs / 65536 % 32)]
  ++ (iqs prim).map (expWord ep)
  ++ [w (dbWord (p.acc.getD (7 * x + 6) {}).energy)]
  ++ (iqs other).map (expWord es)
  ++ [if both then w (dbWord (p.acc.getD (7 * (1 - x) + 6) {}).energy) else 0]

/-- The GWA of channel `c`'s record with sequence number `seq` (R190). -/
def State.recordBase (s : State) (c seq : Nat) : Nat :=
  s.act R.CH_REC_BASE_BASE * 0x1000 + seq % 2 * 0x2400 + c * 0x30

/-- Sets bit `c % 16` of register `c / 16` of a group of flags at `base`. -/
def State.setFlag (s : State) (base c : Nat) : State :=
  let a := base + c / 16
  s.setRg a (s.rg a ||| BitVec.ofNat 16 (2 ^ (c % 16)))

/-- The waiting record of channel `c` is posted and its ready flag rises (R190 to R192, R560). -/
def State.postRecord (s : State) (c : Nat) (bad : List Nat) : State :=
  let h := s.chan c
  match h.buf with
  | none => s
  | some p =>
    let base := s.recordBase c h.seq
    let s := s.setChan c { h with buf := none, seq := (h.seq + 1) % 65536 }
    let s := ((recordWords p h.seq).zipIdx).foldl (fun s e => s.memWriteChecked 8 (base + e.2) e.1) s
    let s := bad.foldl (fun s k =>
      if s.takesWrite 8 (base + k) then ((s.poisonWord (base + k)).setFlag 0x712020 c).parityFault c (base + k) else s) s
    s.setFlag 0x705038 c

/-- The record post of channels below `n`, in ascending order (R192). -/
def State.postBelow (s : State) (n : Nat) : State := forUp n (fun c s => s.postRecord c []) s

/-- The record post is over: it lasts from the tick edge to clock 12,287 (R28). -/
def State.postOver (s : State) : Bool := decide (12288 ≤ s.clk.phase)

/-- PERIOD_END (R190 to R192): the records of lower channels, then that of channel `c`, within the record post (R28). -/
def State.periodEnd (s : State) (c : Nat) (bad : List Nat) : State :=
  if s.postOver then s.postBelow 192 else (s.postBelow c).postRecord c bad

end Sys2Proof.Machine
end

