-- ==== Sys2Proof/Machine/Channel.lean ====
section
/-!
DEFINITION. Channel commands, descriptor writes and the fabric at a tick edge (spec/05_correlator_channels.md R127,
R131 to R135, R146 to R167; spec/06_diversity_and_records.md R170 to R187).
-/

namespace Sys2Proof.Machine

/-! ### Commands (R149, R151, R152) -/

/-- A rejected command (R151, CH_CMD_STAT): `why` is the low nibble of its fault code. -/
def State.chRejectCmd (s : State) (cmd c why : Nat) : State :=
  let s := ((s.putB R.CH_CMD_STAT_REJ true).put R.CH_CMD_STAT_CMD cmd).put R.CH_CMD_STAT_WHY why
  (s.put R.CH_CMD_STAT_CHAN c).raise (0x0300 + why) c cmd

/-- The follower of channel `c`, if it has one (R148). -/
def State.followerOf (s : State) (c : Nat) : Option Nat :=
  if c % 2 = 0 ∧ s.isOn (R.CH_PAIR (c + 1)) ∧ !s.isOn (R.CH_PAIR c) then some (c + 1) else none

/-- Channel `c` is IDLE or STOPPED. -/
def State.chHalted (s : State) (c : Nat) : Bool := s.chState c == 0 || s.chState c == 5

/-- The descriptor checks of START (R149, R152). -/
def State.startBad (s : State) (c : Nat) : Bool :=
  let subc := s.get (R.CH_SUBC c)
  let len := s.codeLen c
  let secLen := s.get (R.CH_SEC_LEN c)
  s.get (R.CH_AER c) == 0 || len == 0 || decide (len ≤ s.getW (R.CH_CODE_CHIP_INIT c))
  || (s.get (R.CH_GEN c) == 0 && s.genLen c 4 == 0)
  || ((subc == 1 || subc == 2) && s.get (R.CH_SUBC_RATIO c) == 0)
  || (s.isOn (R.CH_SEC_EN c) && (secLen == 0 || decide (secLen ≤ s.get (R.CH_SEC_PH_INIT c))))
  || (match s.followerOf c with
      | none => false
      | some f => !s.chHalted f || s.get (R.CH_BAND f) != s.get (R.CH_BAND c) || s.get (R.CH_PAIR_DEN f) == 0)

/-- START_TICK lies outside its window (R152). -/
def State.startTickBad (s : State) (c : Nat) : Bool :=
  !s.isOn (R.CH_START_NOW c) &&
    (let d := (s.get (R.CH_START_TICK c) + 65536 - s.clk.tickCount % 65536) % 65536
     d < 1 || 32767 < d)

/-- Applies `f` to channel `c` and to its follower (R149). -/
def State.bothOfPair (s : State) (c : Nat) (f : Nat → State → State) : State :=
  match s.followerOf c with
  | none => f c s
  | some d => f d (f c s)

/-- Channel `c` becomes ARMED (R151, R157). -/
def State.chArm (s : State) (ho : Bool) (c : Nat) : State :=
  let was := s.chState c
  let s := (s.put (R.CH_STATE c) 1).putB (R.CH_HO c) ho
  s.setChan c { s.chan c with stopNext := false, modeNext := 0, stopLate := false, modeLate := 0,
                              limitHit := false, shedNext := false, ho := false
                              armedAt := s.clk.total, armedFrom := was }

/-- Sets a command of channel `c` for the next tick edge, or, in the commit guard, for the one after (R158). `mode` is 2
for TRACK, 3 for PULL, 0 for STOP. -/
def State.chLater (s : State) (mode c : Nat) : State :=
  let h := s.chan c
  s.setChan c (if s.inGuard then (if mode = 0 then { h with stopLate := true } else { h with modeLate := mode })
    else if mode = 0 then { h with stopNext := true } else { h with modeNext := mode })

/-- A write of CH_CMD with command `cmd` for channel `c` (R149, R151, R152). A START that fails the descriptor check and the
window of START_TICK records 0x0302 alone (log entry 122). -/
def State.chCmd (s : State) (cmd c : Nat) : State :=
  let st := s.chState c
  if s.isFollower c then s.chRejectCmd cmd c 1
  else match cmd with
  | 1 =>
    if !s.chHalted c then s.chRejectCmd cmd c 1
    else if s.startBad c then s.chRejectCmd cmd c 2
    else if s.startTickBad c then s.chRejectCmd cmd c 5
    else s.bothOfPair c (fun d s => s.chArm false d)
  | 2 =>
    if st = 2 ∨ (st = 4 ∧ s.get (R.CH_PREV c) = 0) then s.bothOfPair c (fun d s => s.chLater 2 d)
    else s.chRejectCmd cmd c 1
  | 3 =>
    if st = 3 ∨ (st = 4 ∧ s.get (R.CH_PREV c) = 1) then s.bothOfPair c (fun d s => s.chLater 3 d)
    else s.chRejectCmd cmd c 1
  | 4 =>
    if 1 ≤ st ∧ st ≤ 4 then s.bothOfPair c (fun d s => s.chLater 0 d) else s.chRejectCmd cmd c 1
  | 5 =>
    if st = 5 then s.bothOfPair c (fun d s => s.put (R.CH_STATE d) 0) else s.chRejectCmd cmd c 1
  | _ => s

/-! ### Descriptor writes (R146, R159, R165) -/

/-- A rejected descriptor write (R146, CH_DESC_REJ). -/
def State.descReject (s : State) (c w : Nat) : State :=
  ((s.putB R.CH_DESC_REJ_REJ true).put R.CH_DESC_REJ_CHAN c).put R.CH_DESC_REJ_WORD w

/-- The most significant word of CODE_RATE (`w` 0x24) or CARR_RATE (0x27): the whole value moves into the shadow, if it
lies in its range (R144 to R146). -/
def State.rateWrite (s : State) (c w v : Nat) : State :=
  let a := 0x640000 + c * 0x40 + w
  let lo := (wmGet 0 s.latch (a - 2)).toNat + 65536 * (wmGet 0 s.latch (a - 1)).toNat
  let x := lo + 2 ^ 32 * v
  let ok := if w = 0x24 then x ≤ 0x400000000000 else (signedOf 48 x).natAbs ≤ 0x600000000000
  if ok then s.setWords (a - 2) 3 x else s.descReject c w

/-- The bits of word `w` of channel `c`'s descriptor that its GEN gives a meaning, of those of the layout; the others are
reserved (R16, R166). -/
def State.genMask (s : State) (c w : Nat) : Nat :=
  match s.get (R.CH_GEN c) with
  | 0 => if w = 0x09 ∨ w = 0x0B then 0x07FF else if w = 0x0D ∨ w = 0x0F then 0x000F else 0xFFFF
  | 1 => if w = 0x07 then 1 else if 0x08 ≤ w ∧ w ≤ 0x0F then 0 else 0xFFFF
  | _ => if w = 0x05 then 3 else if 0x06 ≤ w ∧ w ≤ 0x0F then 0 else 0xFFFF

/-- A write of `v` to word `w` of the descriptor of channel `c`. -/
def State.descStore (s : State) (c w v : Nat) : State :=
  let a := 0x640000 + c * 0x40 + w
  match regAt a with
  | none => s
  | some (g, _) =>
    let v := v &&& s.genMask c w
    let old := (s.rg a).toNat
    if !s.chHalted c && g.changesStopped old v then s.descReject c w
    else if w = 0 ∧ c % 2 = 0 ∧ bitOf v 4 then s.descReject c w
    else if w = 0x22 ∨ w = 0x23 ∨ w = 0x25 ∨ w = 0x26 then
      { s with latch := wmPut 0 a (BitVec.ofNat 16 v) s.latch }
    else if w = 0x24 ∨ w = 0x27 then s.rateWrite c w v
    else if !g.accepts v then s.descReject c w
    else
      let s := s.setRg a (BitVec.ofNat 16 (g.stored old v))
      if w = 0x32 then s.setChan c { s.chan c with ofsWritten := true } else s

/-- CH_COMMIT: besides the shadows, the writes of FRAME_OFS go with the copy (R172). -/
def State.chCommit (s : State) : State :=
  let late := s.inGuard
  let s := s.commit 0x705
  { s with ch := { s.ch with chans := s.ch.chans.map (fun h =>
      if !h.ofsWritten then h
      else if late then { h with ofsWritten := false, ofsLate := true }
      else { h with ofsWritten := false, ofsPending := true }) } }

/-! ### Events -/

/-- STALE_LIMIT (R154): STALE_RUN of channel `c` has reached CH_STALE_LIM; the channel stops at the next tick edge. -/
def State.staleLimit (s : State) (c : Nat) : State :=
  let lim := s.get R.CH_STALE_LIM_LIMIT
  let m := s.masterOf c
  if lim != 0 && s.chState m == 4 && decide (lim ≤ s.get (R.CH_STALE_RUN m)) then
    s.bothOfPair m (fun d s => s.setChan d { s.chan d with limitHit := true })
  else s

/-- DPHI_LAPSE (R180): after DPHI_LAPSE periods without a valid update DPHI_V returns to 0. -/
def State.dphiLapse (s : State) (c : Nat) : State :=
  let h := s.chan c
  if s.correlating c && decide (max 1 (s.act (R.CH_DPHI_LAPSE c)) ≤ h.dphiLapse) then
    s.setChan c { h with dphiV := false, dphiInit := false, dphiGood := 0 }
  else s

/-- Tick edges a condition of R187 lasts. -/
def State.dirPersist (s : State) : Nat := 100 * s.get R.CH_DIR_CFG_DIR_PERSIST

/-- DIR_SUSPECT (R187), at a tick edge. -/
def State.dirSuspect (s : State) (g : Nat) : State :=
  if s.atEdge && !s.isOn (R.CH_DIR_CONC_SUSPECT g) && decide (s.dirPersist ≤ s.ch.dirHold.getD g 0) then
    (s.putB (R.CH_DIR_CONC_SUSPECT g) true).raise 0x0307 g
  else s

/-! ### The tick that ends -/

/-- The paths of channel `c` over the tick that ends: samples missing on an enabled aerial set its ZERO flag (R185). -/
def State.chFlags (s : State) (c : Nat) (h : Chan) : Chan :=
  let b := s.get (R.CH_BAND c)
  let z (x : Nat) : Bool := s.aerOn c x && !s.fe.lastWhole.getD (3 * x + b) false
  -- windows that ended earlier in a tick of zeros are void too (R174)
  let h := match h.decBefore with
    | some d => if z 0 || z 1 then { h with decision := d, decSamples := h.ran } else h
    | none => h
  { h with zeroA := h.zeroA || z 0, zeroB := h.zeroB || z 1, tickZero := z 0 || z 1, decBefore := none
           winVoid := h.winVoid || z 0 || z 1, invalid := h.invalid || s.clk.limp }

/-- Channel `c` runs through what is left of the tick that ends, of `n` band samples; `outs` are what the paths gave. -/
def State.chTickRun (s : State) (outs : List PathOut) (n c : Nat) : State :=
  if !s.correlating c then
    if s.chState c = 1 ∧ (s.chan c).ho then s.setChan c { s.chan c with hoAge := (s.chan c).hoAge + n } else s
  else
    let h := s.chFlags c (s.chan c)
    let fab (i : Nat) : List (Int × Int) := ((outs.getD i {}).fab.map (fun e => (e.i, e.q))).drop h.ran
    let b := s.get (R.CH_BAND c)
    let k := n - h.ran
    let h := s.chanRun c false (k + 1) k (fab b) (fab (3 + b)) { h with winEnded := false }
    s.setChan c { h with ran := 0, perTicks := h.perTicks + 1 }

/-- The finished period of channel `c` as it waits to be posted (R136, R155, R191). -/
def State.periodBuf (s : State) (c : Nat) (h : Chan) (stopped : Bool) : PeriodBuf :=
  { start := h.start, acc := h.acc
    head := if h.noEpoch then [h.acc.getD 2 {}, h.acc.getD 9 {}] else h.head
    epochOfs := if h.noEpoch then Config.epochNone c else h.epochOfs
    noEpoch := h.noEpoch, stale := h.staleSeen, stopped := stopped, partialPer := stopped
    clkq := h.clkq, invalid := h.invalid, dphiInit := h.dphiInitPer
    satA := h.satA, satB := h.satB, zeroA := h.zeroA, zeroB := h.zeroB, aer := s.get (R.CH_AER c) }

/-- The end of the period of channel `c` at a tick edge: DPHI is updated, saturation is reported and the sums wait to
be posted (R134, R154, R155, R179). -/
def State.periodFinish (s : State) (c : Nat) (stopped : Bool) : State :=
  let h := s.dphiUpdate c { s.chan c with dphiInitPer := false }
  let sat := h.satA || h.satB
  let whole := decide (h.perLen ≤ h.perTicks)
  let s := if sat && !h.satPrev then s.raise 0x0304 c else s
  let s := (s.putB (R.CH_SAT_A c) h.satA).putB (R.CH_SAT_B c) h.satB
  let s := if whole then s.putW (R.CH_PERIODS c) ((s.getW (R.CH_PERIODS c) + 1) % 2 ^ 32) else s
  let s := if s.chState c = 4 then s.addSat (R.CH_STALE_RUN c) 1 else s
  s.setChan c { h with satPrev := sat, buf := some (s.periodBuf c h stopped) }

/-! ### What becomes active at an edge -/

/-- The words of channel `c` in which active values of `s` and `o` differ. -/
def State.actDiffers (s o : State) (c w : Nat) : Bool :=
  s.actRg (0x640000 + c * 0x40 + w) != o.actRg (0x640000 + c * 0x40 + w)

/-- What activation at this edge brings to channel `c`; `o` is the state before it (R131, R133, R172, R174, R178). -/
def State.chActivated (s o : State) (c : Nat) : State :=
  let h := s.chan c
  let roam := s.actDiffers o c 0x15 || s.actDiffers o c 0x16
  let div := [0x30, 0x31, 0x32, 0x33].any (s.actDiffers o c)
  let now := (o.pendingOf 0x705).isSome
  let adv := s.act (R.CH_SEC_ADV c)
  let secLen := s.get (R.CH_SEC_LEN c)
  let h := if roam then { h with roamM := 0, roamFresh := true } else h
  let h := if div || adv != 0 then { h with winVoid := true } else h
  let h := if h.ofsPending then { h with wraps := 0, anchored := true } else h
  let h := { h with ofsPending := h.ofsLate, ofsLate := false }
  let h := if adv != 0 && s.correlating c && secLen != 0 then { h with sec := (h.sec + adv) % secLen } else h
  let s := s.setChan c h
  let s := if adv != 0 then s.putBoth (R.CH_SEC_ADV c) 0 else s
  if now && !s.isFollower c && s.act (R.CH_DIV_MODE c) != 0 && s.divMode c == 0 then s.raise 0x0308 c else s

/-! ### The edge -/

/-- Aerial `x` of channel `c` delivers zeros from this edge (R93, R170, R176). -/
def State.zeroFrom (s : State) (c x : Nat) : Bool := !s.fe.deliver.getD (3 * x + s.get (R.CH_BAND c)) false

/-- The latch stamp (R163): the time base less 19,200,000 units of 2⁻¹⁶ ns, modulo its range. -/
def State.latchStamp (s : State) : List Word :=
  let m := 2 ^ 48 * 1000000000 * 65536
  let v := (s.tbSub + m - 19200000) % m
  let w (n : Nat) : Word := BitVec.ofNat 16 n
  let ns := v / 65536 % 1000000000
  let sec := v / 65536 / 1000000000
  [w v, w ns, w (ns / 65536), w sec, w (sec / 65536), w (sec / 2 ^ 32)]

/-- What the latch takes for channel `c` (R162, R194). -/
def State.latchEdge (s : State) (c : Nat) (h : Chan) : StartEdge :=
  { h.start with
    tick := s.clk.tickCount, stampW := s.latchStamp
    chip := h.chip, sec := h.sec, codeFrac := h.codeFrac, carrFrac := h.carrFrac, cycles := h.cycles
    codeRate := s.codeRate c, carrRate := unsignedOf 48 (s.carrRate c), dphi := h.dphi, dphiV := h.dphiV
    st := s.chState c, prim := h.prim
    roamM := if s.act (R.CH_ROAM_MODE c) = 1 then h.roamM else 0 }

/-- The length in ticks of a period of channel `c` that starts now (R135). -/
def State.periodLen (s : State) (c : Nat) : Nat :=
  let n := s.act (R.CH_INT_LEN c)
  if n = 0 then 1 + Config.intLenZero c % 20 else n

/-- The position of the next period (R133): the one after that of the last, or the first, where a ROAM field becomes active
at this edge. -/
def State.roamNext (s : State) (c : Nat) (h : Chan) : Nat :=
  if !h.roamFresh ∧ s.act (R.CH_ROAM_MODE c) = 1 ∧ h.roamM < s.act (R.CH_ROAM_N c) then h.roamM + 1 else 0

/-- The switch of a period start edge (R175, R176, R181, R184): a follower takes its master's. -/
def State.edgeSwitch (s : State) (c : Nat) (h : Chan) : Chan :=
  let h := { h with start := {} }
  if s.isFollower c then
    let m := s.chan (c - 1)
    if s.bothAer c && m.prim != h.prim then h.switchTo m.prim m.start.swr true else h
  else s.periodSwitch c (s.zeroFrom c 0) (s.zeroFrom c 1) h

/-- A period of channel `c` starts at this edge (R135, R136, R180, R191). -/
def State.periodStart (s : State) (c : Nat) (h : Chan) : State :=
  let h := { h with
    acc := List.replicate 14 {}, head := [{}, {}], epochOfs := 0, noEpoch := true, perSamples := 0, perTicks := 0
    perLen := s.periodLen c, satA := false, satB := false, zeroA := false, zeroB := false
    clkq := !s.synLocked, invalid := false, staleSeen := s.chState c == 4, cross := {}, segEnd := false, roamFresh := false }
  let s := if h.start.phBrk then s.raise 0x0309 c else s
  s.setChan c { h with start := s.latchEdge c h }

/-- Channel `c` enters STOPPED with `cause`; its descriptor fields are kept (R154, R155, R160, R161). -/
def State.chStop (s : State) (c cause : Nat) : State :=
  let s := if s.correlating c then s.periodFinish c true else s
  let s := if cause = 2 then s.raise 0x0303 c else s
  let s := (s.put (R.CH_STATE c) 5).put (R.CH_CAUSE c) cause
  s.setChan c { s.chan c with stopNext := false, modeNext := 0, stopLate := false, modeLate := 0
                              limitHit := false, shedNext := false, decision := none, winOn := false }

/-- The cause for which channel `c` stops at this edge, if it does. Of several, CLK shows before CMD, STALE_LIM and SHED (log
entry 123). -/
def State.stopCause (s : State) (c : Nat) : Option Nat :=
  let h := s.chan c
  if s.clk.limp && !s.ch.limpSeen then some 4
  else if h.stopNext then some 1
  else if h.limitHit then some 2
  else if h.shedNext then some 3
  else none

/-- TRACK, PULL, and entry to and exit from STALE at this edge (R151, R154, R156). `stale` and `ran`: channels whose
loop task was abandoned or shed, and channels whose loop task completed, in the tick that ended. -/
def State.chMode (s : State) (stale ran : List Nat) (c : Nat) : State :=
  let h := s.chan c
  let m := s.masterOf c
  let mode := if h.modeNext = 2 then 3 else 2
  let s :=
    if h.modeNext = 0 then s
    else if s.chState c = 4 then s.put (R.CH_PREV c) (mode - 2)
    else s.put (R.CH_STATE c) mode
  let s :=
    if s.chState c = 4 then
      (if ran.contains m && !stale.contains m then
        (s.put (R.CH_STATE c) (s.get (R.CH_PREV c) + 2)).put (R.CH_STALE_RUN c) 0 else s)
    else if stale.contains m then (s.put (R.CH_PREV c) (s.chState c - 2)).put (R.CH_STATE c) 4
    else s
  let h := { s.chan c with modeNext := h.modeLate, modeLate := 0, stopNext := h.stopLate, stopLate := false }
  s.setChan c (if s.chState c = 3 then h else { h with winVoid := true })

/-- The initial code phase of a handover to channel `c`, computed for the edge at hand (R219, R221):
CODE_RATE × (n_E − PHASE × D ÷ 16) ÷ 2⁴⁸ chips, modulo CODE_LEN, in 2⁻³² chip. -/
def State.hoPhase (s : State) (c : Nat) (age : Int) (phase : Nat) : Nat :=
  let v : Int := s.codeRate c * (16 * age - phase)
  (rdiv v (2 ^ 20) % ((max 1 (s.codeLen c) * 2 ^ 32 : Nat) : Int)).toNat

/-- Writes the start phases of a handover for the edge at hand. -/
def State.hoWrite (s : State) (c : Nat) (age : Int) (phase : Nat) : State :=
  let p := s.hoPhase c age phase
  let s := (s.putW (R.CH_CODE_CHIP_INIT c) (p / 2 ^ 32)).putW (R.CH_CODE_FRAC_INIT c) (p % 2 ^ 32)
  s.putW (R.CH_CARR_PH_INIT c) 0

/-- The start edge of channel `c` (R133, R153, R170, R180, R191). -/
def State.chStart (s : State) (c : Nat) : State :=
  let za := s.zeroFrom c 0
  let zb := s.zeroFrom c 1
  let init := s.get (R.CH_INIT_AER c)
  let prim :=
    if !s.bothAer c then (if s.aerOn c 0 then 0 else 1)
    else if s.isFollower c then (s.chan (c - 1)).prim
    else if (if init = 0 then za && !zb else zb && !za) then 1 - init else init
  let h := s.chan c
  let h : Chan := { h with
    chip := s.getW (R.CH_CODE_CHIP_INIT c) % 2 ^ 20, codeFrac := s.getW (R.CH_CODE_FRAC_INIT c) * 65536
    sec := s.get (R.CH_SEC_PH_INIT c), carrFrac := s.getW (R.CH_CARR_PH_INIT c) * 65536, cycles := 0
    ran := 0, roamM := 0, seq := 0, satPrev := true, prim := prim, seg := [{}, {}], segSamples := 0
    dphi := 0, dphiV := false, dphiInit := false, dphiGood := 0, dphiLapse := 0, dphiInitPer := false, ho := false
    stopNext := h.stopLate, stopLate := false, decBefore := none, roamFresh := false
    winOn := false, winVoid := true, decision := none, start := {}, buf := none, tickZero := false }
  let s := (s.put (R.CH_STATE c) 2).put (R.CH_STALE_RUN c) 0
  (s.putW (R.CH_PERIODS c) 0).periodStart c h

/-- The lane group of channel `c` is powered (R127). -/
def State.groupOn (s : State) (c : Nat) : Bool := bitOf (s.get R.CH_GROUP_STAT_POWERED) (c / 24)

/-- Channel `c` at a tick edge, after activation. The tick that begins has count `s.clk.tickCount`. -/
def State.chEdge (s : State) (stale ran : List Nat) (c : Nat) : State :=
  let st := s.chState c
  if st = 0 ∨ st = 5 then s
  else match s.stopCause c with
  | some k => s.chStop c k
  | none =>
    if st = 1 then
      let m := s.masterOf c
      let h := s.chan c
      let due := if h.ho then h.hoSkip == 0
        else s.isOn (R.CH_START_NOW m) || s.clk.tickCount % 65536 == s.get (R.CH_START_TICK m)
      if s.groupOn c && (if m = c then due else s.correlating m) then
        (if h.ho then s.hoWrite c h.hoAge h.hoPhase else s).chStart c
      else s.setChan c { h with stopNext := h.stopLate, stopLate := false, hoSkip := h.hoSkip - 1 }
    else if (s.chan c).perLen ≤ (s.chan c).perTicks then
      let s := (s.periodFinish c false).chMode stale ran c
      let h := s.chan c
      s.periodStart c { (s.edgeSwitch c h) with roamM := s.roamNext c h }
    else
      let s := s.chMode stale ran c
      let h := s.chan c
      let e := s.edgeSwitch c h
      let brk := s.isFollower c && e.start.phBrk
      let h' := if s.isFollower c then { e with start := { h.start with phBrk := h.start.phBrk || brk } } else h
      let s := if brk then s.raise 0x0309 c else s
      s.setChan c { h' with roamFresh := false, clkq := h.clkq || !s.synLocked, staleSeen := h.staleSeen || s.chState c == 4 }

/-- The concentration of direction group `g` (R186): N, |Σ| scaled by 2⁴⁰, and the angle of the sum. -/
def State.dirSum (s : State) (g : Nat) : Nat × Nat × Nat :=
  let r := (List.range 192).foldl (fun (r : Nat × Cplx) c =>
    if s.chState c = 3 && s.act (R.CH_DIR_EN c) == 1 && s.act (R.CH_DIR_GRP c) == g && (s.chan c).dphiV && s.bothAer c then
      let e := expTurn (s.chan c).dphi
      (r.1 + 1, ⟨r.2.re + e.re, r.2.im + e.im⟩)
    else r) (0, {})
  (r.1, isqrt r.2.energy, argTurn r.2.re r.2.im)

/-- Direction group `g` at a tick edge (R186, R187). -/
def State.dirTick (s : State) (g : Nat) : State :=
  let (n, mag, ang) := s.dirSum g
  let conc := if n = 0 then 0 else (rdiv (mag * 2 ^ 15 : Nat) (n * 2 ^ 40)).toNat
  let holds := n != 0 && decide (s.get R.CH_DIR_CFG_DIR_MIN_N ≤ n)
    && decide (s.get R.CH_DIR_CFG_DIR_TH * n * 2 ^ 40 ≤ 256 * mag)
  let s := (s.put (R.CH_DIR_CONC_CONC g) (min conc 0x7FFF)).put (R.CH_DIR_N_N g) (min n 255)
  let s := s.put (R.CH_DIR_N_ANGLE g) (rdiv ang (2 ^ 40)).toNat
  let hold := if holds then s.ch.dirHold.getD g 0 + 1 else 0
  let fail := if holds then 0 else s.ch.dirFail.getD g 0 + 1
  let s := { s with ch := { s.ch with dirHold := listPut s.ch.dirHold g hold, dirFail := listPut s.ch.dirFail g fail } }
  if s.isOn (R.CH_DIR_CONC_SUSPECT g) && decide (s.dirPersist ≤ fail) then s.putB (R.CH_DIR_CONC_SUSPECT g) false else s

/-- Clears a group of 12 registers of flags at `base`. -/
def State.clearFlags (s : State) (base : Nat) : State := forUp 12 (fun k s => s.setRg (base + k) 0) s

/-- The fabric over the tick that ends; runs before the tick count moves on. -/
def State.chTickEnd (s : State) (outs : List PathOut) (n : Nat) : State :=
  forUp 192 (fun c s => s.chTickRun outs n c) s

/-- The fabric at the edge, after activation; `o` is the state before activation. -/
def State.chTickEdge (s o : State) (stale ran : List Nat) : State :=
  let stops := s.clk.limp && !s.ch.limpSeen
  let s := forUp 192 (fun c s => s.chActivated o c) s
  let s := forUp 192 (fun c s => s.chEdge stale ran c) s
  let s := if stops then s.raise 0x0306 0xFF else s
  let s := { s with ch := { s.ch with limpSeen := s.ch.limpSeen || s.clk.limp }, perrSeen := false }
  let s := ((s.setRgs 0x705008 s.latchStamp).put R.CH_LATCH_TICK_TICK s.clk.tickCount)
  let s := (s.clearFlags 0x705038).clearFlags 0x712020
  forUp 8 (fun g s => s.dirTick g) s

/-- A switch to the limp oscillator: the fabric stops the channels at its first tick edge (R161), and a period in progress
holds samples of no value (R196). -/
def State.chLimp (s : State) : State :=
  let s := { s with ch := { s.ch with limpSeen := false } }
  forUp 192 (fun c s => if s.correlating c then s.setChan c { s.chan c with invalid := true } else s) s

/-! ### Views -/

/-- CH_ACTIVE and CH_FREE. -/
def State.chView (s : State) (a : Nat) : Word :=
  let word (m : Nat) (p : Nat → Bool) : Word :=
    BitVec.ofNat 16 ((List.range 16).foldl (fun w k => w + b2n (p (16 * m + k)) * 2 ^ k) 0)
  if a < 0x705020 then word (a - 0x705010) s.correlating
  else word (a - 0x705020) (fun c => s.chState c == 0 && s.isOn (R.CH_HO_OK c))

end Sys2Proof.Machine
end

