-- ==== Sys2Proof/Machine/Flags.lean ====
section
/-!
DEFINITION. Engine arithmetic: how a result is placed in a word or an accumulator, the flags it sets, and the value of
every word operation (spec/11_tabile_programming_model.md R337 to R340, spec/12_tabile_instruction_reference.md R361 to
R363, R381 to R384).
-/

namespace Sys2Proof.Machine

/-! ### ST (R321) -/

def stSat (st : Word) : Bool := bitOf st.toNat 14
def stFrac (st : Word) : Bool := bitOf st.toNat 13
def stRnd (st : Word) : Nat := bitsOf st.toNat 12 11
def stC (st : Word) : Bool := bitOf st.toNat 1
def stTm (st : Word) : Bool := bitOf st.toNat 15

/-- A result: its bits, whether it left its range, whether it was saturated (R338). -/
structure Placed where
  val : Nat
  v : Bool := false
  ss : Bool := false
  deriving DecidableEq, Repr

/-- `x` placed in `n` bits (R338, R340): out of range, it saturates with SAT at 1 and wraps with SAT at 0. -/
def placeIn (n : Nat) (sat : Bool) (x : Int) : Placed :=
  let top : Int := 2 ^ (n - 1)
  if -top ≤ x ∧ x < top then ⟨unsignedOf n x, false, false⟩
  else if sat then ⟨unsignedOf n (if x < 0 then -top else top - 1), true, true⟩
  else ⟨unsignedOf n x, true, false⟩

/-- A result of a word operation. `c` and `v` are `none` where the flag is not written. -/
structure WordRes where
  val : Nat
  c : Option Bool := none
  v : Option Bool := none
  ss : Bool := false
  deriving DecidableEq, Repr

/-- A placed result that writes V. -/
def Placed.res (p : Placed) (c : Option Bool) : WordRes := ⟨p.val, c, some p.v, p.ss⟩

/-- `x` as a signed word. -/
def sw (x : Word) : Int := signedOf 16 x.toNat

/-- A sum of words with a carry in (R361): `a`, `b` and `c` are added as they stand for C, as signed words for the
result. -/
def addWords (sat : Bool) (a b : Word) (c : Nat) : WordRes :=
  (placeIn 16 sat (sw a + sw b + c)).res (some (65536 ≤ a.toNat + b.toNat + c))

/-- A difference of words less a borrow; C is 1 where there is no borrow. -/
def subWords (sat : Bool) (a b : Word) (c : Nat) : WordRes :=
  (placeIn 16 sat (sw a - sw b - c)).res (some (b.toNat + c ≤ a.toNat))

/-- Bits from the top of `x` equal to its sign, of `n`, less 1 (R361, R374). -/
def signBits (n : Nat) (x : Int) : Nat :=
  let m := if x < 0 then (-x - 1).toNat else x.toNat
  (List.range n).countP (fun k => m < 2 ^ k)

/-- LSH of `x` by signed count `n` (R382). -/
def lshWord (x : Word) (n : Int) : WordRes :=
  let v := x.toNat
  if n = 0 then ⟨v, none, some false, false⟩
  else if n.natAbs < 16 then
    if 0 < n then ⟨lowBits 16 (v * 2 ^ n.toNat), some (bitOf v (16 - n.toNat)), none, false⟩
    else ⟨v / 2 ^ n.natAbs, some (bitOf v (n.natAbs - 1)), none, false⟩
  else ⟨0, some (n.natAbs == 16 && bitOf v 15), none, false⟩

/-- ASH of `x` by signed count `n` (R382). -/
def ashWord (sat : Bool) (x : Word) (n : Int) : WordRes :=
  let v := x.toNat
  if n = 0 then ⟨v, none, some false, false⟩
  else if n ≤ -16 then ⟨if bitOf v 15 then 0xFFFF else 0, some (bitOf v 15), some false, false⟩
  else if n < 0 then ⟨unsignedOf 16 (sw x / 2 ^ n.natAbs), some (bitOf v (n.natAbs - 1)), some false, false⟩
  else
    let c := if n < 16 then bitOf v (16 - n.toNat) else if n = 16 then bitOf v 0 else false
    (placeIn 16 sat (sw x * 2 ^ n.toNat)).res (some c)

/-- Operation `k` of R361 on `a` and `b`, with ST `st`. -/
def aluOp (k : Nat) (st a b : Word) : WordRes :=
  let sat := stSat st
  let logic (w : Word) : WordRes := ⟨w.toNat, none, some false, false⟩
  let n := signedOf 6 b.toNat
  match k with
  | 0 => logic b
  | 1 => addWords sat a b 0
  | 2 => addWords sat a b (b2n (stC st))
  | 3 => subWords sat a b 0
  | 4 => subWords sat a b (1 - b2n (stC st))
  | 5 => logic (a &&& b)
  | 6 => logic (a ||| b)
  | 7 => logic (a ^^^ b)
  | 8 => logic (a &&& ~~~b)
  | 9 => logic (~~~b)
  | 10 => subWords sat 0 b 0
  | 11 => (placeIn 16 sat (sw b).natAbs).res none
  | 12 => lshWord a n
  | 13 => ashWord sat a n
  | 14 => ⟨if sw a ≤ sw b then a.toNat else b.toNat, none, none, false⟩
  | 15 => ⟨if sw a ≤ sw b then b.toNat else a.toNat, none, none, false⟩
  | 16 => logic (BitVec.ofNat 16 (b.toNat % 256 * 256 + b.toNat / 256))
  | 17 => logic (BitVec.ofInt 16 (signedOf 8 b.toNat))
  | 18 => logic (BitVec.ofNat 16 (b.toNat % 256))
  | _ => ⟨signBits 16 (sw b) - 1, none, none, false⟩

/-- The operations that take only `b` (R362). -/
def aluUnary (k : Nat) : Bool := [0, 9, 10, 11, 16, 17, 18, 19].contains k

/-- Operation `k` of R363 on `d` with a signed 6-bit immediate. -/
def immOp (k : Nat) (st d : Word) (imm : BitVec 6) : WordRes :=
  let bit : Word := BitVec.ofNat 16 (2 ^ (imm.toNat % 16))
  match k with
  | 0 => ⟨unsignedOf 16 imm.toInt, none, some false, false⟩
  | 1 => addWords (stSat st) d (BitVec.ofInt 16 imm.toInt) 0
  | 2 => lshWord d imm.toInt
  | 3 => ashWord (stSat st) d imm.toInt
  | 4 => ⟨(d &&& ~~~bit).toNat, none, none, false⟩
  | 5 => ⟨(d ||| bit).toNat, none, none, false⟩
  | _ => ⟨(d ^^^ bit).toNat, none, none, false⟩

/-! ### Rounding and products (R337, R338, R340) -/

/-- `x` ÷ 2ⁿ rounded by RND: 0 toward minus infinity, 1 to nearest with ties up, 2 to nearest with ties to even. -/
def roundBy (rnd n : Nat) (x : Int) : Int :=
  let q := x / 2 ^ n
  let r := 2 * (x % 2 ^ n)
  let h : Int := 2 ^ n
  match rnd with
  | 1 => if h ≤ r then q + 1 else q
  | 2 => if h < r ∨ (r = h ∧ q % 2 = 1) then q + 1 else q
  | _ => q

/-- The product of two words: a 32-bit integer, or in fraction mode that shifted left by 1. -/
def product (st a b : Word) : Int := if stFrac st then 2 * (sw a * sw b) else sw a * sw b

/-- MPYW (R375): the product placed in a word; in fraction mode rounded at bit 15 first. -/
def mulWord (st a b : Word) : WordRes :=
  (placeIn 16 (stSat st) (if stFrac st then roundBy (stRnd st) 16 (product st a b) else product st a b)).res none

/-- An accumulator as a signed number. -/
def sa (x : BitVec 40) : Int := signedOf 40 x.toNat

/-- An accumulator narrowed to a word (R340). -/
def narrowAcc (st : Word) (a : BitVec 40) : WordRes :=
  (placeIn 16 (stSat st) (if stFrac st then roundBy (stRnd st) 16 (sa a) else sa a)).res none

/-- An accumulator narrowed to 32 bits (R340). -/
def narrow32 (st : Word) (a : BitVec 40) : Placed := placeIn 32 (stSat st) (sa a)

/-- A result of accumulator arithmetic (R339): the placed bits; V; AV and AG to set; SS to set. -/
structure AccRes where
  val : Nat
  v : Bool := false
  av : Bool := false
  ag : Bool := false
  ss : Bool := false
  deriving DecidableEq, Repr

/-- The guard bits of a 40-bit result are in use: bits 39 to 31 differ. -/
def usesGuard (x : Nat) : Bool := bitsOf x 39 31 != 0 && bitsOf x 39 31 != 511

/-- `x` placed in an accumulator (R339). -/
def placeAcc (sat : Bool) (x : Int) : AccRes :=
  let p := placeIn 40 sat x
  ⟨p.val, p.v, p.v, usesGuard p.val, false⟩

/-- An accumulator shifted by a signed count (R383). -/
def shiftAcc (sat : Bool) (a : BitVec 40) (n : Int) (log : Bool) : AccRes :=
  if n < 0 then
    let v := if log then a.toNat / 2 ^ n.natAbs else unsignedOf 40 (sa a / 2 ^ n.natAbs)
    ⟨v, false, false, usesGuard v, false⟩
  else if log then
    let v := lowBits 40 (a.toNat * 2 ^ n.toNat)
    ⟨v, false, false, usesGuard v, false⟩
  else placeAcc sat (sa a * 2 ^ n.toNat)

/-- An accumulator clamped to 32 bits (R374); a change sets V and SS. -/
def satAcc (a : BitVec 40) : AccRes :=
  let x := clampInt (-(2 ^ 31)) (2 ^ 31 - 1) (sa a)
  ⟨unsignedOf 40 x, x != sa a, false, false, x != sa a⟩

/-- DIV (R378, R384): quotient, remainder, V, SS, DZ. With a divisor of 0 the remainder is Ws (log entry 40). -/
def divWords (st a b : Word) : Nat × Nat × Bool × Bool × Bool :=
  let n : Int := if stFrac st then sw a * 2 ^ 15 else sw a
  let d := sw b
  if d = 0 then (if 0 ≤ n then 0x7FFF else 0x8000, a.toNat, false, false, true)
  else
    let q := n.tdiv d
    let p := placeIn 16 (stSat st) q
    (p.val, unsignedOf 16 (n - q * d), p.v, p.ss, false)

/-! ### Compare (R372) -/

/-- COND `k` of two signed numbers, COND 0 to 5. -/
def condSigned (k : Nat) (a b : Int) : Bool :=
  match k with
  | 0 => a == b
  | 1 => a != b
  | 2 => a < b
  | 3 => b ≤ a
  | 4 => a ≤ b
  | _ => b < a

/-- COND `k` of two words, COND 0 to 11. -/
def condWords (k : Nat) (a b : Word) : Bool :=
  match k with
  | 6 => a.toNat < b.toNat
  | 7 => b.toNat ≤ a.toNat
  | 8 => a.toNat ≤ b.toNat
  | 9 => b.toNat < a.toNat
  | 10 => a &&& b == 0
  | 11 => a &&& b != 0
  | k => condSigned k (sw a) (sw b)

/-- OP `k` of PLOG (R373). -/
def predLogic (k : Nat) (a b : Bool) : Bool :=
  match k with
  | 0 => a && b
  | 1 => a || b
  | 2 => a != b
  | 3 => a && !b
  | 4 => a || !b
  | 5 => !a
  | 6 => true
  | _ => false

/-! ### Flags as results that land (R342) -/

/-- The flags of a word result: Z and N from the word, C and V where written, SS where set. -/
def wordFlags (dist : Nat) (r : WordRes) : Land :=
  let mask := 12 + (if r.c.isSome then 2 else 0) + (if r.v.isSome then 1 else 0) + (if r.ss then 16 else 0)
  let val := (if r.val % 65536 = 0 then 8 else 0) + (if bitOf r.val 15 then 4 else 0) + (if r.c == some true then 2 else 0)
    + (if r.v == some true then 1 else 0) + (if r.ss then 16 else 0)
  { dist := dist, dest := .st mask, val := val }

/-- The flags of an accumulator result: Z N V from `r`; AV, AG and SS where set. -/
def accFlags (dist : Nat) (r : AccRes) (av ag : Bool) : Land :=
  let sticky := (if av then 128 else 0) + (if ag then 64 else 0) + (if r.ss then 16 else 0)
  { dist := dist, dest := .st (13 + sticky),
    val := (if r.val = 0 then 8 else 0) + (if bitOf r.val 39 then 4 else 0) + b2n r.v + sticky }

/-- The results of a word operation to Wd. -/
def wordLands (dist d : Nat) (r : WordRes) : List Land := [{ dist := dist, dest := .w d, val := r.val }, wordFlags dist r]

end Sys2Proof.Machine
end

