-- ==== Sys2Proof/Machine/Operands.lean ====
section
/-!
DEFINITION. Operands of the Tabile engines: registers and their parts, results that land, predicates and guards, and every
addressing mode (spec/11_tabile_programming_model.md R319 to R329, R341 to R343; spec/12_tabile_instruction_reference.md
R364, R367, R369, R377, R379).
-/

namespace Sys2Proof.Machine

/-! ### Registers of an engine -/

def Engine.wr (g : Engine) (i : Nat) : Word := g.w.getD i 0
def Engine.ar (g : Engine) (i : Nat) : BitVec 40 := g.a.getD i 0
def Engine.xr (g : Engine) (i : Nat) : Nat := (g.x.getD i 0).toNat
def Engine.mr (g : Engine) (i : Nat) : Int := sw (g.m.getD i 0)
def Engine.br (g : Engine) (i : Nat) : Nat := (g.b.getD i 0).toNat
def Engine.lr (g : Engine) (i : Nat) : Nat := (g.l.getD i 0).toNat
def Engine.lcr (g : Engine) (i : Nat) : Nat := (g.lc.getD i 0).toNat
/-- Predicate i; P0 reads 1 (R319). -/
def Engine.pr (g : Engine) (i : Nat) : Bool := i == 0 || bitOf g.p.toNat i
/-- TM is 1 (R347). -/
def Engine.tm (g : Engine) : Bool := stTm g.st

/-- The guard lets the instruction execute (R325). -/
def Engine.guardOn (g : Engine) (c : Guard) : Bool := g.pr c.gp.val != c.gn

/-- The guard is the reserved one (R325). -/
def guardBad (c : Guard) : Bool := c.gp == 0 && c.gn

/-- `n` with bits `hi` to `lo` set to `v`. -/
def natPut (n hi lo v : Nat) : Nat := n - bitsOf n hi lo * 2 ^ lo + v % 2 ^ (hi + 1 - lo) * 2 ^ lo

/-- A result lands (R320, R341). -/
def Engine.land (g : Engine) (r : Land) : Engine :=
  let acc (i hi lo : Nat) : Engine := { g with a := listPut g.a i (BitVec.ofNat 40 (natPut (g.ar i).toNat hi lo r.val)) 0 }
  match r.dest with
  | .w i => { g with w := listPut g.w i (BitVec.ofNat 16 r.val) 0 }
  | .a i => { g with a := listPut g.a i (BitVec.ofNat 40 r.val) 0 }
  | .aL i => acc i 15 0
  | .aH i => acc i 31 16
  | .aHs i =>
    let v := unsignedOf 40 (signedOf 16 r.val * 65536 + ((g.ar i).toNat % 65536 : Nat))
    { g with a := listPut g.a i (BitVec.ofNat 40 v) 0 }
  | .aG i => acc i 39 32
  | .x i => { g with x := listPut g.x i (BitVec.ofNat 24 r.val) 0 }
  | .xL i => { g with x := listPut g.x i (BitVec.ofNat 24 (natPut (g.xr i) 15 0 r.val)) 0 }
  | .xH i => { g with x := listPut g.x i (BitVec.ofNat 24 (natPut (g.xr i) 23 16 r.val)) 0 }
  | .m i => { g with m := listPut g.m i (BitVec.ofNat 16 r.val) 0 }
  | .bL i => { g with b := listPut g.b i (BitVec.ofNat 24 (natPut (g.br i) 15 0 r.val)) 0 }
  | .bH i => { g with b := listPut g.b i (BitVec.ofNat 24 (natPut (g.br i) 23 16 r.val)) 0 }
  | .l i => { g with l := listPut g.l i (BitVec.ofNat 16 r.val) 0 }
  | .p => { g with p := BitVec.ofNat 8 (r.val ||| 1) }
  | .pBit i => if i = 0 then g else { g with p := BitVec.ofNat 8 (natPut g.p.toNat i i r.val) }
  | .lk => { g with lk := BitVec.ofNat 15 r.val }
  | .lkT => { g with lkT := BitVec.ofNat 16 r.val }
  | .lc i => { g with lc := listPut g.lc i (BitVec.ofNat 16 r.val) 0 }
  | .st mask => { g with st := g.st &&& ~~~(BitVec.ofNat 16 mask) ||| (BitVec.ofNat 16 r.val &&& BitVec.ofNat 16 mask) }

/-- One cycle passes: every result in flight comes one cycle nearer, and those due land in order of issue, so that the
later issue stays (R341, R343). -/
def Engine.advance (g : Engine) : Engine :=
  let fly := g.fly.map (fun r => { r with dist := r.dist - 1 })
  (fly.filter (fun r => r.dist == 0)).foldl Engine.land { g with fly := fly.filter (fun r => r.dist != 0) }

/-- `n` cycles pass. -/
def Engine.advances : Nat → Engine → Engine
  | 0, g => g
  | n + 1, g => g.advance.advances n

/-- Every result in flight lands. -/
def Engine.settle (g : Engine) : Engine := g.advances 18

/-! ### Registers by KIND, IDX and PART (R367) -/

/-- The word of a register named for a read; `none` is reserved. -/
def Engine.regRead (g : Engine) (r : RegName) : Option Nat :=
  let i := r.idx.val
  let part (v : Nat) : Nat := if r.part then v / 65536 else v % 65536
  match r.kind.val with
  | 0 => some (part (g.xr i))
  | 1 => if r.part then none else some (g.m.getD i 0).toNat
  | 2 => some (part (g.br i))
  | 3 => if r.part then none else some (g.lr i)
  | 4 => if r.part || i != 0 then none else some (g.p.toNat ||| 1)
  | 5 => if r.part || i != 0 then none else some g.lk.toNat
  | 6 => if r.part || i != 0 then none else some g.lkT.toNat
  | 7 => if r.part || i != 0 then none else some g.st.toNat
  | 8 => if r.part || 1 < i then none else some (g.lcr i)
  | 9 => if r.part || 3 < i then none else some (bitsOf (g.ar i).toNat 15 0)
  | 10 => if r.part || 3 < i then none else some (bitsOf (g.ar i).toNat 31 16)
  | 11 => if r.part || 3 < i then none else some (unsignedOf 16 (signedOf 8 (bitsOf (g.ar i).toNat 39 32)))
  | _ => none

/-- Where a write of a named register lands, and its distance as a move; `none` is reserved. ST stands apart. -/
def regDest (r : RegName) : Option (Dest × Nat) :=
  let i := r.idx.val
  match r.kind.val with
  | 0 => some (if r.part then .xH i else .xL i, 2)
  | 1 => if r.part then none else some (.m i, 2)
  | 2 => some (if r.part then .bH i else .bL i, 2)
  | 3 => if r.part then none else some (.l i, 1)
  | 4 => if r.part || i != 0 then none else some (.p, 2)
  | 5 => if r.part || i != 0 then none else some (.lk, 2)
  | 6 => if r.part || i != 0 then none else some (.lkT, 2)
  | 7 => if r.part || i != 0 then none else some (.st 0x78FF, 3)
  | 8 => if r.part || 1 < i then none else some (.lc i, 3)
  | 9 => if r.part || 3 < i then none else some (.aL i, 2)
  | 10 => if 3 < i then none else some (if r.part then .aHs i else .aH i, 2)
  | 11 => if r.part || 3 < i then none else some (.aG i, 2)
  | _ => none

/-- The results of a move of word `v` into a named register: for ST, Z N C V at distance 1 and the rest at 3 (R342). -/
def moveLands (r : RegName) (v : Nat) : Option (List Land) :=
  match regDest r with
  | none => none
  | some (.st _, _) =>
    some [{ dist := 3, dest := .st 0x78F0, val := v }, { dist := 1, dest := .st 0xF, val := v }]
  | some (d, n) => some [{ dist := n, dest := d, val := v }]

/-- The result of a load of word `v` into a named register: parts of A at distance 3, any other at 4 (R342, R379). -/
def loadLands (r : RegName) (v : Nat) : Option (List Land) :=
  (regDest r).map (fun d => [{ dist := if 9 ≤ r.kind.val then 3 else 4, dest := d.1, val := v }])

/-- A write of `v` to the named register carries RND 3 into ST (R322). -/
def rndBad (r : RegName) (v : Nat) : Bool := r.kind == 7 && bitsOf v 12 11 == 3

/-! ### Addresses (R328 to R330) -/

/-- `v` folded into the circular buffer of Xk, where one is on (R329). -/
def Engine.fold (g : Engine) (k : Nat) (v : Int) : Nat :=
  let len := g.lr k
  unsignedOf 24 (if len = 0 then v else g.br k + (v - g.br k) % (len : Int))

/-- Post-increment by `s`: the address, and Xk afterwards. -/
def Engine.post (g : Engine) (k : Nat) (s : Int) : Nat × Option (Nat × Nat) :=
  (g.xr k, some (k, g.fold k (g.xr k + s)))

/-- Pre-decrement by `s`. -/
def Engine.pre (g : Engine) (k : Nat) (s : Int) : Nat × Option (Nat × Nat) :=
  let a := g.fold k (g.xr k - s)
  (a, some (k, a))

/-- The address of a short load or store, and the write back of Xk; `none` is reserved (R364). -/
def Engine.shortAddr (g : Engine) (mode k : Nat) : Option (Nat × Option (Nat × Nat)) :=
  match mode with
  | 0 => some (g.xr k, none)
  | 1 => some (g.post k 1)
  | 2 => some (g.pre k 1)
  | _ => none

/-- The address of a long load or store, and the write back of Xk (R369). -/
def Engine.longAddr (g : Engine) : LongMode → Nat × Option (Nat × Nat)
  | .offset k o => (unsignedOf 24 (g.xr k.val + o.toInt), none)
  | .postImm k s => g.post k.val s.toInt
  | .postM k j => g.post k.val (g.mr j.val)
  | .preImm k s => g.pre k.val (s.val + 1 : Nat)
  | .preM k j => g.pre k.val (g.mr j.val)
  | .index k j sh => (unsignedOf 24 (g.xr k.val + sw (g.wr j.val) * 2 ^ sh.val), none)
  | .absolute a => (a.toNat, none)

/-- The address of LDS or STS; a pre-decrement with bit 3 of STEP set is reserved (R379). -/
def Engine.specAddr (g : Engine) (a : SpecMode) : Option (Nat × Option (Nat × Nat)) :=
  if a.pre then (if bitOf a.step.toNat 3 then none else some (g.pre a.k.val (a.step.toNat + 1 : Nat)))
  else some (g.post a.k.val a.step.toInt)

/-- The address of one half of LD2 (R377). -/
def Engine.dualAddr (g : Engine) (mode k : Nat) : Nat × Option (Nat × Nat) :=
  match mode with
  | 0 => (g.xr k, none)
  | 1 => g.post k 1
  | 2 => g.post k (g.mr k)
  | _ => g.pre k 1

/-- The write back of an addressing mode, at distance 1 (R342). -/
def backLands : Option (Nat × Nat) → List Land
  | none => []
  | some (k, v) => [{ dist := 1, dest := .x k, val := v }]

end Sys2Proof.Machine
end

