-- ==== Sys2Proof/Machine/Engine.lean ====
section
/-!
DEFINITION. The Tabile engines as machines: issue, flow, hardware loops, traps, restart and the end of a run
(spec/11_tabile_programming_model.md R341 to R358; spec/12_tabile_instruction_reference.md R385 to R389).
-/

namespace Sys2Proof.Machine

/-- Engine `e`. -/
def State.eng (s : State) (e : Nat) : Engine := s.engs.getD e {}

/-- Sets engine `e`. -/
def State.setEng (s : State) (e : Nat) (g : Engine) : State := { s with engs := listPut s.engs e g {} }

/-- An engine at the release entry, with its registers as R319 gives; memories, write buffer, residence and waiting
traps are kept. -/
def Engine.released (g : Engine) : Engine :=
  { loc := g.loc, locBad := g.locBad, imem := g.imem, dtab := g.dtab, ucode := g.ucode, ucBad := g.ucBad
    slots := g.slots, wbuf := g.wbuf, used := g.used, queue := g.queue, idle := g.idle
    clkTrap := g.clkTrap, brk := g.brk, issuing := true }

/-- SYS_ENG_STAT_e as read: TM is a copy of ST.TM. -/
def State.engView (s : State) (e : Nat) (w : Word) : Word := putBits w 14 14 (b2n (s.eng e).tm)

/-- Parcel `a` of engine `e`'s instruction memory. -/
def Engine.parcel (g : Engine) (a : Nat) : Nat := (wmGet 0 g.imem (a % 32768)).toNat

/-- Parcels of the instruction at `a` (R324). -/
def Engine.lengthAt (g : Engine) (a : Nat) : Nat := if 0xE000 ≤ g.parcel a then 2 else 1

/-- The address after the two instructions that follow an instruction that ends before `a` (R345). -/
def Engine.afterSlots (g : Engine) (a : Nat) : Nat :=
  let b := a + g.lengthAt a
  (b + g.lengthAt b) % 32768

/-! ### Traps (R346 to R350) -/

/-- A trap that is taken or halts the engine is shown in SYS_ENG_STAT_e. -/
def State.noteTrap (s : State) (e tc : Nat) (imp : Bool) : State :=
  let s := (s.addSat (R.SYS_ENG_STAT_TRAPS e) 1).put (R.SYS_ENG_STAT_LAST_TC e) tc
  if imp then s.putB (R.SYS_ENG_STAT_IMP e) true else s

/-- Trap `tc` is taken on engine `e`, with LK_T naming `addr` (R347, R348). -/
def State.enterTrap (s : State) (e tc addr : Nat) (imp : Bool) : State :=
  let g := (s.eng e).settle
  let st := BitVec.ofNat 16 (natPut (natPut g.st.toNat 15 15 1) 10 8 tc)
  (s.setEng e { g with st := st, lkT := BitVec.ofNat 16 (addr % 32768 + 32768 * b2n imp), pc := 8 * tc,
                       jump := none, tend := none }).noteTrap e tc imp

/-- Engine `e` halts on a second trap `tc` at `addr` (R350). -/
def State.haltEngine (s : State) (e tc addr : Nat) : State :=
  let g := (s.eng e).settle
  let s := s.setEng e { g with issuing := false, jump := none, tend := none }
  (s.putB (R.SYS_ENG_STAT_HALTED e) true).raise 0x0903 (16 * tc + e) (g.lkT.toNat + 65536 * (addr % 32768))

/-- A synchronous trap `tc` at `addr` on engine `e`; `imp`: in a delay slot, or after the first micro-word (R347, R348,
R350, R398). -/
def State.syncTrap (s : State) (e tc addr : Nat) (imp : Bool) : State :=
  if (s.eng e).tm then s.haltEngine e tc addr
  else
    let s := s.enterTrap e tc addr imp
    let arg := (s.eng e).lkT.toNat
    if tc = 3 then s.raise 0x0901 e arg else if tc = 4 then s.raise 0x0902 e arg else s

/-- The engine is in a delay slot. -/
def Engine.inSlot (g : Engine) : Bool := g.jump.isSome || g.tend.isSome

/-- Asynchronous trap `tc` is taken on engine `e` before the instruction at `addr`: precisely, or imprecisely with the
results in flight discarded (R349). -/
def State.takeAsync (s : State) (e tc addr : Nat) (precise : Bool) : State :=
  let g := s.eng e
  let rest := (if tc = 5 then g.brk else g.clkTrap)
  let g := { g with clkTrap := g.clkTrap && tc != 5, brk := g.brk && tc != 7, asyncWait := if rest then 1 else 0 }
  if precise then (s.setEng e g).enterTrap e tc addr false
  else
    let s := (s.setEng e { g with fly := [] }).enterTrap e tc addr true
    s.raise 0x0904 e (s.eng e).lkT.toNat

/-- An asynchronous trap waits on engine `e` and may be taken. -/
def Engine.asyncDue (g : Engine) (brk : Bool) : Bool := g.issuing && !g.tm && (if brk then g.brk else g.clkTrap)

/-- ASYNC_TRAP (R349): the trap waits, and this is a quiet cycle or the 64 cycles are over. -/
def State.asyncTrap (s : State) (e : Nat) (brk : Bool) : State :=
  let g := s.eng e
  let tc := if brk then 7 else 5
  if !g.asyncDue brk then s
  else if g.fly.isEmpty && !g.inSlot then s.takeAsync e tc g.pc true
  else if 64 ≤ g.asyncWait then s.takeAsync e tc g.pc false
  else s

/-- BRK is raised on engine `e` (R346). -/
def State.raiseBrk (s : State) (e : Nat) : State := s.setEng e { s.eng e with brk := true }

/-- A switch of the internal domains to the limp oscillator raises CLK on every engine that runs (R346). -/
def State.engLimp (s : State) : State :=
  forUp 8 (fun e s => if (s.eng e).issuing then s.setEng e { s.eng e with clkTrap := true } else s) s

/-- RESTART of engine `e` (R352, R414). -/
def State.restart (s : State) (e : Nat) : State :=
  if s.isOn (R.SYS_ENG_STAT_HALTED e) then
    ((s.putB (R.SYS_ENG_STAT_HALTED e) false).putB ⟨0x70B006, 8 + e, 8 + e⟩ false).setEng e (s.eng e).released
  else s

/-- Engine `e` stops issuing at once (R354): results already issued land, and TM is cleared. -/
def State.stopEngine (s : State) (e : Nat) : State :=
  let g := (s.eng e).settle
  s.setEng e { g with issuing := false, task := none, jump := none, tend := none, st := g.st &&& 0x7FFF
                      loops := [none, none] }

/-! ### The end of a run (R405, R406, R417) -/

/-- Task `t`. -/
def State.taskSt (s : State) (t : Nat) : TaskSt := s.plc.tasks.getD t {}

/-- Sets task `t`. -/
def State.setTaskSt (s : State) (t : Nat) (x : TaskSt) : State :=
  { s with plc := { s.plc with tasks := listPut s.plc.tasks t x {} } }

/-- The run of engine `e`'s task ends with `outcome`: LAST_CYC in 8 cycles rounded up, saturating (R406, R417). -/
def State.runEnds (s : State) (e outcome : Nat) : State :=
  let g := s.eng e
  match g.task with
  | none => s
  | some t =>
    let s := (s.put (R.TASK_LAST_CYC t) (min 65535 ((g.cyc + 7) / 8))).put (R.TASK_LAST_ENG t) e
    let s := if outcome = 1 then s.addWrap (R.TASK_RUNS t) 1 else s
    (s.setTaskSt t { outcome := outcome, done := true, aband := outcome != 1, cyc := g.cyc, last := s.clk.tickCount }).setEng
      e { g with task := none }

/-- TEND completes on engine `e` (R405). -/
def State.taskEnds (s : State) (e : Nat) : State :=
  let s := s.runEnds e 1
  s.setEng e { s.eng e with issuing := false }

/-! ### Issue (R326, R341, R345, R385 to R389) -/

/-- How an instruction leaves the flow. -/
inductive Flow where
  | seq
  /-- A branch to `target` after two delay slots (R345). -/
  | jump (target : Nat)
  | rtt
  | tend
  /-- A hardware loop opens on `level` over `len` parcels after the instruction, with its count (R385). -/
  | loop (level count len : Nat)
  /-- LBRK (R387). -/
  | close (level : Nat)
  deriving DecidableEq, Repr

/-- What an instruction does: the state after its accesses, its results, its stall cycles, the local-memory slots it
uses, and its flow; or a trap; or it waits for the flash port, and the engine stays where it is (R333, R481). -/
inductive Effect where
  | ok (s : State) (lands : List Land) (stall slots : Nat) (flow : Flow)
  | trap (s : State) (tc : Nat)
  | wait

/-- An effect on registers alone. -/
def Effect.regs (s : State) (lands : List Land) : Effect := .ok s lands 0 0 .seq

/-- An active level's end parcel lies in the instruction at `pc` of `len` parcels, or in the two that follow it
(R388). -/
def Engine.loopNear (g : Engine) (len : Nat) : Bool :=
  let n := (g.afterSlots (g.pc + len) + 32768 - g.pc) % 32768
  !g.tm && g.loops.any (fun l => match l with
    | some l => (List.range (min n 6)).any (fun k => (g.pc + k) % 32768 == l.last)
    | none => false)

/-- A branch, call, return or RTT is not allowed here: ILL (R345, R388). -/
def Engine.branchBad (g : Engine) (len : Nat) : Bool := g.inSlot || g.loopNear len

/-- Level `k` is tested at the end parcel `p` (R386): answers the address that issues next, and whether the level has
closed. -/
def Engine.loopTest (g : Engine) (k p next : Nat) : Engine × Nat × Bool :=
  match g.loops.getD k none with
  | none => (g, next, true)
  | some l =>
    if l.last != p then (g, next, true)
    else if 2 ≤ g.lcr k then ({ g with lc := listPut g.lc k (BitVec.ofNat 16 (g.lcr k - 1)) 0 }, l.first, false)
    else ({ g with lc := listPut g.lc k 0 0, loops := listPut g.loops k none none }, next, true)

/-- The address that issues after an instruction of `len` parcels, with end parcels recognised while TM is 0: level 1
first, level 0 only if level 1 does not go round (R386, R387, R389). -/
def Engine.loopNext (g : Engine) (len : Nat) : Engine × Nat :=
  let next := (g.pc + len) % 32768
  let p := (g.pc + len - 1) % 32768
  if g.tm then (g, next)
  else
    let (g, n, closed) := g.loopTest 1 p next
    if closed then
      let (g, n, _) := g.loopTest 0 p next
      (g, n)
    else (g, n)

/-- The delay slots of an earlier branch or TEND count down (R345, R388); `n` issues next, unless a branch's target
does. RTT clears TM with its last slot (R351). -/
def Engine.slotStep (g : Engine) (n : Nat) : Engine :=
  let tend := g.tend.map (fun k => k - 1)
  match g.jump with
  | none => { g with pc := n, tend := tend }
  | some j =>
    if j.slots ≤ 1 then
      { g with jump := none, st := if j.rtt then g.st &&& 0x7FFF else g.st, pc := j.target, tend := tend }
    else { g with jump := some { j with slots := j.slots - 1 }, pc := n, tend := tend }

/-- What the instruction itself does to the flow; `start` is the address after it. -/
def Engine.flowSet (g : Engine) (start : Nat) : Flow → Engine
  | .seq => g
  | .jump t => { g with jump := some { slots := 2, target := t % 32768 } }
  | .rtt => { g with jump := some { slots := 2, target := g.lkT.toNat % 32768, rtt := true } }
  | .tend => if g.tend.isSome then g else { g with tend := some 2 }
  | .loop k c n =>
    if c = 0 then { g with pc := (start + n) % 32768 }
    else { g with loops := listPut g.loops k (some { first := start, last := (start + n - 1) % 32768 }) none
                  lc := listPut g.lc k (BitVec.ofNat 16 c) 0 }
  | .close k => { g with loops := listPut g.loops k none none }

/-- The flow of an instruction of `len` parcels on engine `g`: the program counter, delay slots and loops after it. -/
def Engine.flowStep (g : Engine) (len : Nat) (f : Flow) : Engine :=
  let (h, n) := g.loopNext len
  (h.slotStep n).flowSet ((g.pc + len) % 32768) f

/-- Stall cycles of fetch and of local memory (R326, R353). -/
def State.fixedStall (s : State) (e len slots : Nat) : Nat :=
  (if len = 2 && (s.eng e).pc % 2 = 1 then 1 else 0) + (if s.clk.limp && slots = 2 then 1 else 0)

/-- `n` cycles of the engine's run. -/
def Engine.spent (g : Engine) (n : Nat) : Engine :=
  { g with cyc := if g.task.isSome then g.cyc + n else g.cyc
           used := if g.task.isSome then g.used + n else g.used
           asyncWait := if g.clkTrap || g.brk then g.asyncWait + n else 0 }

/-- Engine `e` spends `n` cycles in its run. -/
def State.spend (s : State) (e n : Nat) : State := s.setEng e ((s.eng e).spent n)

/-- The results of an instruction enter the pipeline, and its cycle ends. -/
def Engine.retired (g : Engine) (lands : List Land) : Engine := { g with fly := g.fly ++ lands }.advance

/-- The results of an instruction of engine `e` enter the pipeline, and its cycle ends. -/
def State.retire (s : State) (e : Nat) (lands : List Land) : State := s.setEng e ((s.eng e).retired lands)

/-- The run ends with the second delay slot of a TEND (R405). -/
def State.afterTend (s : State) (e : Nat) : State :=
  if (s.eng e).tend = some 0 then (s.setEng e { s.eng e with tend := none }).taskEnds e else s

/-- Cycles until the last result in flight lands. -/
def Engine.flight (g : Engine) : Nat := g.fly.foldl (fun n r => max n r.dist) 0

/-- Engine `e` runs an instruction of `len` parcels with effect `x`; `i` says how it issues. An instruction that traps
writes nothing (R347). -/
def State.issueOn (s : State) (i : Issue) (len : Nat) (x : Effect) : State :=
  let e := i.e.val
  let g := s.eng e
  match x with
  | .wait => s
  | .trap s tc => (s.spend e (1 + i.stall + g.flight)).syncTrap e tc g.pc g.inSlot
  | .ok s lands stall slots f =>
    let s := s.spend e (1 + stall + i.stall + s.fixedStall e len slots)
    let s := (s.setEng e ((s.eng e).flowStep len f)).retire e lands
    s.afterTend e

/-- Engine `e` issues an instruction of `len` parcels: an engine that does not issue does nothing; a parcel that fails
parity raises IPAR (R346); a form that is reserved or not allowed, `bad`, raises ILL whatever the guard (R327, R393); a
guard that is false leaves only the cycle (R327). -/
def State.issue (s : State) (i : Issue) (len : Nat) (c : Guard) (bad : Bool) (x : State → Effect) : State :=
  let g := s.eng i.e.val
  if !g.issuing then s
  else if i.parity then s.issueOn i len (.trap s 4)
  else if bad || guardBad c then s.issueOn i len (.trap s 1)
  else if !g.guardOn c then s.issueOn i len (.ok s [] 0 0 .seq)
  else s.issueOn i len (x s)

end Sys2Proof.Machine
end

