-- ==== Sys2Proof/Machine/Crypto.lean ====
section
/-!
DEFINITION. What the crypto assist and the image checks compute (spec/17_lifecycle_otp_security.md, R523, R524, R530):
SHA-256 of FIPS 180-4 and ECDSA P-256 signature verification of FIPS 186-4. The two standards are named by R530, not
printed by the spec (log entry 17).
-/

namespace Sys2Proof.Machine

/-! ### SHA-256 -/

/-- The round constants of SHA-256. -/
def shaK : List Nat := [
    0x428A2F98, 0x71374491, 0xB5C0FBCF, 0xE9B5DBA5, 0x3956C25B, 0x59F111F1, 0x923F82A4, 0xAB1C5ED5,
    0xD807AA98, 0x12835B01, 0x243185BE, 0x550C7DC3, 0x72BE5D74, 0x80DEB1FE, 0x9BDC06A7, 0xC19BF174,
    0xE49B69C1, 0xEFBE4786, 0x0FC19DC6, 0x240CA1CC, 0x2DE92C6F, 0x4A7484AA, 0x5CB0A9DC, 0x76F988DA,
    0x983E5152, 0xA831C66D, 0xB00327C8, 0xBF597FC7, 0xC6E00BF3, 0xD5A79147, 0x06CA6351, 0x14292967,
    0x27B70A85, 0x2E1B2138, 0x4D2C6DFC, 0x53380D13, 0x650A7354, 0x766A0ABB, 0x81C2C92E, 0x92722C85,
    0xA2BFE8A1, 0xA81A664B, 0xC24B8B70, 0xC76C51A3, 0xD192E819, 0xD6990624, 0xF40E3585, 0x106AA070,
    0x19A4C116, 0x1E376C08, 0x2748774C, 0x34B0BCB5, 0x391C0CB3, 0x4ED8AA4A, 0x5B9CCA4F, 0x682E6FF3,
    0x748F82EE, 0x78A5636F, 0x84C87814, 0x8CC70208, 0x90BEFFFA, 0xA4506CEB, 0xBEF9A3F7, 0xC67178F2 ]

/-- The initial hash value of SHA-256. -/
def shaInit : List Nat :=
  [0x6A09E667, 0xBB67AE85, 0x3C6EF372, 0xA54FF53A, 0x510E527F, 0x9B05688C, 0x1F83D9AB, 0x5BE0CD19]

/-- A 32-bit rotation to the right. -/
def rotr (n x : Nat) : Nat := x / 2 ^ n ||| x * 2 ^ (32 - n) % 2 ^ 32

/-- A 32-bit complement. -/
def not32 (x : Nat) : Nat := 2 ^ 32 - 1 - x % 2 ^ 32

/-- The message schedule: `n` further words after those in `w`, which stands in reverse order. -/
def shaExtend : Nat → List Nat → List Nat
  | 0, w => w
  | n + 1, w =>
    let at_ (k : Nat) : Nat := w.getD (k - 1) 0
    let s0 := rotr 7 (at_ 15) ^^^ rotr 18 (at_ 15) ^^^ at_ 15 / 8
    let s1 := rotr 17 (at_ 2) ^^^ rotr 19 (at_ 2) ^^^ at_ 2 / 1024
    shaExtend n ((at_ 16 + s0 + at_ 7 + s1) % 2 ^ 32 :: w)

/-- One round on the working variables a to h. -/
def shaRound (v : List Nat) (kw : Nat) : List Nat :=
  let g (i : Nat) : Nat := v.getD i 0
  let s1 := rotr 6 (g 4) ^^^ rotr 11 (g 4) ^^^ rotr 25 (g 4)
  let ch := (g 4 &&& g 5) ^^^ (not32 (g 4) &&& g 6)
  let t1 := g 7 + s1 + ch + kw
  let s0 := rotr 2 (g 0) ^^^ rotr 13 (g 0) ^^^ rotr 22 (g 0)
  let maj := (g 0 &&& g 1) ^^^ (g 0 &&& g 2) ^^^ (g 1 &&& g 2)
  [(t1 + s0 + maj) % 2 ^ 32, g 0, g 1, g 2, (g 3 + t1) % 2 ^ 32, g 4, g 5, g 6]

/-- Big-endian value of bytes. -/
def beValue (l : List Nat) : Nat := l.foldl (fun x b => x * 256 + b) 0

/-- `n` bytes of `v`, most significant first. -/
def beBytes (n v : Nat) : List Nat := (leBytes n v).reverse

/-- One block of 64 bytes. -/
def shaBlock (h block : List Nat) : List Nat :=
  let w0 := (List.range 16).map (fun k => beValue ((block.drop (4 * k)).take 4))
  let w := (shaExtend 48 w0.reverse).reverse
  let v := (List.zipWith (fun k x => (k + x) % 2 ^ 32) shaK w).foldl shaRound h
  List.zipWith (fun a b => (a + b) % 2 ^ 32) h v

/-- The blocks of `bytes`, `n` of them. -/
def shaBlocks : Nat → List Nat → List Nat → List Nat
  | 0, h, _ => h
  | n + 1, h, bytes => shaBlocks n (shaBlock h (bytes.take 64)) (bytes.drop 64)

/-- The last `bytes` of a message of `total` bytes in all: padding, and the digest of 32 bytes. -/
def shaFinish (h bytes : List Nat) (total : Nat) : List Nat :=
  let pad := bytes ++ [0x80] ++ List.replicate ((119 - bytes.length % 64) % 64) 0 ++ beBytes 8 (8 * total)
  (shaBlocks (pad.length / 64) h pad).flatMap (beBytes 4)

/-- SHA-256 of `bytes`. -/
def sha256 (bytes : List Nat) : List Nat := shaFinish shaInit bytes bytes.length

/-! ### ECDSA P-256 -/

def p256P : Nat := 2 ^ 256 - 2 ^ 224 + 2 ^ 192 + 2 ^ 96 - 1
def p256N : Nat := 0xFFFFFFFF00000000FFFFFFFFFFFFFFFFBCE6FAADA7179E84F3B9CAC2FC632551
def p256B : Nat := 0x5AC635D8AA3A93E7B3EBBD55769886BC651D06B0CC53B0F63BCE3C3E27D2604B
def p256G : Nat × Nat :=
  (0x6B17D1F2E12C4247F8BCE6E563A440F277037D812DEB33A0F4A13945D898C296,
   0x4FE342E2FE1A7F9B8EE7EB4A7C0F9E162BCE33576B315ECECBB6406837BF51F5)

/-- `b` to the power `e` modulo `m`, over `n` bits of `e`. -/
def powMod (m : Nat) : Nat → Nat → Nat → Nat
  | 0, _, _ => 1
  | n + 1, b, e => let r := powMod m n (b * b % m) (e / 2); if e % 2 = 1 then r * b % m else r

/-- The inverse of `x` modulo the prime `m`. -/
def invMod (m x : Nat) : Nat := powMod m 256 (x % m) (m - 2)

/-- The sum of two points of the curve; `none` is the point at infinity. -/
def p256Add : Option (Nat × Nat) → Option (Nat × Nat) → Option (Nat × Nat)
  | none, q => q
  | q, none => q
  | some (x1, y1), some (x2, y2) =>
    let p := p256P
    if x1 = x2 ∧ (y1 + y2) % p = 0 then none
    else
      let l := if x1 = x2 then (3 * x1 * x1 + p - 3) * invMod p (2 * y1) % p
        else (y2 + p - y1) * invMod p (x2 + p - x1) % p
      let x := (l * l + 2 * p - x1 - x2) % p
      some (x, (l * (x1 + p - x) + p - y1) % p)

/-- `k` times a point, over `n` bits of `k`. -/
def p256Mul : Nat → Nat → Option (Nat × Nat) → Option (Nat × Nat)
  | 0, _, _ => none
  | n + 1, k, q => let r := p256Mul n (k / 2) (p256Add q q); if k % 2 = 1 then p256Add r q else r

/-- Whether (r, s) is a signature of digest value `e` under the public key (x, y). -/
def ecdsaOk (x y e r s : Nat) : Bool :=
  let onCurve := x < p256P && y < p256P && y * y % p256P == (x * x * x + (p256P - 3) * x + p256B) % p256P
  let inRange := 0 < r && r < p256N && 0 < s && s < p256N
  onCurve && inRange &&
    (let w := invMod p256N s
     match p256Add (p256Mul 256 (e * w % p256N) (some p256G)) (p256Mul 256 (r * w % p256N) (some (x, y))) with
     | none => false
     | some (x1, _) => x1 % p256N == r)

/-- The bytes of words: byte 2k in bits 7:0 of word k (R530). -/
def wordBytes (ws : List Word) : List Nat := ws.flatMap (fun w => [w.toNat % 256, w.toNat / 256])

/-- Words of bytes, byte 2k in bits 7:0 of word k; a last odd byte stands alone. -/
def bytesWords : List Nat → List Word
  | [] => []
  | [a] => [BitVec.ofNat 16 a]
  | a :: b :: t => BitVec.ofNat 16 (a + 256 * b) :: bytesWords t

/-- VERIFY on 80 words: public key, digest, signature (R530). -/
def verifyWords (ws : List Word) : Bool :=
  let b := wordBytes ws
  let v (i : Nat) : Nat := beValue ((b.drop i).take 32)
  ecdsaOk (v 0) (v 32) (v 64) (v 96) (v 128)

end Sys2Proof.Machine
end

