-- ==== Sys2Proof/Machine/Gate.lean ====
section
/-!
DEFINITION. The Sluice unit: frames, schedules, gate states and commands (spec/10_sluice_gate_unit.md, R301 to R315).
-/

namespace Sys2Proof.Machine

/-- Gate `n`. -/
def State.gate (s : State) (n : Nat) : Gate := s.slc.gates.getD n {}

/-- Sets gate `n`. -/
def State.setGate (s : State) (n : Nat) (g : Gate) : State :=
  { s with slc := { s.slc with gates := listPut s.slc.gates n g {} } }

/-- The state of gate `n`: 0 DISABLED, 1 ARM_PENDING, 2 RUN, 3 WAIT, 4 TRIPPED (R308). -/
def State.gateState (s : State) (n : Nat) : Nat := s.get (R.SLC_GATE_STAT_STATE n)

/-- Gate `n` enters state `t`: a DISABLE pends only in RUN. -/
def State.gateTo (s : State) (n t : Nat) : State :=
  let s := s.put (R.SLC_GATE_STAT_STATE n) t
  if t = 2 then s else s.putB (R.SLC_GATE_STAT_DIS_PEND n) false

/-- A word of gate `n`'s values, read in `m`. -/
def gateWord (m : WMap) (a : Nat) : Nat := (wmGet (resetWord a) m a).toNat

/-- PERIOD in ms, N_EDGES, OFS in ns and position `e` of gate `n` in `m` (R301, R302, R315). -/
def gatePeriod (m : WMap) (n : Nat) : Nat := bitsOf (gateWord m (0x70A010 + n)) 15 12
def gateEdges (m : WMap) (n : Nat) : Nat := bitsOf (gateWord m (0x70A010 + n)) 6 0
def gateOfs (m : WMap) (n : Nat) : Nat :=
  gateWord m (0x70A020 + 2 * n) + 65536 * bitsOf (gateWord m (0x70A021 + 2 * n)) 7 0
def gatePos (m : WMap) (n e : Nat) : Nat :=
  let page := 0x70A800 + n * 0x80
  let hi := gateWord m (page + 0x41 + e / 2)
  gateWord m (page + 1 + e) + 65536 * (if e % 2 = 0 then bitsOf hi 6 0 else bitsOf hi 14 8)

/-- The schedule of gate `n` in `m` is valid (R303). -/
def gateValid (m : WMap) (n : Nat) : Bool :=
  let k := gateEdges m n
  k % 2 == 0 && k ≤ 64
    && (List.range (k - 1)).all (fun e => gatePos m n e < gatePos m n (e + 1))
    && (k == 0 || decide (gatePos m n (k - 1) < gatePeriod m n * 491520))
    && decide (gateOfs m n < gatePeriod m n * 1000000)

/-- The T-class registers of gate `n`. -/
def gateWords (n : Nat) : List Nat :=
  [0x70A010 + n, 0x70A020 + 2 * n, 0x70A021 + 2 * n] ++ (List.range 96).map (fun k => 0x70A801 + n * 0x80 + k)

/-- The time base in ns, rounded up. -/
def State.tbNsUp (s : State) : Nat := (s.clk.acc + accPerNs - 1) / accPerNs

/-- The first boundary of gate `n` at or after reading `t` ns, on the grid of `m` (R301). -/
def gateNext (m : WMap) (n t : Nat) : Nat :=
  let p := max 1 (gatePeriod m n * 1000000)
  let o := gateOfs m n
  if t ≤ o then o else o + (t - o + p - 1) / p * p

/-- The next boundary of gate `n`: one not acted on yet, whose boundary clock is not over. -/
def State.gateBound (s : State) (n : Nat) : Nat :=
  let late := s.clk.acc + 1 - s.lastAdd
  gateNext s.active n (max (s.gate n).from_ ((late + accPerNs - 1) / accPerNs))

/-- The reading, in counter units, at which edge `e` of the frame from boundary `b` ns acts (R302). -/
def State.gateTarget (s : State) (n b e : Nat) : Nat :=
  b * accPerNs + gatePos s.active n e * 400000 / 3 * accPerSub

/-- The open burst of gate `n` ends. -/
def State.gateShut (s : State) (n : Nat) : State :=
  s.setGate n { s.gate n with opened := none, closeAt := none, mute := false }

/-- Gate `n` leaves the frame it runs. -/
def State.gateDrop (s : State) (n : Nat) : State :=
  (s.gateShut n).setGate n { (s.gateShut n).gate n with frame := none }

/-- A withdrawal closes gate `n`: WAIT, or DISABLED with RESUME at 0 or with a DISABLE pending (R307, R312). -/
def State.gateWithdraw (s : State) (n : Nat) : State :=
  (s.gateDrop n).gateTo n
    (if s.isOn (R.SLC_GATE_CFG_RESUME n) && !s.isOn (R.SLC_GATE_STAT_DIS_PEND n) then 3 else 0)

/-- The values that wait for gate `n` become active at its boundary, or are refused (R304). -/
def State.gateActivate (s : State) (n : Nat) : State :=
  match (s.gate n).waiting with
  | none => s
  | some m =>
    let s := s.setGate n { s.gate n with waiting := none }
    if gateValid m n then
      (gateWords n).foldl (fun s a => s.setActRg a (wmGet (resetWord a) m a)) s
    else
      let s := s.putB (R.SLC_GATE_STAT_REFUSED n) true
      ((s.putB R.SLC_CFG_REJ_REJ true).put R.SLC_CFG_REJ_OFFSET (0x010 + n)).raise 0x0805 n

/-- Gate `n` acts on its boundary at `b` ns (R306 to R308, R312). -/
def State.gateAt (s : State) (n b : Nat) : State :=
  let s := (s.gateShut n).setGate n { (s.gateShut n).gate n with from_ := b + 1, frame := none }
  let st := s.gateState n
  let run (s : State) : State := (s.gateTo n 2).setGate n { (s.gateTo n 2).gate n with frame := some b, edge := 0 }
  if s.slc.stopped || s.slc.scrapped then (s.gateDrop n).gateTo n 0
  else if st = 2 then
    if s.isOn (R.SLC_GATE_STAT_DIS_PEND n) then (s.gateDrop n).gateTo n 0
    else if s.permit then s.setGate n { s.gate n with frame := some b, edge := 0 }
    else s.gateWithdraw n
  else if st = 1 then if s.permit && decide (s.clk.age ≤ (s.gate n).armEnd) then run s else s
  else if st = 3 then if s.permit then run s else s
  else s

/-- Clocks from now until the schedule closes gate `n`; what has passed counts below 0. -/
def State.gateCloseIn (s : State) (n : Nat) : Int :=
  let g := s.gate n
  match g.closeAt, g.frame with
  | some t, _ => (t : Int) - s.clk.total
  | none, some b =>
    let t := s.gateTarget n b g.edge
    if s.perClk = 0 then 0
    else if t ≤ s.clk.acc then -(((s.clk.acc - t) / s.perClk : Nat) : Int)
    else s.clocksTo t
  | none, none => 0

/-- Clocks from now until the transmit timeout of gate `n` (R309); what has passed counts below 0. -/
def State.gateTripIn (s : State) (n : Nat) : Option Int :=
  let g := s.gate n
  if g.mute || s.pwr.tapHold then none else g.opened.map (fun t => ((t + g.limit : Nat) : Int) - s.clk.total)

/-- The transmit timeout of gate `n` comes before its close (R309, R312). -/
def State.gateTrips (s : State) (n : Nat) : Bool := (s.gateTripIn n).any (fun t => decide (t < s.gateCloseIn n))

/-- Clocks from now until the burst of gate `n` ends (R51, R309). -/
def State.gateEndIn (s : State) (n : Nat) : Int :=
  match s.gateTripIn n with
  | some t => min t (s.gateCloseIn n)
  | none => s.gateCloseIn n

/-- Gate `n` trips (R309). -/
def State.gateTripped (s : State) (n : Nat) : State :=
  let s := (((s.gateDrop n).gateTo n 4).putB (R.SLC_GATE_STAT_TRIP n) true).raise 0x0804 n
  s.setGate n { s.gate n with tripAt := some s.clk.total }

/-- The scheduled close of gate `n` at the clock at hand; after a step, no edge of that frame acts any more (R302, R311). -/
def State.gateClosed (s : State) (n : Nat) : State :=
  let g := s.gate n
  let s := s.gateShut n
  if g.closeAt.isSome then s.setGate n { s.gate n with from_ := s.tbNsUp } else s.setGate n { s.gate n with edge := g.edge + 1 }

/-- The burst of gate `n` ends at the clock at hand: a trip or its close. -/
def State.gateEnded (s : State) (n : Nat) : State := if s.gateTrips n then s.gateTripped n else s.gateClosed n

/-- The open gate whose burst ends first, if it ends within `k` clocks. -/
def State.gateFirst (s : State) (k : Nat) : Option Nat :=
  (List.range 16).foldl (fun (b : Option Nat) n =>
    if (s.gate n).opened.isSome && decide (s.gateEndIn n ≤ k) then
      match b with
      | some m => if s.gateEndIn n < s.gateEndIn m then some n else b
      | none => some n
    else b) none

/-- Clocks pass up to clock count `t`; bursts that end on the way end where they do (R51). -/
def State.passFuel : Nat → Nat → State → State
  | 0, t, s => s.elapse (t - s.clk.total)
  | fuel + 1, t, s =>
    match s.gateFirst (t - s.clk.total) with
    | some n => State.passFuel fuel t ((s.elapse (s.gateEndIn n).toNat).gateEnded n)
    | none => s.elapse (t - s.clk.total)

/-- `k` clocks pass within the tick in progress: each of the sixteen gates ends one burst at most (R51). -/
def State.pass (s : State) (k : Nat) : State := State.passFuel 16 (s.clk.total + k) s

/-- GATE_EDGE (R302, R309, R311, R312): gate `n` opens, or closes before its timeout. -/
def State.gateEdge (s : State) (n : Nat) : State :=
  let g := s.gate n
  let close : State :=
    let k := (s.gateCloseIn n).toNat
    if !s.inTick k || s.gateTrips n then s else (s.elapse k).gateClosed n
  if s.gateState n != 2 then s
  else match g.closeAt, g.frame with
    | some _, _ => close
    | none, some b =>
      if gateEdges s.active n ≤ g.edge then s
      else if g.edge % 2 = 0 then
        match s.runTo (s.gateTarget n b g.edge) with
        | none => s
        | some s => s.setGate n { g with
            edge := g.edge + 1, opened := some s.clk.total, limit := (s.get (R.SLC_GATE_TMO_TIMEOUT n) * 49152 + 99) / 100 }
      else close
    | none, none => s

/-- GATE_TRIP (R309, R312): the transmit timeout of gate `n`, if it comes before the scheduled close. -/
def State.gateTrip (s : State) (n : Nat) : State :=
  let k := ((s.gateTripIn n).getD 0).toNat
  if s.gateState n != 2 || !s.gateTrips n || !s.inTick k then s else (s.elapse k).gateTripped n

/-- GATE_BOUNDARY (R304, R306): gate `n`'s next boundary clock. -/
def State.gateBoundary (s : State) (n : Nat) : State :=
  let b := s.gateBound n
  if (s.gate n).closeAt.isSome || !s.clk.tbRun then s
  else match s.runTo (b * accPerNs) with
    | none => s
    | some t =>
      let s := (s.pass (t.clk.total - s.clk.total)).gateActivate n
      if gateNext s.active n b = b then s.gateAt n b
      else
        -- the grid has moved: closed until its first boundary
        (s.gateDrop n).setGate n { (s.gateDrop n).gate n with from_ := b }

/-- ARM_TIMEOUT (R308, R312) of gate `n`: a boundary with permit at the same clock, or before, comes first. -/
def State.armTimeout (s : State) (n : Nat) : State :=
  let k := ((s.gate n).armEnd - s.clk.age + s.ageStep - 1) / s.ageStep
  let b := s.gateBound n * accPerNs
  let first := s.permit && s.clk.tbRun && decide (b ≤ s.clk.acc + s.advanced k) && !(s.slc.stopped || s.slc.scrapped)
    && gateNext s.active n (s.gateBound n) == s.gateBound n && (s.gate n).waiting.isNone
  if s.gateState n != 1 || !s.inTick k || first then s
  else ((s.elapse k).gateTo n 0).raise 0x0803 n

/-! ### Commands (R308, R310) -/

/-- An ignored command (R310). -/
def State.slcIgnore (s : State) (cmd n : Nat) : State :=
  ((s.putB R.SLC_CMD_STAT_CMD_IGN true).put R.SLC_CMD_STAT_CMD cmd).put R.SLC_CMD_STAT_GATE n

/-- ARM of gate `n`. -/
def State.gateArm (s : State) (n : Nat) : State :=
  let st := s.gateState n
  if s.slc.stopped || s.slc.scrapped then s.slcIgnore 1 n
  else if st = 0 ∨ st = 4 then
    (s.gateTo n 1).setGate n { s.gate n with armEnd := s.clk.age + s.get R.SLC_ARM_TIMEOUT_TIMEOUT * (1000 * agePerUs) }
  else if st = 2 ∧ s.isOn (R.SLC_GATE_STAT_DIS_PEND n) then s.putB (R.SLC_GATE_STAT_DIS_PEND n) false
  else s.slcIgnore 1 n

/-- DISABLE of gate `n`. -/
def State.gateDisable (s : State) (n : Nat) : State :=
  let st := s.gateState n
  if st = 1 ∨ st = 3 then s.gateTo n 0
  else if st = 2 ∧ !s.isOn (R.SLC_GATE_STAT_DIS_PEND n) then s.putB (R.SLC_GATE_STAT_DIS_PEND n) true
  else s.slcIgnore 2 n

/-- CLOSE_NOW of gate `n`; a trip at the same clock goes first and stands (R312). -/
def State.gateCloseNow (s : State) (n : Nat) : State :=
  if s.gateState n = 0 then s.slcIgnore 3 n
  else if s.gateState n == 2 && s.gateTripIn n == some 0 && s.gateTrips n then s.gateTripped n
  else if s.gateState n == 4 && (s.gate n).tripAt == some s.clk.total then s
  else (s.gateDrop n).gateTo n 0

/-- A write of `v` to SLC_CMD. -/
def State.slcCmd (s : State) (v : Nat) : State :=
  let n := v % 16
  match v / 8192 with
  | 1 => s.gateArm n
  | 2 => s.gateDisable n
  | 3 => s.gateCloseNow n
  | _ => s

/-! ### What other units do to the gates -/

/-- The snapshot of an activation edge waits for every gate's boundary; a later one replaces it (R304). -/
def State.slcActivate (s : State) (snap : WMap) : State :=
  { s with slc := { s.slc with gates := s.slc.gates.map (fun g => { g with waiting := some snap }) } }

/-- A step of the time base (R311). -/
def State.gateStep (s old : State) : State :=
  forUp 16 (fun n s =>
    let g := s.gate n
    if s.gateState n == 2 && g.opened.isSome && g.closeAt.isNone then
      s.setGate n { g with frame := none, from_ := 0, closeAt := some (s.clk.total + (old.gateCloseIn n).toNat) }
    else s.setGate n { g with frame := none, from_ := s.tbNsUp }) s

/-- STEP (R247, R263, R311, R545). -/
def State.stepEvent (s : State) : State :=
  if !(s.isOn R.TB_STAT_STEP_PEND || s.isOn R.SYS_SECSTEP_CTL_PEND) then s
  else match s.toBoundary with
    | none => s
    | some s =>
      if !s.stepDue then s
      else
        let sent := s.todSecond
        ((s.applyStep.tpStep).gateStep s).todStep sent

/-- A switch to the limp oscillator closes every gate at once (R306, R307). -/
def State.gateLimp (s : State) : State :=
  forUp 16 (fun n s => if s.gateState n = 2 then s.gateWithdraw n else s) (s.raise 0x0802 0xFF)

/-- A fall of RST_N drives every GATE ball low, until the end of the burst in progress if nothing is reset (R65). -/
def State.gateMute (s : State) : State :=
  { s with slc := { s.slc with gates := s.slc.gates.map (fun g => { g with mute := g.opened.isSome }) } }

/-- The level of ball GATE_n (R51, R52, R65): a burst is over at its close or its timeout, whatever has been done about it. -/
def State.gateBall (s : State) (n : Nat) : Bool :=
  (s.gate n).opened.isSome && decide (0 < s.gateEndIn n) && !(s.gate n).mute && s.pwr.stage == .running && !s.pwr.tapHold && !s.pwr.rstLow

/-- SLC_PERMIT_STAT and SLC_GATE_OPEN as read. -/
def State.slcView (s : State) (a : Nat) (w : Word) : Word :=
  if a = 0x70A003 then
    putBits w 15 12 (b2n s.permit * 8 + b2n s.settled * 4 + b2n s.trusted * 2 + b2n s.agreed)
  else if a = 0x70A060 then
    BitVec.ofNat 16 ((List.range 16).foldl (fun x n => x + b2n (s.gateBall n) * 2 ^ n) 0)
  else w

end Sys2Proof.Machine
end

