-- ==== Sys2Proof/Machine/Synth.lean ====
section
/-!
DEFINITION. The timing synthesiser and the clock outputs (spec/09_timing_synthesiser.md, R269 to R298). What a switch of
the internal domains brings to other units is in `Machine/Clocking.lean`.
-/

namespace Sys2Proof.Machine

/-- SYN_STAT.STATE: 0 OFF, 1 ACQUIRE, 2 LOCKED, 3 COAST, 4 REVAL, 5 LIMP (R272). -/
def State.synState (s : State) : Nat := s.get R.SYN_STAT_STATE

/-- The dividers are held. -/
def State.synHeld (s : State) : Bool := s.isOn R.SYN_STAT_HELD

/-- The active input: 0 REF_A, 1 REF_B. -/
def State.synActive (s : State) : Nat := s.get R.SYN_STAT_ACTIVE

/-- LOS, VALID and FAIL of input `i`. -/
def losFld (i : Nat) : Fld := ⟨0x709006, 15 - 8 * i, 15 - 8 * i⟩
def validFld (i : Nat) : Fld := ⟨0x709006, 14 - 8 * i, 14 - 8 * i⟩
def failFld (i : Nat) : Fld := ⟨0x709006, 13 - 8 * i, 13 - 8 * i⟩

/-- OFS in 2⁻⁴⁰. -/
def State.synOfs (s : State) : Int := signedOf 32 (wordsValue s.rg 0x70901A 2)

/-- SYN_BO_SUM in ps. -/
def State.boSum (s : State) : Int := signedOf 32 (wordsValue s.rg 0x709020 2)

/-- F_REF of input `i` in Hz. -/
def State.fRef (s : State) (i : Nat) : Nat := wordsValue s.rg (0x70900A + 2 * i) 2

/-- Twice the multiplier of input `i`: ×1, ×2, ×½ (R269). -/
def mulTwice (mul : Nat) : Nat := match mul with | 0 => 2 | 1 => 4 | _ => 1

/-- F_REF and MUL of one input keep the limits of R269. -/
def refPairOk (f mul : Nat) : Bool :=
  10000000 ≤ f && f ≤ 100000000 && 20000000 ≤ f * mulTwice mul && f * mulTwice mul ≤ 400000000

/-- N in 2⁻³² (R269): 7,864,320,000 ÷ (F_REF × m) × (1 + OFS × 2⁻⁴⁰), rounded. -/
def State.synN (s : State) : Int :=
  let i := s.synActive
  roundAway (7864320000 * 2 * (2 ^ 40 + s.synOfs)) (s.fRef i * mulTwice (s.get (R.SYN_REF_CFG_MUL i)) * 2 ^ 8)

/-- The output bit of the dither LFSR, x¹⁶ + x¹⁴ + x¹³ + x¹¹ + 1 (R270). -/
def State.dither (s : State) : Nat := bitsOf (lfsrRun 16 0xB400 (s.syn.pfdEdges % 65535) s.syn.seed) 15 15

/-- What the modulator takes for its 32-bit fraction at the PFD edge at hand: the fraction of N, and, with dither on, the LFSR's
output scaled to 1, 2, 4 or 8 LSB (R270). -/
def State.synFraction (s : State) : Nat :=
  let f := (s.synN % 2 ^ 32).toNat
  if s.act R.SYN_DITH_CFG_EN = 1 then (f + s.dither * 2 ^ s.act R.SYN_DITH_CFG_AMP) % 2 ^ 32 else f

/-- `ClkSt.age` that a millisecond takes. -/
def agePerMs : Nat := 1000 * agePerUs

/-! ### Slews (R286) -/

/-- The loop is closed with the dividers running. -/
def State.synClosed (s : State) : Bool := !s.synHeld && (s.synState == 1 || s.synState == 2)

/-- The slew in progress moves up to the clock at hand, by at most PSLEW ps per ms (R283, R286). -/
def State.slewFlush (s : State) : State :=
  let cap : Int := s.get R.SYN_PSLEW_PSLEW * (s.clk.age - s.syn.slewAt)
  let mv := if s.isOn R.SYN_STAT_SLEW && s.synClosed then clampInt (-cap) cap s.syn.slew else 0
  let rem := s.syn.slew - mv
  let s := if s.syn.slewSum then s.setNum 0x709020 2 (rdiv rem agePerMs) else s
  { s with syn := { s.syn with slew := rem, slewMoved := s.syn.slewMoved + mv, slewAt := s.clk.age
                               lkSlew := s.syn.lkSlew + mv } }

/-- A slew of `v` ps starts, or ends with `v` 0; `sum`: it brings SYN_BO_SUM to 0. -/
def State.slewStart (s : State) (v : Int) (sum : Bool) : State :=
  let s := s.slewFlush
  { (s.putB R.SYN_STAT_SLEW (v != 0)) with syn := { s.syn with
      slew := v * agePerMs, slewSum := sum && v != 0, slewNext := false } }

/-! ### Loop states, lock windows (R272 to R276) -/

/-- Lock windows start again, at the clock at hand if the active input has edges, and with them an acquisition (R276, R278,
R281). -/
def State.lkStart (s : State) : State :=
  { s with syn := { s.syn with
      lkFrom := if s.isOn (losFld s.synActive) then none else some s.clk.age, lkGood := 0, lkBad := 0, lkAdj := 0
      lkSlew := 0, acqAt := s.clk.age } }

/-- The loop moves to state `t` (R272, R275): entering COAST freezes the control value at its mean over the last good lock
window (R277). -/
def State.setSyn (s : State) (t : Nat) : State :=
  let s := s.slewFlush
  let left := s.synState == 2 && t != 2
  let s := if left then (s.putB R.SYN_STAT_UNLOCK true).putB R.SYN_STAT_SETTLED false else s
  let s := s.put R.SYN_STAT_STATE t
  let s := { s with syn := { s.syn with lockAt := if t = 2 then some s.clk.age else none } }
  if t = 1 ∨ t = 5 then s.lkStart
  else if t = 2 then s
  else
    let s := match (if t = 3 then s.syn.lkCval else none) with
      | some c => s.setWords 0x70901C 2 (c % 2 ^ 24)
      | none => s
    { s with syn := { s.syn with lkFrom := none } }

/-- SYN_CTRL.EN goes to 1 (R273): the active reference is the one PREF names. -/
def State.synStart (s : State) : State :=
  if s.synState = 0 then (s.put R.SYN_STAT_ACTIVE (s.get R.SYN_CTRL_PREF)).setSyn 1 else s

/-- Lock is declared (R273, R281 step 3). -/
def State.synDeclare (s : State) : State :=
  if (s.synState = 1 ∨ s.synState = 5) ∧ !s.isOn (losFld s.synActive) then s.setSyn 2 else s

/-- The loop coasts (R273, R277). -/
def State.synCoast (s : State) : State := s.setSyn 3

/-- `ClkSt.age` that a lock window takes at the frequency entered for its input (R276; log entry 128). -/
def State.lkAge (s : State) : Nat := 2 ^ s.get R.SYN_LOCK_CFG_LK_WIN * (1000 * agePerMs) / max 1 (s.fRef s.synActive)

/-- A lock window that counted `count` system clocks is good (R276): the expected count follows OFS, the steps and the slew
within the window. -/
def State.lkGoodWin (s : State) (count : Nat) : Bool :=
  let a : Int := s.lkAge
  let den : Int := s.fRef s.synActive * 2 ^ 40 * a
  let ofs : Int := 2 ^ s.get R.SYN_LOCK_CFG_LK_WIN * 491520000 * ((2 ^ 40 + s.synOfs) * a - s.syn.lkAdj)
  -- the slew moves 491,520,000 × 10⁻¹² clocks a ps
  let want := ofs * 10 ^ 12 * agePerMs - s.syn.lkSlew * 491520000 * den
  let d := (count * (den * 10 ^ 12 * agePerMs) - want).natAbs
  decide (d ≤ (den * 10 ^ 12 * agePerMs).natAbs) || decide (d * 4000000 ≤ want.natAbs * s.get R.SYN_LOCK_TOL_LK_TOL)

/-- A lock window ends (R273, R276). -/
def State.lkWindow (s : State) (w : LockWin) : State :=
  let s := s.slewFlush
  let good := s.lkGoodWin w.count
  let g := if good then s.syn.lkGood + 1 else 0
  let b := if good then 0 else s.syn.lkBad + 1
  let s := { s with syn := { s.syn with
      lkGood := g, lkBad := b, lkAdj := 0, lkSlew := 0, lkFrom := s.syn.lkFrom.map (· + s.lkAge)
      lkCval := if good then some w.cval else s.syn.lkCval } }
  if s.synClosed && decide (s.get R.SYN_LOCK_CFG_LK_BAD ≤ b) then s.synCoast.raise 0x0702 s.synActive
  else if decide (s.get R.SYN_LOCK_CFG_LK_GOOD ≤ g) then s.synDeclare
  else s

/-- The lock windows that end within the tick in progress. -/
def State.lkWindows (s : State) (ws : List LockWin) : State :=
  ws.foldl (fun s w => match s.syn.lkFrom with
    | some t => s.dueAt (t + s.lkAge) (fun s => s.lkWindow w)
    | none => s) s

/-- LOCKED_AND_SETTLED (R275): SYN_SETTLE ms since the loop entered LOCKED, once the dividers run. -/
def State.synSettled (s : State) : State :=
  match s.syn.lockAt with
  | some t =>
    if s.synState = 2 ∧ !s.synHeld then
      s.dueAt (t + s.get R.SYN_SETTLE_SETTLE * agePerMs) (fun s => s.putB R.SYN_STAT_SETTLED true)
    else s
  | none => s

/-- The loop waits for lock with the dividers held. -/
def State.acquiring (s : State) : Bool := s.synHeld && (s.synState == 1 || s.synState == 5)

/-- ACQ_TIMEOUT (R281): t_ACQTO, 50 ms (log entry 129), since acquisition began: it begins again. `f` follows the fault. -/
def State.acqTimeout (s : State) (f : State → State) : State :=
  if s.acquiring then s.dueAt (s.syn.acqAt + 50 * agePerMs) (fun s => (f (s.raise 0x0707 s.synActive)).lkStart) else s

/-- J is measured against input `i` (R283 step 3, 4a, 4b). -/
def State.measureJ (s : State) (i : Nat) (j : Int) : State :=
  let s := (s.setNum 0x70901E 2 j).raise 0x0704 i (unsignedOf 32 j)
  if s.isOn R.SYN_CTRL_PH_MODE then s.slewStart j false
  else (s.slewStart 0 false).setNum 0x709020 2 ((s.slewStart 0 false).boSum + j)

/-- The loop re-engages on input `i` with the dividers running (R283 to R285); a loop in LOCKED stays there, and its lock windows
restart. -/
def State.engage (s : State) (i : Nat) (j : Int) : State :=
  let s := if i = s.synActive then s else (s.put R.SYN_STAT_ACTIVE i).raise 0x0703 i
  let s := s.measureJ i j
  if s.synState = 2 then s.lkStart else s.setSyn 1

/-- Automatic switchover is set (R284). -/
def State.swAuto (s : State) : Bool := s.get R.SYN_CTRL_SW_MODE == 1 || s.get R.SYN_CTRL_SW_MODE == 2

/-- With the dividers held, the loop takes the other input and starts again (R278, R285). -/
def State.heldSwitch (s : State) : State :=
  let o := 1 - s.synActive
  let s := (s.put R.SYN_STAT_ACTIVE o).raise 0x0703 o
  if s.synState = 2 then s.setSyn 1 else s.lkStart

/-- An input ceases to be VALID (R279). -/
def State.dropValid (s : State) (i : Nat) : State :=
  let was := s.isOn (validFld i)
  let s := (s.putB (validFld i) false).putB (failFld i) true
  let s := { s with syn := { s.syn with valGood := listPut s.syn.valGood i 0 0 } }
  if was && (i != s.synActive || s.synState == 0) then s.raise 0x0708 i else s

/-- REF_LOS of input `i` (R277, R278, R284). -/
def State.refLos (s : State) (i : Nat) (j : Int) : State :=
  let s := (s.dropValid i).putB (losFld i) true
  let o := 1 - i
  if i ≠ s.synActive ∨ s.synState = 0 then s
  else
    let s := s.raise 0x0701 i
    if s.synHeld then
      let s := if s.synState = 2 then s.setSyn 1 else { s with syn := { s.syn with lkFrom := none } }
      if s.swAuto && !s.isOn (losFld o) then s.heldSwitch else s
    else
      let s := s.synCoast
      if s.swAuto && s.isOn (validFld o) then s.engage o j else s

/-- Validation windows of input `i` start at the clock at hand (R279). -/
def State.valStart (s : State) (i : Nat) : State :=
  { s with syn := { s.syn with valFrom := listPut s.syn.valFrom i (some s.clk.age) none, valGood := listPut s.syn.valGood i 0 0 } }

/-- REF_RETURN of input `i` (R277, R278, R279, R283 step 2): its first edge after a loss. -/
def State.refReturn (s : State) (i : Nat) : State :=
  let s := (s.putB (losFld i) false).valStart i
  if i ≠ s.synActive then s
  else if s.synState = 3 then s.setSyn 4
  else if s.acquiring && s.syn.lkFrom.isNone then s.lkStart
  else s

/-- Input `i` is watched in validation windows (R279): never while it is lost or no system clock runs. -/
def State.refWatched (s : State) (i : Nat) : Bool :=
  !s.isOn (losFld i) && !s.clk.limp && (s.isOn (R.SYN_REF_CFG_MON i) || (i == s.synActive && s.synState == 4))

/-- A validation window of input `i` that measured `f` mHz is good (R279). -/
def State.valGoodWin (s : State) (i f : Nat) : Bool :=
  let want : Int := s.fRef i * 1000 * 2 ^ 40
  decide ((f * (2 ^ 40 + s.synOfs) - want).natAbs * 4000000 ≤ s.get R.SYN_REVAL_CFG_REF_TOL * want.natAbs)

/-- A validation window of input `i` ends (R279, R283, R284); `j` is the phase error that a measurement gives. -/
def State.valWindow (s : State) (i : Nat) (j : Int) (f : Nat) : State :=
  let s := { s with syn := { s.syn with valFrom := listPut s.syn.valFrom i ((s.syn.valFrom.getD i none).map (· + agePerMs)) none } }
  if !s.valGoodWin i f then s.dropValid i
  else
    let n := s.syn.valGood.getD i 0 + 1
    let s := { s with syn := { s.syn with valGood := listPut s.syn.valGood i n 0 } }
    if n < s.get R.SYN_REVAL_CFG_REVAL then s
    else
      let was := s.isOn (validFld i)
      let s := s.putB (validFld i) true
      let s := if was then s else { s with syn := { s.syn with validAt := listPut s.syn.validAt i s.clk.age 0 } }
      if s.synState = 4 ∧ i = s.synActive then s.engage i j
      else if s.swAuto && s.synState == 3 && i != s.synActive && s.isOn (losFld s.synActive) then s.engage i j
      else s

/-- The validation windows of input `i` that end within the tick in progress. -/
def State.valWindows (s : State) (i : Nat) (j : Int) (fs : List Nat) : State :=
  fs.foldl (fun s f => match s.syn.valFrom.getD i none with
    | some t => if s.refWatched i then s.dueAt (t + agePerMs) (fun s => s.valWindow i j f) else s
    | none => s) s

/-- PREF stands for a revert: AUTO_REVERT, another input active, PREF VALID, the dividers running (R284, R285). -/
def State.mayRevert (s : State) : Bool :=
  let p := s.get R.SYN_CTRL_PREF
  s.get R.SYN_CTRL_SW_MODE == 2 && p != s.synActive && s.isOn (validFld p) && !s.synHeld
    && (s.synState == 2 || s.synState == 1)

/-- The loop switches to PREF, if it may. -/
def State.revertNow (s : State) (j : Int) : State := if s.mayRevert then s.engage (s.get R.SYN_CTRL_PREF) j else s

/-- REF_REVERT (R284): PREF has been VALID for REVERT seconds. -/
def State.refRevert (s : State) (j : Int) : State :=
  if s.mayRevert then
    s.dueAt (s.syn.validAt.getD (s.get R.SYN_CTRL_PREF) 0 + s.get R.SYN_CTRL_REVERT * (1000 * agePerMs)) (fun s => s.revertNow j)
  else s

/-- SYN_CMD.SWITCH (R285). -/
def State.synSwitch (s : State) (j : Int) : State :=
  let o := 1 - s.synActive
  let ign := s.putB R.SYN_STAT_CMD_IGN true
  if s.synState = 0 then ign
  else if s.synHeld then (if s.isOn (losFld o) then ign else s.heldSwitch)
  else if !s.isOn (validFld o) || (s.get R.SYN_CTRL_SW_MODE == 0 && s.synState != 2) then ign
  else s.engage o j

/-- A slew starts that brings SYN_BO_SUM to 0 (R286). -/
def State.sumSlew (s : State) : State := s.slewStart s.boSum true

/-- SYN_CMD.ALIGN_NOW (R286). With the dividers held or SYN_BO_SUM at 0 there is nothing to slew; such a slew that runs already
goes on; while another slew runs, its slew follows. -/
def State.alignNow (s : State) : State :=
  if s.synState = 0 ∨ s.synHeld ∨ s.boSum = 0 then s
  else if s.isOn R.SYN_STAT_SLEW then
    (if s.syn.slewSum then s else { s with syn := { s.syn with slewNext := true } })
  else s.sumSlew

/-- A write of `v` to SYN_FSTEP_1 (R287): it replaces any step already armed. -/
def State.fstepArm (s : State) (v : Nat) : State :=
  let x := signedOf 32 ((s.rg 0x709018).toNat + 65536 * v)
  if 5497558 < x.natAbs then s.reject 0x709019
  else
    let s := s.setRg 0x709019 (BitVec.ofNat 16 v)
    let a := some (x, s.isOn R.SYN_RAMP_CTRL_EN)
    if s.inGuard then { s with syn := { s.syn with step := none, stepLate := a } } else { s with syn := { s.syn with step := a } }

/-- Writing SYN_RAMP_CTRL.EN to 1 starts the ramp at segment 0 (R289). -/
def State.rampStart (s : State) : State :=
  { (s.put R.SYN_RAMP_CTRL_SEG 0) with syn := { s.syn with rampCount := 0 } }

/-- A frequency step of `x` is reported to the time base, at the edge at hand (R237). -/
def State.reportStep (s : State) (x : Int) : State :=
  { s with tb := { s.tb with edgeStep := s.tb.edgeStep + x, steps := if s.coasting then s.tb.steps + x else s.tb.steps } }

/-- A step of `x` is applied at the edge at hand, and reported to the time base (R237, R287). -/
def State.stepApply (s : State) (x : Int) : State :=
  let s := (s.setNum 0x70901A 2 (s.synOfs + x)).reportStep x
  { s with syn := { s.syn with lkAdj := s.syn.lkAdj + x * ((s.clk.age : Int) - s.syn.lkFrom.getD s.clk.age) } }

/-- A dropped step (R288). -/
def State.stepDrop (s : State) (x : Int) : State :=
  (s.putB R.SYN_STAT_STEP_REJ true).raise 0x0706 s.synActive (unsignedOf 32 x)

/-- The step would take |OFS| above 200 ppm (R288). -/
def State.stepTooFar (s : State) (x : Int) : Bool := decide (219902325 < (s.synOfs + x).natAbs)

/-- RATE of ramp segment `k`, and its DUR. -/
def State.rampSeg (s : State) (k : Nat) : Int × Nat :=
  (signedOf 24 (wordsValue s.rg (0x709028 + 3 * k) 2 % 2 ^ 24), (s.rg (0x70902A + 3 * k)).toNat)

/-- The ramp generator at a tick edge (R289); a RATE beyond the 5 ppm of R287 is dropped (log entry 130). -/
def State.rampTick (s : State) : State :=
  if !s.isOn R.SYN_RAMP_CTRL_EN || !s.synLocked then s
  else
    let k := s.get R.SYN_RAMP_CTRL_SEG
    let (x, dur) := s.rampSeg k
    if s.stepTooFar x || decide (5497558 < x.natAbs) then (s.putB R.SYN_RAMP_CTRL_EN false).stepDrop x
    else
      let s := s.stepApply x
      let n := s.syn.rampCount + 1
      if n < dur then { s with syn := { s.syn with rampCount := n } }
      else
        let s := { s with syn := { s.syn with rampCount := 0 } }
        if k < s.get R.SYN_RAMP_CTRL_SEGS then s.put R.SYN_RAMP_CTRL_SEG (k + 1)
        else if s.isOn R.SYN_RAMP_CTRL_LOOP then s.put R.SYN_RAMP_CTRL_SEG 0
        else s.putB R.SYN_RAMP_CTRL_EN false

/-- Armed steps at a tick edge (R287, R288). -/
def State.fstepTick (s : State) : State :=
  let a := s.syn.step
  let ramp := s.isOn R.SYN_RAMP_CTRL_EN
  let s := { s with syn := { s.syn with step := s.syn.stepLate, stepLate := none } }
  let s := match a with
    | none => s
    | some (x, inRamp) =>
      if ramp || inRamp || !s.synLocked || s.stepTooFar x then s.stepDrop x else s.stepApply x
  s.rampTick

/-- An ALIGN slew over the tick that ends, and its report to the time base (R286). -/
def State.alignTick (s : State) : State :=
  let s := s.slewFlush
  let ofs := roundAway (-s.syn.slewMoved * 2 ^ 40) (10 ^ 9 * agePerMs)
  let s := s.reportStep (ofs - s.syn.slewOfs)
  let s := { s with syn := { s.syn with slewMoved := 0, slewOfs := ofs } }
  if s.syn.slew ≠ 0 then s
  else
    let s := { s.putB R.SYN_STAT_SLEW false with syn := { s.syn with slewSum := false } }
    if s.syn.slewNext then s.sumSlew else s

/-- The dither LFSR is loaded (R270). -/
def State.ditherLoad (s : State) : State :=
  { s with syn := { s.syn with seed := s.act R.SYN_DITH_SEED, pfdEdges := 0 } }

/-- The control value stands: COAST and REVAL, and a loss of the active input with the dividers held (R272, R278). -/
def State.cvalHeld (s : State) : Bool := s.synState == 3 || s.synState == 4 || (s.synHeld && s.isOn (losFld s.synActive))

/-- The synthesiser at a tick edge, after activation; `o` is the state before it; `cval` the control value. -/
def State.synTick (s o : State) (cval : Nat) : State :=
  let s := { s with tb := { s.tb with edgeStep := 0 }
                    syn := { s.syn with drift := s.syn.drift + s.synOfs * s.clk.tickLen } }
  let s := s.alignTick.fstepTick
  let s := if s.act R.SYN_DITH_SEED != o.act R.SYN_DITH_SEED then s.ditherLoad else s
  let i := s.synActive
  let edges := s.fRef i * mulTwice (s.get (R.SYN_REF_CFG_MUL i)) / 2000
  let s := { s with syn := { s.syn with pfdEdges := s.syn.pfdEdges + edges } }
  if s.synState = 0 then s.setWords 0x70901C 2 0x800000
  else if s.cvalHeld then s
  else s.setWords 0x70901C 2 (cval % 2 ^ 24)

/-! ### Clock outputs (R290 to R294) -/

/-- An output with `mute` and EN runs (R292). -/
def State.outRuns (s : State) (en : Bool) (mute : Nat) : Bool :=
  en && !s.syn.stopped && (match mute with
    | 0 => !s.synHeld && s.synState != 0
    | 1 => !s.synHeld && s.synState == 2
    | _ => s.synState != 0)

/-- The run condition of output `n`: 0 to 5 CLK_OUT, 6 and 7 CLK_SE (R292). -/
def State.clkCond (s : State) (n : Nat) : Bool :=
  if n < 6 then s.outRuns (s.isOn (R.SYN_OUT_CFG_EN n)) (s.get (R.SYN_OUT_CFG_MUTE n))
  else s.outRuns (s.isOn (R.SYN_SE_CFG_EN (n - 6))) (s.get (R.SYN_SE_CFG_MUTE (n - 6)))

/-- RUN of output `n` (R294): its condition holds, or the last half-period after a stop is not over. -/
def State.clkRuns (s : State) (n : Nat) : Bool := s.clkCond n || decide (s.clk.age < s.syn.outLow.getD n 0)

/-- VCO edges from the release edge to the system clock at hand: sixteen to a clock (R280, R282). -/
def State.vco (s : State) : Nat := 16 * (s.clk.total - s.clk.relAt)

/-- The divider behind output `n`, as a quotient of VCO cycles, and whether it is fractional (R290, R291). -/
def State.outDiv (s : State) (n : Nat) : Nat × Nat × Bool :=
  let k := if n < 6 then n else s.get (R.SYN_SE_CFG_SRC (n - 6))
  let d := s.get (R.SYN_OUT_CFG_D k)
  if 4 ≤ k ∧ s.isOn (R.SYN_OUT_CFG_FRAC k) then
    let num := (s.rg (0x709048 + (k - 4))).toNat
    let den := max 1 (s.rg (0x70904A + (k - 4))).toNat
    (max 1 (d * den + num), den, true)
  else (max 1 d, 1, false)

/-- POST of output `n`. -/
def State.outPost (s : State) (n : Nat) : Nat := if n < 6 then 1 else max 1 (s.get (R.SYN_SE_DIV_POST (n - 6)))

/-- Rising edge `k` of the divider `num` ÷ `den` (R290), in 1/64 VCO cycle from the release edge. -/
def divEdge (num den k : Nat) : Nat := 64 * k * num / den

/-- The period that output `n` is in at VCO edge `v`: its rising edge and the end of its high half-period, in 1/64 VCO cycle
(R290, R291). -/
def State.outPeriod (s : State) (n v : Nat) : Nat × Nat :=
  let (num, den, frac) := s.outDiv n
  let k := ((64 * v + 1) * den - 1) / (64 * num)
  let p := s.outPost n
  let k0 := k - k % p
  (divEdge num den k0,
   if 1 < p then divEdge num den (k0 + (p + 1) / 2)
   else if frac then 64 * (2 * k + 1) * num / (2 * den)
   else 64 * (k * num + (num + 1) / 2))

/-- Output `n` is in the high half-period of a period that began no earlier than its run condition, at the clock at hand, with
the dividers running since the release (R290 to R293). -/
def State.outHigh (s : State) (n : Nat) : Bool :=
  let (rise, fall) := s.outPeriod n s.vco
  decide (1024 * (s.syn.outFrom.getD n 0 - s.clk.relAt) ≤ rise) && decide (64 * s.vco < fall)

/-- Output `n` stops (R293): a high half-period is completed. What is left of one of an output that runs unaligned is not known
(log entry 131). -/
def State.outStop (s : State) (n : Nat) : State :=
  let low := if !s.synHeld && s.outHigh n then s.clk.age + (((s.outPeriod n s.vco).2 - 64 * s.vco) * 625 + 1023) / 1024 else 0
  { s with syn := { s.syn with outOn := listPut s.syn.outOn n false false, outLow := listPut s.syn.outLow n low 0 } }

/-- Output `n` begins to run at the clock at hand, at its next rising edge (R293). -/
def State.outStart (s : State) (n : Nat) : State :=
  { s with syn := { s.syn with outOn := listPut s.syn.outOn n true false, outFrom := listPut s.syn.outFrom n s.clk.total 0 } }

/-- The outputs follow their run conditions. -/
def State.outsFollow (s : State) : State :=
  forUp 8 (fun n s =>
    if s.clkCond n == s.syn.outOn.getD n false then s
    else if s.clkCond n then s.outStart n else s.outStop n) s

/-- Every output stops: a failure, or a release, after which those that may run start again (R292, R293, R297). -/
def State.outsStop (s : State) : State :=
  forUp 8 (fun n s => if s.syn.outOn.getD n false then s.outStop n else s) s

/-- The level of output `n` at the clock at hand. An output that runs before the release, or in LIMP, is at a place in its
sequence that the spec leaves open (log entry 131). -/
def State.clkBall (s : State) (n : Nat) : Bool :=
  if s.clkCond n then (if s.synHeld then Config.outFree n s.clk.total else s.outHigh n)
  else decide (s.clk.age < s.syn.outLow.getD n 0)

/-- SYN_STAT and SYN_OUT_STAT as read. -/
def State.synView (s : State) (a : Nat) (w : Word) : Word :=
  if a = 0x709050 then BitVec.ofNat 16 ((List.range 8).foldl (fun x k => x + b2n (s.clkRuns k) * 2 ^ k) 0)
  else if a = 0x709005 then putBits w 9 9 (b2n (s.isOn R.SYN_RAMP_CTRL_EN))
  else w

/-- The output that the S-class fields that a write of `v` to the register at `a` changes belong to is stopped, and for a
divider the CLK_SE output that it feeds (R294); SYN_REF_CFG and SYN_REF_FREQ: the input is not the active one. -/
def State.synStopped (s : State) (a v : Nat) : Bool :=
  let divider := !(decide (0x709040 ≤ a ∧ a < 0x709046) && (s.rg a).toNat % 4096 == v % 4096)
  let clk (n : Nat) : Bool := !s.clkRuns n &&
    !(divider && (List.range 2).any (fun k => s.clkRuns (6 + k) && s.get (R.SYN_SE_CFG_SRC k) == n))
  let inp (i : Nat) : Bool := s.synState == 0 || i != s.synActive
  if 0x709008 ≤ a ∧ a < 0x70900A then inp (a - 0x709008)
  else if 0x70900A ≤ a ∧ a < 0x70900E then inp ((a - 0x70900A) / 2)
  else if 0x709040 ≤ a ∧ a < 0x709046 then clk (a - 0x709040)
  else if 0x709048 ≤ a ∧ a < 0x70904C then clk (4 + (a - 0x709048) % 2)
  else if 0x70904C ≤ a ∧ a < 0x709050 then !s.clkRuns (6 + a % 2)
  else true

/-- Fields of a CLK_OUT as a write of `v` to register `a` would leave them: FRAC, D, NUM, DEN. -/
def State.divAfter (s : State) (a v n : Nat) : Nat × Nat × Nat × Nat :=
  let rd (b : Nat) : Nat := if b = a then v else (s.rg b).toNat
  let c := rd (0x709040 + n)
  let num := if n < 4 then 0 else rd (0x709048 + (n - 4))
  let den := if n < 4 then 1 else rd (0x70904A + (n - 4))
  (c / 2048 % 2, c % 2048, num, den)

/-- CLK_SE `k` keeps its frequency limit after a write of `v` to `a` (R291): 125 MHz with VDD_IO_B at 3.3 V, 100 MHz at
1.8 V. -/
def State.seOk (s : State) (a v k : Nat) : Bool :=
  let rd (b : Nat) : Nat := if b = a then v else (s.rg b).toNat
  let cfg := rd (0x70904C + k)
  if !bitOf cfg 15 then true
  else
    let (frac, d, num, den) := s.divAfter a v (cfg / 1024 % 8)
    let post := rd (0x70904E + k) % 4096
    let lim := if s.pwr.io33B then 125000000 else 100000000
    -- 7,864.32 MHz ÷ ((D + NUM ÷ DEN) × POST)
    if frac = 1 then 7864320000 * den ≤ lim * post * (d * den + num) else 7864320000 ≤ lim * post * d

/-- The agreements that a write of `v` to SYN register `a` must keep (R269, R289, R290, R291). -/
def State.synAgrees (s : State) (a v : Nat) : Bool :=
  let out :=
    if 0x709040 ≤ a ∧ a < 0x70904C then
      let n := if a < 0x709046 then a - 0x709040 else 4 + (a - 0x709048) % 2
      let (frac, d, num, den) := s.divAfter a v n
      let fmt := bitOf (if a = 0x709040 + n then v else (s.rg (0x709040 + n)).toNat) 14
      !(frac = 1 && n < 4) && !(frac = 1 && (num = 0 || den ≤ num || den < 2)) && !(fmt && d < 20)
    else true
  let ref :=
    if 0x709008 ≤ a ∧ a < 0x70900A then refPairOk (s.fRef (a - 0x709008)) (v / 16384)
    else if a = 0x70900B ∨ a = 0x70900D then
      let i := (a - 0x70900A) / 2
      refPairOk ((s.rg (a - 1)).toNat + 65536 * v) (s.get (R.SYN_REF_CFG_MUL i))
    else if 0x709028 ≤ a ∧ a < 0x709040 ∧ (a - 0x709028) % 3 < 2 then
      -- log 130: RATE as the write of either of its words would leave it
      let hi := (a - 0x709028) % 3 = 1
      let rate := if hi then (s.rg (a - 1)).toNat + 65536 * v else v + 65536 * (s.rg (a + 1)).toNat
      (signedOf 24 (rate % 2 ^ 24)).natAbs ≤ 5497558
    else true
  let se := if 0x709040 ≤ a ∧ a < 0x709050 then s.seOk a v 0 && s.seOk a v 1 else true
  out && ref && se

end Sys2Proof.Machine
end

