-- ==== Sys2Proof/Machine/Lifecycle.lean ====
section
/-!
DEFINITION. Lifecycle, the OTP, configuration generations, keys and tamper (spec/17_lifecycle_otp_security.md, R512 to
R532, R585).
-/

namespace Sys2Proof.Machine

/-! ### OTP rows (R516, R517) -/

/-- OTP word `w` of row `r`. -/
def State.otpWord (s : State) (r w : Nat) : Word := wmGet 0 s.lcs.otp (16 * r + w)

/-- Sets OTP words from word `a` on. -/
def State.setOtp (s : State) (a : Nat) (ws : List Word) : State :=
  { s with lcs := { s.lcs with otp := wmPutList a ws s.lcs.otp } }

/-- The words of row `r` from `i`, `n` of them. -/
def State.otpWords (s : State) (r i n : Nat) : List Word := (List.range n).map (fun k => s.otpWord r (i + k))

/-- Row `r` is blank. -/
def State.rowBlank (s : State) (r : Nat) : Bool := (s.otpWords r 0 16).all (fun w => w == 0)

/-- Row `r` passes its CRC. -/
def State.rowValid (s : State) (r : Nat) : Bool :=
  !s.rowBlank r && crc16 (wordBytes (s.otpWords r 0 15)) == (s.otpWord r 15).toNat

/-- Row `r` is corrupt. -/
def State.rowCorrupt (s : State) (r : Nat) : Bool := !s.rowBlank r && !s.rowValid r

/-- Copies burned of status bit `k` of word `w` of row 0. -/
def State.fuseCopies (s : State) (w k : Nat) : Nat := popCount 3 (bitsOf (s.otpWord 0 w).toNat (3 * k + 2) (3 * k))

/-- Status bit `k` by majority (R515). -/
def State.fuse (s : State) (w k : Nat) : Bool := 2 ≤ s.fuseCopies w k

/-- Burns the three copies of status bit `k` of word `w`. -/
def State.burn (s : State) (w k : Nat) : State :=
  s.setOtp w [s.otpWord 0 w ||| BitVec.ofNat 16 (7 * 2 ^ (3 * k))]

/-- The lifecycle state that the fuses hold (R517). -/
def State.fuseState (s : State) : Nat :=
  if s.fuse 0 3 then 4 else if s.fuse 0 2 then 3 else if s.fuse 0 1 then 2 else if s.fuse 0 0 then 1 else 0

/-- The lifecycle state (R512). -/
def State.lc (s : State) : Nat := s.get R.LCS_STAT_LC

/-! ### Configuration generations (R519 to R522) -/

/-- Row `k` of generation `g`. -/
def genRow (g k : Nat) : Nat := 35 + 16 * (g - 1) + k

/-- Generation `g` has a row programmed. -/
def State.genUsed (s : State) (g : Nat) : Bool := (List.range 16).any (fun k => !s.rowBlank (genRow g k))

/-- Generation `g` is valid. -/
def State.genValid (s : State) (g : Nat) : Bool :=
  (List.range 16).all (fun k => s.rowValid (genRow g k)) && s.otpWord (genRow g 0) 0 == 0x4B43
    && (s.otpWord (genRow g 0) 1).toNat == g

/-- The highest valid generation, 0 for none; and the highest one used up. -/
def State.genBest (s : State) : Nat := (((List.range 5).filter (fun g => g != 0 && s.genValid g)).getLast?).getD 0
def State.genLast (s : State) : Nat := (((List.range 5).filter (fun g => g != 0 && s.genUsed g)).getLast?).getD 0

/-- The defaults of words 2 to 7 (R521). -/
def cfgDefault : Nat → Word
  | 2 => 0xF000
  | 4 => 0xF
  | 7 => 0xFF
  | _ => 0

/-- Word `w` (0 to 14) of the active generation (R521). -/
def State.cfgWord (s : State) (w : Nat) : Nat :=
  let g := s.get R.LCS_STAT_CFG_GEN
  (if g = 0 then cfgDefault w else s.otpWord (genRow g 0) w).toNat

/-- MIN_VER. -/
def State.minVer (s : State) : Nat := s.cfgWord 5 + 65536 * s.cfgWord 6

/-! ### Keys (R523) -/

/-- The slot's two rows are valid. -/
def State.slotValid (s : State) (k : Nat) : Bool := s.rowValid (27 + 2 * k) && s.rowValid (28 + 2 * k)

/-- The slot is revoked. -/
def State.slotRevoked (s : State) (k : Nat) : Bool := s.fuse 1 k

/-- The slot is usable. -/
def State.slotUsable (s : State) (k : Nat) : Bool := s.slotValid k && !s.slotRevoked k && bitOf (s.cfgWord 4) k

/-- The digest in slot `k`, as bytes. -/
def State.slotDigest (s : State) (k : Nat) : List Nat := wordBytes (s.otpWords (27 + 2 * k) 0 15 ++ [s.otpWord (28 + 2 * k) 1])

/-- A slot is programmed and not revoked. -/
def State.anyKey (s : State) : Bool := (List.range 4).any (fun k => s.slotValid k && !s.slotRevoked k)

/-- LCS_STAT, LCS_KEY_STAT, LCS_OTP_DATA and LCS_THREAT as read. -/
def State.lcsView (s : State) (a : Nat) (w : Word) : Word :=
  let bits (p : Nat → Bool) : Nat := (List.range 4).foldl (fun x k => x + b2n (p k) * 2 ^ k) 0
  if a = 0x701003 then putBits w 5 5 (b2n (s.genUsed 4))
  else if a = 0x70101F then
    BitVec.ofNat 16 (bits s.slotValid * 0x1000 + bits s.slotRevoked * 0x100 + bits s.slotUsable * 0x10 + w.toNat % 4)
  else if a = 0x701008 then
    let k := s.get R.LCS_OTP_ADDR_ADDR
    if 11 * 16 ≤ k ∧ k < 27 * 16 then 0 else s.otpWord (k / 16) (k % 16)
  else if a = 0x701028 then
    let jam := (List.range 6).foldl (fun m i =>
      if s.isOn (R.DFE_JAM_VALID i) then max m (s.get (R.DFE_JAM_LEVEL i)) else m) 0
    let dir := (List.range 8).any (fun g => s.isOn (R.CH_DIR_CONC_SUSPECT g))
    putBits w 15 12 (4 * jam + 2 * b2n dir + b2n (s.get R.LCS_TAMPER_STAT_LATCH != 0))
  else w

/-- KEY_REVOKE (R523). -/
def State.keyRevoke (s : State) (k : Nat) : State :=
  let rest := (List.range 4).any (fun j => j != k && s.slotValid j && !s.slotRevoked j)
  if rest then s.burn 1 k else s.raise 0x1007 0xFF

/-! ### Access of JTAG debug by lifecycle state (R512, R521) -/

/-- The access-table targets (R454). -/
def accTargets : List Nat := List.range 39 ++ (List.range 20).map (· + 40)

/-- JTAG debug has no access at all (R512, R521). -/
def State.jtagNone (s : State) : Bool := s.lc == 4 || (s.lc == 2 && s.cfgWord 3 % 4 != 1)

/-- Bit 15 of the access tables follows the lifecycle state, even in locked tables (R514). -/
def State.jtagTables (s : State) : State :=
  let jtag := s.cfgWord 3 % 4
  let full := s.lc == 0 || s.lc == 1 || s.lc == 3
  let rd := full || (s.lc == 2 && jtag == 1)
  accTargets.foldl (fun s t =>
    let s := s.putB ⟨0x70E081 + t, 15, 15⟩ (rd && t != 34)
    let s := s.putB ⟨0x70E101 + t, 15, 15⟩ (full && t != 34)
    s.putB ⟨0x70E181 + t, 15, 15⟩ (full && t != 34)) s

/-! ### Lifecycle transitions (R513, R514) -/

/-- The transition from `a` to `b` is permitted. -/
def State.lcPermitted (s : State) (a b : Nat) : Bool :=
  (a == 0 && b == 1 && s.anyKey) || (a == 1 && b == 2 && s.anyKey) || ((a == 1 || a == 2) && b == 3) || (a != 4 && b == 4)

/-- A refused request. -/
def State.lcRefuse (s : State) (b : Nat) : State := s.raise 0x1008 0xFF b

/-- LIFECYCLE_TRANSITION: a write of TARGET `b` by master `m`. -/
def State.lcRequest (s : State) (m b : Nat) : State :=
  if !(m ≤ 7 || m = 14) || s.isOn R.LCS_STAT_LC_BUSY || !s.lcPermitted s.lc b then s.lcRefuse b
  else
    let s := (s.putB R.LCS_STAT_LC_BUSY true).startWipe 2
    { s with lcs := { s.lcs with target := b, burning := false } }

/-- LC_TRANSITION_DONE (R514 step 3). -/
def State.lcDone (s : State) : State :=
  if !(s.isOn R.LCS_STAT_LC_BUSY && s.lcs.burning) then s
  else
    let b := s.lcs.target
    let s := ((s.burn 0 (b - 1)).put R.LCS_STAT_LC b).putB R.LCS_STAT_LC_BUSY false
    { s with lcs := { s.lcs with burning := false, scrapNext := b == 4 } }.jtagTables

/-- The verification of a wipe ends (R448, R514). -/
def State.wipeDone (s : State) (ok : Bool) : State :=
  let was := s.isOn R.MEM_SS_STAT_WIPING
  let (good, s) := s.wipeVerified ok
  if !was || !s.isOn R.LCS_STAT_LC_BUSY || s.lcs.burning || s.isOn R.MEM_SS_STAT_WIPING then s
  else if good then { s with lcs := { s.lcs with burning := true } }
  else (s.putB R.LCS_STAT_LC_BUSY false).lcRefuse s.lcs.target

/-! ### OTP programming (R516, R518, R522) -/

/-- The customer may program row `r` in the lifecycle state at hand. -/
def State.rowOpen (s : State) (r : Nat) : Bool :=
  (27 ≤ r && r ≤ 34 && s.lc ≤ 1) || (35 ≤ r && r ≤ 98 && s.lc ≤ 2)

/-- OTP_PROGRAM of row `r`. -/
def State.otpProgram (s : State) (r : Nat) : State :=
  if !s.rowBlank r || !s.rowOpen r || s.isOn R.LCS_OTP_STAT_BUSY || s.isOn R.LCS_STAT_LC_BUSY || !s.pwr.rails.getD 4 false then
    (s.putB R.LCS_OTP_STAT_ERR true).raise 0x1006 0xFF r
  else { (s.putB R.LCS_OTP_STAT_BUSY true) with lcs := { s.lcs with row := some r } }

/-- The generation that row `r` belongs to, 0 for none. -/
def rowGen (r : Nat) : Nat := if 35 ≤ r ∧ r ≤ 98 then (r - 35) / 16 + 1 else 0

/-- OTP_PROGRAM_DONE: the row is read back; `fail` gives the words that read back wrong. -/
def State.otpDone (s : State) (fail : List (Nat × Word)) : State :=
  match s.lcs.row with
  | none => s
  | some r =>
    let data := (List.range 15).map (fun k => s.rg (0x701010 + k))
    let ws := data ++ [BitVec.ofNat 16 (crc16 (wordBytes data))]
    let bad := fail.filter (fun f => ws.getD f.1 0 != f.2)
    let s := s.setOtp (16 * r) ws
    let s := bad.foldl (fun s f => s.setOtp (16 * r + f.1) [f.2]) s
    let s := { (s.putB R.LCS_OTP_STAT_BUSY false) with lcs := { s.lcs with row := none } }
    let g := rowGen r
    let s := if g != 0 && s.genValid g && decide (s.get R.LCS_STAT_CFG_GEN < g) then
        { s with lcs := { s.lcs with genNext := some g } } else s
    if bad.isEmpty then s else (s.putB R.LCS_OTP_STAT_ERR true).raise 0x1006 0xFF r

/-- A reset cuts off programming: the row is left blank or corrupt, which of them and with what words is open (R518). -/
def State.otpCut (s : State) : State :=
  match s.lcs.row with
  | none => s
  | some r =>
    let n := s.free
    let words := (List.range 15).map (fun k => BitVec.ofNat 16 (Config.freeValue (n + 1 + k)))
    let crc := BitVec.ofNat 16 (crc16 (wordBytes words) + 1 + Config.freeValue (n + 16) % 65535)
    let s := if Config.freeValue n % 2 = 0 then s else s.setOtp (16 * r) (words ++ [crc])
    { s with free := n + 17, lcs := { s.lcs with row := none } }

/-- A reset cuts off the burning of a lifecycle bit: how many of its three copies are burned by then is open, and the transition
does not resume (R514). -/
def State.fuseCut (s : State) : State :=
  if s.isOn R.LCS_STAT_LC_BUSY && s.lcs.burning then
    let n := Config.freeValue s.free % 4
    { (s.setOtp 0 [s.otpWord 0 0 ||| BitVec.ofNat 16 ((2 ^ n - 1) * 2 ^ (3 * (s.lcs.target - 1)))]) with free := s.free + 1 }
  else s

/-! ### Tamper (R525 to R529, R585) -/

/-- The sources that TSRC_EN and R525 arm now. -/
def State.armedNow (s : State) : Nat :=
  let en := s.cfgWord 2 / 4096
  let on (k : Nat) : Bool := bitOf en k && (if k = 1 ∨ k = 2 then s.clk.running
    else s.pwr.rails.getD 2 false && s.pwr.rails.getD 5 false)
  (List.range 4).foldl (fun x k => x + b2n (on k) * 2 ^ k) 0

/-- The stops that a tamper latch holds (R527 steps 3 to 5, R585), under word 2 of the active generation. -/
def State.tamperStops (s : State) : State :=
  let on := s.get R.LCS_TAMPER_STAT_LATCH != 0
  let w := s.cfgWord 2
  -- pulses that came due while their outputs were stopped are not made up for
  let s := if s.tp.stopped && !(on && bitOf w 1) then s.tpPass else s
  { s with slc := { s.slc with stopped := on && bitOf w 3 }
           syn := { s.syn with stopped := on && bitOf w 2 }
           tp := { s.tp with stopped := on && bitOf w 1 } }.outsFollow

/-- Source `k` triggers (R527 step 1, R529). -/
def State.tamperTrigger (s : State) (k : Nat) : State :=
  let s := (s.putB ⟨0x701006, 12 + k, 12 + k⟩ true).addSat R.LCS_TAMPER_STAT_COUNT 1
  let s := (s.putB R.LCS_STAT_KEYS_VALID false).startWipe 1
  { s with lcs := { s.lcs with trigNew := s.lcs.trigNew ||| 2 ^ k }, memSt := { s.memSt with wipeCause := 1 } }

/-- Sources are armed anew: one that is active already triggers (R525). -/
def State.rearm (s : State) : State :=
  let now := s.armedNow
  let was := s.lcs.armed
  let s := { s with lcs := { s.lcs with armed := now } }
  forUp 4 (fun k s =>
    if bitOf now k && !bitOf was k && s.isOn ⟨0x701006, 8 + k, 8 + k⟩ then s.tamperTrigger k else s) s

/-- TAMPER: source `k` becomes active (R525). -/
def State.tamper (s : State) (k : Nat) (stays : Bool) : State :=
  let was := s.isOn ⟨0x701006, 8 + k, 8 + k⟩
  let s := s.putB ⟨0x701006, 8 + k, 8 + k⟩ stays
  if !was && bitOf s.lcs.armed k then s.tamperTrigger k else s

/-- A write of `v` to LCS_TAMPER_STAT: a latch clears only while its source is inactive (R527 step 6). -/
def State.tamperStatWrite (s : State) (v : Nat) : State :=
  let s := forUp 4 (fun k s =>
    if bitOf v (12 + k) && !s.isOn ⟨0x701006, 8 + k, 8 + k⟩ then s.putB ⟨0x701006, 12 + k, 12 + k⟩ false else s) s
  if s.get R.LCS_TAMPER_STAT_LATCH = 0 then s.tamperStops else s

/-- KEYS_OK (R528). -/
def State.keysOk (s : State) : State :=
  if s.get R.LCS_TAMPER_STAT_LATCH = 0 then s.putB R.LCS_STAT_KEYS_VALID true else s

/-- The LCS block at a tick edge: a new generation becomes active, SCRAPPED comes into force, and tamper is recorded and
acts (R514, R522, R527, R529). -/
def State.lcsTick (s : State) : State :=
  let s := match s.lcs.genNext with
    | some g =>
      let s := { (s.put R.LCS_STAT_CFG_GEN g) with lcs := { s.lcs with genNext := none } }.rearm
      if s.lc = 2 then s.jtagTables else s
    | none => s
  let s := { s with slc := { s.slc with scrapped := s.slc.scrapped || s.lcs.scrapNext } }
  let s := if s.lcs.trigNew = 0 then s
    else { (s.raise 0x1001 0xFF s.lcs.trigNew) with lcs := { s.lcs with trigNew := 0 } }
  s.tamperStops

/-! ### Crypto assist: commands (R530) -/

/-- A write of `op` to LCS_CRYPTO_CMD by master `m`. -/
def State.cryptoCmd (s : State) (m op : Nat) : State :=
  if s.isOn R.LCS_CRYPTO_STAT_BUSY then s.putB R.LCS_CRYPTO_STAT_CMD_IGN true
  else
    let ptr (a : Nat) : Nat := (s.rg a).toNat + 65536 * bitsOf (s.rg (a + 1)).toNat 7 0
    { (s.putB R.LCS_CRYPTO_STAT_BUSY true) with lcs := { s.lcs with crypto := { s.lcs.crypto with
        op := op, master := m, src := ptr 0x701022, dst := ptr 0x701024, len := (s.rg 0x701026).toNat } } }

end Sys2Proof.Machine
end

