-- ==== Sys2Proof/Machine/Correlate.lean ====
section
/-!
DEFINITION. What a pipeline of the search engine computes: the circular correlation of a block against code spectra, and the
spectrum of a stored code (spec/07_search_engine.md R199, R200, R206).
-/

namespace Sys2Proof.Machine

/-- The complex number in a word of two signed bytes: real part in bits 15:8, imaginary part in bits 7:0. -/
def wordCplx (w : Word) : Cplx := { re := signedOf 8 (w.toNat / 256), im := signedOf 8 w.toNat }

/-- The word of a complex number of two signed bytes. -/
def cplxWord (x : Cplx) : Word := BitVec.ofNat 16 (256 * unsignedOf 8 x.re + unsignedOf 8 x.im)

/-- The conjugate. -/
def Cplx.conj (x : Cplx) : Cplx := { re := x.re, im := -x.im }

/-- FFT of `n` points, in 2⁻³⁰. -/
def fft (n : Nat) (l : List Cplx) : List Cplx := (List.range n).map (fun k => dftBin l k n)

/-- IFFT of `n` points, without the factor 1 ÷ n, in 2⁻³⁰. -/
def ifft (n : Nat) (l : List Cplx) : List Cplx := (List.range n).map (fun k => (dftBin (l.map Cplx.conj) k n).conj)

/-- Step 1 of R199: the fractional part `f` ÷ 16 of the Doppler is wiped off the block. -/
def wipeOff (n f : Nat) (x : List Cplx) : List Cplx := x.zipIdx.map (fun e => e.1.mul (twiddle (f * e.2) (16 * n)))

/-- Step 3 of R199: X'[m] = X[(m + q) mod n]. -/
def rotateBins (n : Nat) (q : Int) (x : List Cplx) : List Cplx :=
  (List.range n).map (fun (m : Nat) => x.getD ((((m : Int) + q) % (n : Int)).toNat) {})

/-- |r[p]|² of the block `x` at grid Doppler `d` (1/16 bin) against the code spectrum `sp` (R199), at each phase p. -/
def blockPowers (n : Nat) (x sp : List Cplx) (d : Int) : List Nat :=
  let spectrum := rotateBins n (d / 16) (fft n (wipeOff n (d % 16).toNat x))
  (ifft n ((spectrum.zip sp).map (fun e => e.1.mul e.2))).map Cplx.energy

/-- Sums of two lists of powers, place by place. -/
def addPowers (a b : List Nat) : List Nat := (a.zip b).map (fun e => e.1 + e.2)

/-- The cells of one code at one Doppler over the blocks (R200), in the pipeline's internal unit. -/
def dopplerCells (n : Nat) (blocks : List (List Cplx)) (sp : List Cplx) (d : Int) : List Nat :=
  (blocks.foldl (fun acc x => addPowers acc (blockPowers n x sp d)) (List.replicate n 0)).map (· / (Config.cellUnit + 1))

/-- The cells of a job: by code, then Doppler, then phase. -/
def searchCells (n : Nat) (blocks specs : List (List Cplx)) (dops : List Int) : List Nat :=
  specs.flatMap (fun sp => dops.flatMap (dopplerCells n blocks sp))

/-- `x`, in 2⁻³⁰, scaled by 2^−e. -/
def scaleBin (e : Int) (x : Int) : Int :=
  if 0 ≤ e then rnear x (2 ^ (30 + e.toNat)) else rnear (x * 2 ^ (-e).toNat) (2 ^ 30)

/-- The smallest exponent, from −8, at which every component of `l` fits ±127 (R206). -/
def fitExponent (l : List Cplx) : Int :=
  let fits (e : Int) : Bool := l.all (fun x => (scaleBin e x.re).natAbs ≤ 127 && (scaleBin e x.im).natAbs ≤ 127)
  (((List.range 32).map (fun (k : Nat) => (k : Int) - 8)).find? fits).getD 23

/-- The spectrum of the replica `c` and its scale exponent (R206). -/
def codeSpectrum (n : Nat) (c : List Cplx) : List Word × Int :=
  let l := (fft n c).map Cplx.conj
  let e := fitExponent l
  (l.map (fun x => cplxWord (x.map (scaleBin e))), e)

/-- Replica sample `k` of a BUILD job (R206): stored code of `len` chips from `ptr` at `step` ÷ 2³² chips a sample, times the
BOC_SIN subcarrier at `ratio`. -/
def State.buildSample (s : State) (ptr len ratio step k : Nat) : Cplx :=
  let ph := k * step % (max 1 len * 2 ^ 32)
  let chip := chipSign (s.storedChip ptr (ph / 2 ^ 32) 0)
  { re := chip * (if ratio = 0 then 1 else bocSin (ph % 2 ^ 32) (2 ^ 32) ratio), im := 0 }

end Sys2Proof.Machine
end

