-- ==== Sys2Proof/Machine/Search.lean ====
section
/-!
DEFINITION. The search engine (spec/07_search_engine.md, R199 to R226): capture writer, job entries, dispatch,
completion, the candidate list and handover to channels.
-/

namespace Sys2Proof.Machine

/-- Pipeline `k`. -/
def State.pipe (s : State) (k : Nat) : Pipe := s.srch.pipes.getD k {}

/-- Sets pipeline `k`. -/
def State.setPipe (s : State) (k : Nat) (p : Pipe) : State :=
  { s with srch := { s.srch with pipes := listPut s.srch.pipes k p {} } }

/-- Pipeline `k` is powered. -/
def State.pipeOn (s : State) (k : Nat) : Bool := bitOf (s.get R.SRCH_PIPE_STAT_POWERED) k

/-- Weir allows search jobs of class `c` (R421). -/
def State.searchAllowed (s : State) (c : Nat) : Bool := c == 0 || s.get R.WEIR_LEVEL_LEVEL < 10 - 3 * c

/-- Indices of the entries in state READY. -/
def State.readyJobs (s : State) : List Nat :=
  (s.regs.filter (fun e => 0x650000 ≤ e.1 && e.1 < 0x65C000 && e.1 % 8 == 0 && e.2.toNat / 8192 == 1)).map
    (fun e => (e.1 - 0x650000) / 8)

/-! ### Fields of an entry (R208, R209) -/

/-- N. -/
def State.jobN (s : State) (j : Nat) : Nat := 2 ^ s.get (R.JOB_LOG2N j)
/-- NC. -/
def State.jobNc (s : State) (j : Nat) : Nat := s.get (R.JOB_NC_M1 j) + 1
/-- Entry `j` is a BUILD job. -/
def State.jobBuild (s : State) (j : Nat) : Bool := s.isOn (R.JOB_KIND j)
/-- CODE_CNT; a BUILD job has one spectrum. -/
def State.jobCodes (s : State) (j : Nat) : Nat := if s.jobBuild j then 1 else s.get (R.JOB_CODE_CNT_M1 j) + 1
/-- CAP_OFS. -/
def State.jobCapOfs (s : State) (j : Nat) : Nat := s.get (R.JOB_CAP_OFS j) + 65536 * s.get (R.JOB_CAP_OFS_W2 j)
/-- Word `w` of entry `j`. -/
def State.jobWord (s : State) (j w : Nat) : Nat := (s.rg (0x650000 + j * 8 + w)).toNat
/-- Grid point `i` of entry `j`, in 1/16 bin. -/
def State.jobDop (s : State) (j i : Nat) : Int :=
  s.getS (R.JOB_DOP_START j) + (i * s.get (R.JOB_DOP_STEP j) : Nat)

/-- The first check of R213 that entry `j` fails, if any. -/
def State.jobCheck (s : State) (j : Nat) : Option Nat :=
  let lg := s.get (R.JOB_LOG2N j)
  let n := s.jobN j
  let codes := s.jobCodes j
  let nc := s.jobNc j
  let dops := s.get (R.JOB_DOP_N_M1 j) + 1
  let ring := s.act R.SRCH_CAP_CFG_LEN * 65536
  let snap := s.act R.SRCH_CAP_CFG_MODE == 2 || (s.act R.SRCH_CAP_CFG_MODE == 0 && s.srch.cur.snap)
  let far (d : Int) : Bool := 8 * n < d.natAbs
  if lg < 10 ∨ 16 < lg then some 1
  else if s.get (R.JOB_CLASS j) = 0 then some 2
  else if 0x200000 < s.get (R.JOB_SPEC_PTR j) * 1024 + codes * n then some 3
  else if s.jobBuild j then
    let w := s.jobWord j
    let len := w 4 + 65536 * (w 2 / 4 % 16)
    let ptr := w 1 + 65536 * (w 2 % 4)
    if len = 0 ∨ w 5 + 65536 * w 6 = 0 ∨ 262144 < ptr + (len + 15) / 16 then some 9 else none
  else if 65536 < codes * n then some 4
  else if 1 < nc ∧ 262144 < codes * dops * n then some 5
  else if s.get (R.JOB_DOP_STEP j) = 0 ∨ far (s.jobDop j 0) ∨ far (s.jobDop j (dops - 1)) then some 6
  else if ring < nc * n ∨ (snap ∧ ring < s.jobCapOfs j + nc * n) then some 7
  else if s.isOn (R.JOB_HO_EN j) ∧ 191 < s.get (R.JOB_HO_CHAN j) + codes - 1 then some 8
  else none

/-! ### The candidate list and handover (R218 to R221) -/

/-- The candidate list is full. -/
def State.listFull (s : State) : Bool := (s.get R.SRCH_RES_WR_WR + 1) % 512 == s.get R.SRCH_RES_RD_RD

/-- The generation that pipeline `p`'s job reads: the current one or the last; of an earlier one nothing is left (R204). -/
def State.pipeGen (s : State) (p : Pipe) : CapGen :=
  if p.gen = s.get R.SRCH_CAP_GEN_GEN then s.srch.cur
  else if (p.gen + 1) % 256 = s.get R.SRCH_CAP_GEN_GEN then s.srch.old
  else {}

/-- The stretch of generation `g` that holds sample `a`. -/
def CapGen.segOf (g : CapGen) (a : Nat) : CapSeg := (g.segs.find? (fun e => decide (e.start ≤ a))).getD {}

/-- Band samples from the ADC time of the first sample of the span of the job on `p` to the latch sample of the last tick edge
(R219). -/
def State.spanAge (s : State) (p : Pipe) : Int :=
  let g := s.pipeGen p
  let a := p.pos.getD 0
  let e := g.segOf a
  g.since - (e.ofs + ((a - e.start) * e.dec : Nat))

/-- DISC and CLKQ of the job on `p` (R215). -/
def State.jobFlags (s : State) (p : Pipe) (j : Nat) : Bool × Bool :=
  match p.pos with
  | none => (false, false)
  | some a =>
    let g := s.pipeGen p
    (match g.disc with
      | some d => decide (a ≤ d ∧ d < a + s.jobNc j * s.jobN j)
      | none => false, g.clkq)

/-- Whether peak `q` of job `j` is handed over, and HO_RES (R219, R220). `given`: codes handed over before. -/
def State.hoResult (s : State) (j : Nat) (flags : Bool × Bool) (given : List Nat) (q : Peak) : Nat :=
  let c := s.get (R.JOB_HO_CHAN j) + q.code.val
  if q.ratio.val = 0 ∨ !s.isOn (R.JOB_HO_EN j) ∨ !s.isOn R.SRCH_CFG_HO_EN then 0
  else if q.ratio.val < 4 * s.get (R.JOB_HO_TH j) then 2
  else if flags.1 || flags.2 then 5
  else if given.contains q.code.val then 6
  else if s.chState c ≠ 0 ∨ !s.isOn (R.CH_HO_OK c) then 3
  else if s.get (R.CH_BAND c) ≠ s.act R.DFE_DEC_CFG_SRC % 3 then 4
  else if s.isFollower c || s.startBad c then 7
  else 1

/-- The claim of channel `c` for peak `q` of job `j` on pipeline `p` (R219, R221). -/
def State.handover (s : State) (j : Nat) (p : Pipe) (q : Peak) (c : Nat) : State :=
  let d := s.jobDop j q.dop.val
  let seg := (s.pipeGen p).segOf (p.pos.getD 0)
  let dec := seg.dec
  let n := s.jobN j
  let carr := rdiv (seg.mix * (dec * n : Nat) * 2 ^ 32 + d * 2 ^ 44) (dec * n)
  let code : Int := s.getW (R.CH_CODE_RATE c) + roundAway (d * 81920000 * s.get (R.JOB_CDR j)) (16 * dec * n)
  let s := s.bothOfPair c (fun e s => s.chArm true e)
  let s := s.putWBoth (R.CH_CARR_RATE c) (unsignedOf 48 carr)
  let s := s.putWBoth (R.CH_CODE_RATE c) (unsignedOf 48 code)
  let left := s.clk.tickLen - s.clk.phase
  let skip := if 8192 ≤ left then 0 else 1
  let age := s.spanAge p
  let s := s.hoWrite c (age + (s.samplesInTick + skip * 81920 : Nat)) (q.phase.val * dec)
  s.setChan c { s.chan c with ho := true, hoAge := age, hoPhase := q.phase.val * dec, hoSkip := skip }

/-- Channel `c` as it was before a START accepted in this very clock, which loses it to the claim of a handover (R157). -/
def State.startUndone (s : State) (c : Nat) : State :=
  let h := s.chan c
  if s.chState c = 1 ∧ !s.isOn (R.CH_HO c) ∧ h.armedAt = s.clk.total ∧ h.armedFrom = 0 then
    s.bothOfPair c (fun d s => s.put (R.CH_STATE d) (s.chan d).armedFrom)
  else s

/-- The claim of channel `c`, with the START that it defeats rejected (R157). -/
def State.claim (s : State) (j : Nat) (p : Pipe) (q : Peak) (c : Nat) : State :=
  let t := s.startUndone c
  (if t.chState c ≠ s.chState c then t.chRejectCmd 1 c 1 else t).handover j p q c

/-- Handover of the peaks of a DONE job in order; answers HO_RES of each. -/
def State.handovers (s : State) (j : Nat) (p : Pipe) (flags : Bool × Bool) :
    List Peak → List Nat → List Nat × State
  | [], _ => ([], s)
  | q :: qs, given =>
    let c := s.get (R.JOB_HO_CHAN j) + q.code.val
    let r := (s.startUndone c).hoResult j flags given q
    let s' := if r = 1 then s.claim j p q c else s
    let t := State.handovers s' j p flags qs (if r = 1 then given ++ [q.code.val] else given)
    (r :: t.1, t.2)

/-- The 16 words of a record (R218). -/
def jobRecord (j k tick : Nat) (p : Pipe) (f : Finish) (flags : Bool × Bool) (ho : List Nat) : List Word :=
  let w (n : Nat) : Word := BitVec.ofNat 16 n
  let peaks := (List.range 4).flatMap (fun q =>
    match f.peaks[q]? with
    | none => [w 0, w 0, w 0]
    | some e => [w (e.code.val * 0x1000 + e.dop.val * 16 + e.phase.val / 65536), w e.phase.val,
                 w (ho.getD q 0 * 0x1000 + e.ratio.val)])
  [w (f.outcome * 0x2000 + j), w (f.err * 256 + k * 64 + b2n flags.1 * 32 + b2n p.waited * 16 + b2n flags.2 * 8),
   w tick, w f.noise] ++ peaks

/-- Pipeline `k` writes the record of its finished job, if the list has room (R218). -/
def State.writeRecord (s : State) (k : Nat) : State :=
  let p := s.pipe k
  match p.job, p.fin with
  | some j, some f =>
    if s.listFull then s
    else
      let flags := s.jobFlags p j
      let (ho, s) := if f.outcome = 1 ∧ !s.jobBuild j then s.handovers j p flags f.peaks [] else ([], s)
      let wr := s.get R.SRCH_RES_WR_WR
      let base := s.get R.SRCH_RES_BASE_BASE * 0x2000 + wr * 16
      let ws := jobRecord j k s.clk.tickCount p f flags ho
      let s := (ws.zipIdx).foldl (fun s e => s.memWriteChecked 9 (base + e.2) e.1) s
      let s := (s.put (R.JOB_STATE j) f.newState).put R.SRCH_RES_WR_WR ((wr + 1) % 512)
      let s := s.setPipe k {}
      if s.listFull then s.raise 0x0404 k j else s
  | _, _ => s

/-- The job on pipeline `k` leaves its computation with `f`. -/
def State.finishJob (s : State) (k : Nat) (f : Finish) : State :=
  (s.setPipe k { s.pipe k with fin := some f }).writeRecord k

/-- The job on pipeline `k` leaves with outcome `o`, no peaks and entry state `st`: word 3 of its record is not stated
(log entry 13). -/
def State.jobOut (s : State) (k o err st : Nat) : State :=
  { s with free := s.free + 1 }.finishJob k ⟨o, err, Config.freeValue s.free % 65536, [], st⟩

/-- The job on pipeline `k` goes to ERROR (R213 to R215, R225); with `err` 2, word 3 shows the check's number. -/
def State.jobError (s : State) (k err check : Nat) : State :=
  match (s.pipe k).job with
  | none => s
  | some j =>
    let s := s.raise (0x0400 + err) k (j + check * 65536)
    if err = 2 then s.finishJob k ⟨3, err, check, [], 5⟩ else s.jobOut k 3 err 5

/-! ### Entries and dispatch -/

/-- A dropped write to a job entry (R211). -/
def State.jobDrop (s : State) (m a : Nat) : State := s.raise 0x0401 0xFF a (some m)

/-- A write of `v` to word `w` of entry `j` by master `m` (R211). -/
def State.jobWrite (s : State) (m j w v : Nat) : State :=
  let a := 0x650000 + j * 8 + w
  let st := s.get (R.JOB_STATE j)
  if st = 1 ∨ st = 2 ∨ (w = 0 ∧ 2 ≤ v / 8192) then s.jobDrop m a else s.store a v

/-- The latest writing of index `o` in generation `g`, if it has been written. -/
def CapGen.lastOf (g : CapGen) (o : Nat) : Option Nat :=
  if o < g.ring ∧ o < g.written then some (o + (g.written - 1 - o) / g.ring * g.ring) else none

/-- A SNAP generation has filled its ring. -/
def CapGen.full (g : CapGen) : Bool := g.snap && decide (g.ring ≤ g.written)

/-- The writer will write more samples of its generation. -/
def State.capLive (s : State) : Bool :=
  s.isOn R.SRCH_CAP_GEN_ACTIVE && !s.isOn R.SRCH_CAP_GEN_SNAP_DONE && !s.srch.cur.full

/-- The first sample of entry `j`'s span and the age of its generation, 0 for the current one and 1 for the last: the latest
writing that is available, or, where the writer goes on, the first that it will make (R204, R214; log entry 127). -/
def State.spanStart (s : State) (j : Nat) : Option (Nat × Nat) :=
  let o := s.jobCapOfs j
  match s.srch.cur.lastOf o, s.srch.old.lastOf o with
  | some a, _ => some (a, 0)
  | none, some a => some (a, 1)
  | none, none => if s.capLive && decide (o < s.srch.cur.ring) then some (o, 0) else none

/-- Band samples from the edge at hand to the decimator's next output (R203). -/
def State.capPhase (s : State) : Nat :=
  let d := s.act R.DFE_DEC_CFG_D
  if d = 0 then 0 else (d - s.dfe.decCount % d) % d

/-- Clock count at which sample `i` of the current generation is written, from what is known at the last tick edge (R123,
R203). -/
def State.sampleClock (s : State) (i : Nat) : Nat :=
  let g := s.srch.cur
  s.clk.total - s.clk.phase + 6 * (s.capPhase + (i - g.written + g.skip) * s.act R.DFE_DEC_CFG_D + 1)

/-- Grid points of entry `j`. -/
def State.jobDops (s : State) (j : Nat) : List Int := (List.range (s.get (R.JOB_DOP_N_M1 j) + 1)).map (s.jobDop j)

/-- Clocks that a block of a SEARCH job takes (R222). -/
def State.blockClocks (s : State) (j : Nat) : Nat :=
  let f := ((s.jobDops j).map (fun d => d % 16)).eraseDups.length
  (f + s.jobCodes j * (s.jobDops j).length) * (s.jobN j + 128)

/-- The reading of blocks `b` and up of the span from `a`, at clock `t` at the earliest: the clock at which the last of them has
been computed, and whether the pipeline waits for a block (R214, R222). `age` is that of the generation. -/
def State.spanRun (s : State) (j a age : Nat) : Nat → Nat → Nat → Nat × Bool
  | 0, _, t => (t, false)
  | n + 1, b, t =>
    let last := a + (b + 1) * s.jobN j - 1
    let at_ := if age = 0 && decide (s.srch.cur.written ≤ last) then s.sampleClock last else 0
    let r := s.spanRun j a age n (b + 1) (max t at_ + s.blockClocks j)
    (r.1, r.2 || decide (t < at_))

/-- The words of `n` spectra memories from `a`, read from the Pool as master 9 (R207). -/
def State.loadSpectra (s : State) (a : Nat) : Nat → List Word × State
  | 0 => ([], s)
  | n + 1 =>
    let r := s.memReadChecked 9 a
    let t := State.loadSpectra r.2 (a + 1) n
    (r.1 :: t.1, t.2)

/-- The start of the job dispatched to pipeline `k`: a BUILD job computes, a SEARCH job loads its spectra and has its span, or
never will (R206, R207, R214, R222). -/
def State.pipeSpan (s : State) (k : Nat) : State :=
  let p := s.pipe k
  match p.job with
  | none => s
  | some j =>
    let now := s.clk.total
    if s.jobBuild j then s.setPipe k { p with due := now + 2 * s.jobN j + 384 }
    else match s.spanStart j with
      | none => s.jobError k 2 10
      | some (a, age) =>
        let load := s.jobCodes j * s.jobN j
        let r := s.spanRun j a age (s.jobNc j) 0 (now + 256 + load)
        let (spec, s) := s.loadSpectra (0x100000 + s.get (R.JOB_SPEC_PTR j) * 1024) load
        s.setPipe k { p with pos := some a, gen := (s.get R.SRCH_CAP_GEN_GEN + 256 - age) % 256, spec := spec
                             due := r.1 + 512, waited := r.2 }

/-- `a` is dispatched before `b` (R212). -/
def State.jobBefore (s : State) (a b : Nat) : Bool :=
  let pa := s.get (R.JOB_PRIO a)
  let pb := s.get (R.JOB_PRIO b)
  pa < pb || (pa == pb && a < b)

/-- JOB_DISPATCH (R212, R213): the lowest idle powered pipeline within PIPE_MAX takes the best READY job. -/
def State.jobDispatch (s : State) : State :=
  let idle := (List.range 4).find? (fun k => s.pipeOn k && k < s.get R.SRCH_CFG_PIPE_MAX && (s.pipe k).job.isNone)
  let jobs := s.readyJobs.filter (fun j => s.searchAllowed (s.get (R.JOB_CLASS j)))
  let best := jobs.foldl (fun b j => match b with
    | none => some j
    | some i => if s.jobBefore j i then some j else some i) none
  match idle, best with
  | some k, some j =>
    if !s.isOn R.SRCH_CFG_EN || s.clk.limp then s
    else
      let s := (s.setPipe k { job := some j }).put (R.JOB_STATE j) 2
      match s.jobCheck j with
      | some n => s.jobError k 2 n
      | none => s.pipeSpan k
  | _, _ => s

/-! ### Peaks (R217) -/

/-- Code, Doppler and phase of cell `i`, of `n` phases and `dops` grid points. -/
def cellAt (n dops i : Nat) : Nat × Nat × Nat := (i / (n * dops), i / n % dops, i % n)

/-- Cell `b` may not be chosen after peak `a`: same code, within 1 grid point and, round `span` phases, 2 samples. -/
def nearPeak (span : Nat) (a b : Nat × Nat × Nat) : Bool :=
  let d := (a.2.2 + span - b.2.2) % span
  a.1 == b.1 && decide (a.2.1 ≤ b.2.1 + 1) && decide (b.2.1 ≤ a.2.1 + 1) && (decide (d ≤ 2) || decide (span ≤ d + 2))

/-- The cell chosen after the peaks `l`: the largest within `span` phases, ties to the lower code, Doppler and phase; with
no power left, the first cell that may be chosen. -/
def nextPeak (n dops span : Nat) (cells : List Nat) (l : List (Nat × Nat × Nat)) : Option (Nat × Nat × Nat) :=
  let open_ (c : Nat × Nat × Nat) : Bool := decide (c.2.2 < span) && !l.any (fun p => nearPeak span p c)
  let best := cells.zipIdx.foldl (fun (b : Option (Nat × Nat)) e =>
    if (b.map (·.1)).getD 0 < e.1 && open_ (cellAt n dops e.2) then some e else b) none
  match best with
  | some e => some (cellAt n dops e.2)
  | none => (List.range 16).map (fun p => (0, 0, p)) |>.find? open_

/-- The cells of the peaks, `k` more after `l`. -/
def peakCells (n dops span : Nat) (cells : List Nat) : Nat → List (Nat × Nat × Nat) → List (Nat × Nat × Nat)
  | 0, l => l
  | k + 1, l => match nextPeak n dops span cells l with
    | some c => peakCells n dops span cells k (l ++ [c])
    | none => l

/-- 16 δ of the three-point fit, where its divisor is not 0: clamped to ±8. -/
def fitSixteenth (m z p : Int) : Int :=
  let d := m - 2 * z + p
  clampInt (-8) 8 (if 0 < d then rnear (8 * (m - p)) d.toNat else rnear (8 * (p - m)) (-d).toNat)

/-- The peak at cell `c`. A fit with divisor 0, and the ratio of a cell with no power or below the mean, are not stated
(log entry 13). -/
def State.peakOf (s : State) (n dops span : Nat) (cells : List Nat) (sum count : Nat) (c : Nat × Nat × Nat) : Peak :=
  let at_ (p : Nat) : Nat := cells.getD ((c.1 * dops + c.2.1) * n + p % n) 0
  let z := at_ c.2.2
  let m := at_ (c.2.2 + n - 1)
  let p := at_ (c.2.2 + 1)
  let fit : Int := if m + p = 2 * z then ((Config.freeValue s.free % 17 : Nat) : Int) - 8 else fitSixteenth m z p
  let ratio := if z = 0 ∨ z * count < sum then Config.freeValue (s.free + 1) else dbSixteenth (z * count) sum
  { code := Fin.ofNat 16 c.1, dop := Fin.ofNat 256 c.2.1, ratio := Fin.ofNat 4096 ratio
    phase := Fin.ofNat 1048576 (((16 * c.2.2 : Nat) + fit) % ((16 * span : Nat) : Int)).toNat }

/-- The four peaks and NOISE of a SEARCH job `j` with these cells (R217, R218); a mean below the unit has no stated
NOISE. -/
def State.jobPeaks (s : State) (j : Nat) (cells : List Nat) : List Peak × Nat × State :=
  let n := s.jobN j
  let dops := s.get (R.JOB_DOP_N_M1 j) + 1
  let span := n / 2 ^ s.get (R.JOB_KPER j)
  let count := s.jobCodes j * dops * n
  let cells := cells.take count
  let sum := cells.sum
  let pos := peakCells n dops span cells 4 []
  let peaks := pos.zipIdx.map (fun e => { s with free := s.free + 2 * e.2 }.peakOf n dops span cells sum count e.1)
  let noise := if count ≤ sum then min 65535 (dbFree sum count) else Config.freeValue (s.free + 8) % 65536
  (peaks, noise, { s with free := s.free + 9 })

/-- A BUILD job ends: the spectrum of its code goes to the Pool (R206, R209). -/
def State.buildEnd (s : State) (k j : Nat) : State :=
  let w := s.jobWord j
  let n := s.jobN j
  let c := (List.range n).map
    (s.buildSample (w 1 + 65536 * (w 2 % 4)) (w 4 + 65536 * (w 2 / 4 % 16)) (w 2 / 1024) (w 5 + 65536 * w 6))
  let (spec, e) := codeSpectrum n c
  let base := 0x100000 + s.get (R.JOB_SPEC_PTR j) * 1024
  (spec.zipIdx.foldl (fun s e => s.memWriteChecked 9 (base + e.2) e.1) s).finishJob k ⟨1, 0, unsignedOf 16 e, [], 3⟩

/-- The addresses of the span from sample `a` of a generation with ring `ring`, `n` of them. -/
def spanAddrs (a ring n : Nat) : List Nat := (List.range n).map (fun i => 0x300000 + (a + i) % max 1 ring)

/-- `l` cut into runs of `n`, `k` of them. -/
def runsOf {α : Type} (n : Nat) : Nat → List α → List (List α)
  | 0, _ => []
  | k + 1, l => l.take n :: runsOf n k (l.drop n)

/-- The cells of job `j` on pipeline `p`, from the capture buffer and its spectrum memory (R199, R200). -/
def State.jobCells (s : State) (p : Pipe) (j : Nat) : List Nat :=
  let n := s.jobN j
  let words := (spanAddrs (p.pos.getD 0) (s.pipeGen p).ring (s.jobNc j * n)).map s.memGet
  searchCells n (runsOf n (s.jobNc j) (words.map wordCplx)) (runsOf n (s.jobCodes j) (p.spec.map wordCplx)) (s.jobDops j)

/-- A sample of the span of the job on `p` has been overwritten (R204, R215). -/
def State.spanLost (s : State) (p : Pipe) (j : Nat) : Bool :=
  let a := p.pos.getD 0
  let g := s.pipeGen p
  let now := s.get R.SRCH_CAP_GEN_GEN
  let cur := s.srch.cur
  if p.gen = now then decide (a + g.ring < g.written)
  else (p.gen + 1) % 256 != now
    || (List.range (s.jobNc j * s.jobN j)).any (fun i => decide ((a + i) % max 1 g.ring < min cur.written cur.ring))

/-- A SEARCH job whose blocks have all been written ends (R199, R215, R217). -/
def State.searchEnd (s : State) (k j : Nat) : State :=
  let p := s.pipe k
  let a := p.pos.getD 0
  let n := s.jobNc j * s.jobN j
  if s.spanLost p j then s.jobError k 3 0
  else if (s.pipeGen p).written < a + n then s
  else if s.memSt.flips.any (fun e => e.2.parityBad && (spanAddrs a (s.pipeGen p).ring n).contains e.1) then s.jobError k 6 0
  else
    let (peaks, noise, s) := s.jobPeaks j (s.jobCells p j)
    s.finishJob k ⟨1, 0, noise, peaks, 3⟩

/-- JOB_COMPLETE (R206, R214, R215, R217, R218, R222); `u` are soft errors in the capture buffer. -/
def State.jobComplete (s : State) (k : Nat) (u : List Upset) : State :=
  let s := s.upsets (u.filter (fun e => regionOf e.gwa.toNat == .capture))
  let p := s.pipe k
  match p.job, p.fin with
  | some j, none => s.dueClock p.due (fun s => if s.jobBuild j then s.buildEnd k j else s.searchEnd k j)
  | _, _ => s

/-- CAPTURE_OVERWRITE (R215). -/
def State.captureOverwrite (s : State) (k : Nat) : State :=
  let p := s.pipe k
  match p.job, p.pos, p.fin with
  | some j, some _, none => if s.spanLost p j then s.jobError k 3 0 else s
  | _, _, _ => s

/-- SRCH_ABORT of job `j` (R216). -/
def State.srchAbort (s : State) (j : Nat) : State :=
  match s.get (R.JOB_STATE j) with
  | 1 => s.put (R.JOB_STATE j) 6
  | 2 =>
    match (List.range 4).find? (fun k => (s.pipe k).job == some j) with
    | some k => s.jobOut k 4 0 6
    | none => s
  | _ => s.putB R.SRCH_STAT_ABORT_IGN true

/-- A write of SRCH_RES_RD, within what has been written (R218): space comes free and held pipelines write their
records. -/
def State.resRd (s : State) (v : Nat) : State :=
  let rd := s.get R.SRCH_RES_RD_RD
  let wr := s.get R.SRCH_RES_WR_WR
  if (wr + 512 - rd) % 512 < (v % 512 + 512 - rd) % 512 then s.reject 0x706012
  else forUp 4 (fun k s => s.writeRecord k) (s.put R.SRCH_RES_RD_RD (v % 512))

/-- SNAP_DONE (R202): the generation has reached the ring end. -/
def State.snapDone (s : State) : State :=
  let g := s.srch.cur
  if g.snap && s.isOn R.SRCH_CAP_GEN_ACTIVE && decide (g.ring ≤ g.written) then
    (s.putB R.SRCH_CAP_GEN_SNAP_DONE true).putB R.SRCH_CAP_GEN_ACTIVE false
  else s

/-! ### The tick edge -/

/-- Writes samples upward from ring index `i`, wrapping at `ring`. -/
def State.capWords (s : State) (ring i : Nat) : List Word → State
  | [] => s
  | w :: t => (s.memPut (0x300000 + i % max 1 ring) w).capWords ring (i + 1) t

/-- The words of the capture ring from index `i`, `n` of them, are 0. -/
def State.capClear (s : State) (ring i n : Nat) : State :=
  let hit (a : Nat) : Bool := 0x300000 ≤ a && a < 0x300000 + ring && (a - 0x300000 + ring - i % max 1 ring) % max 1 ring < n
  { s with mem := s.mem.filter (fun e => !hit e.1)
           memSt := { s.memSt with flips := s.memSt.flips.filter (fun e => !hit e.1) } }

/-- The capture writer over the tick that ends, of `n` band samples, in which the decimator gave `words` (R202, R203). An
output of a path that gives no samples is 0. -/
def State.capTickEnd (s : State) (n : Nat) (words : List Word) : State :=
  let d := s.act R.DFE_DEC_CFG_D
  let g := s.srch.cur
  let s := { s with srch := { s.srch with
    cur := { g with since := g.since + n }, old := { s.srch.old with since := s.srch.old.since + n } } }
  let o := s.capPhase
  let n := n - s.dfe.phaseFrom
  if !s.capLive || d == 0 || s.act R.DFE_DEC_CFG_EN == 0 || n ≤ o then s
  else
    let out := (n - 1 - o) / d + 1
    let skip := min out g.skip
    let k := if g.snap then min (out - skip) (g.ring - g.written) else out - skip
    let s := s.capClear g.ring g.written (min k g.ring)
    let s := s.capWords g.ring g.written ((words.drop skip).take k)
    let wr := g.written + k
    let idx := if g.snap then wr else wr % max 1 g.ring
    let s := (s.setRg 0x706005 (BitVec.ofNat 16 idx)).setRg 0x706006 (BitVec.ofNat 16 (idx / 65536))
    { s with srch := { s.srch with cur := { s.srch.cur with written := wr, skip := g.skip - skip } } }

/-- Band samples from the latch stamp of an edge (24 before it) to the ADC time of what the decimator gives at that edge, counted
back: 32 D + 6 less 24 (R124, R163, R203). -/
def capLag (d : Nat) : Nat := 32 * d - 18

/-- Outputs of the decimator still to come at the edge at hand whose ADC time lies before its latch stamp (R203). -/
def State.capBefore (s : State) : Nat :=
  let d := s.act R.DFE_DEC_CFG_D
  (capLag d - s.capPhase + d - 1) / max 1 d

/-- Band samples from the latch stamp of the edge at hand to the ADC time of output `i` after it. -/
def State.capOfs (s : State) (i : Nat) : Int :=
  let d := s.act R.DFE_DEC_CFG_D
  (s.capPhase + i * d : Nat) - (capLag d : Int)

/-- The stretch that begins with sample `i`, which stands `ofs` band samples after the stamp of the generation's edge. -/
def State.capSeg (s : State) (i : Nat) (ofs : Int) : CapSeg :=
  ⟨i, ofs, s.act R.DFE_DEC_CFG_D, s.actS R.DFE_DEC_MIX_DEC_MIX⟩

/-- A new capture generation starts at the edge at hand (R202). -/
def State.capStart (s : State) : State :=
  let g : CapGen := {
    ring := s.act R.SRCH_CAP_CFG_LEN * 65536, snap := s.act R.SRCH_CAP_CFG_MODE == 2
    skip := s.capBefore, segs := [s.capSeg 0 (s.capOfs s.capBefore)] }
  let s := { s with srch := { s.srch with old := s.srch.cur, cur := g } }
  let s := (s.putB R.SRCH_CAP_GEN_ACTIVE true).putB R.SRCH_CAP_GEN_SNAP_DONE false
  let s := (s.putB R.SRCH_CAP_GEN_CLKQ false).addWrap R.SRCH_CAP_GEN_GEN 1
  ((s.setRg 0x706005 0).setRg 0x706006 0).setRg 0x70600C 0

/-- What activation brings to the capture writer; `o` is the state before it (R202, R204). -/
def State.capActivated (s o : State) : State :=
  let mode := s.act R.SRCH_CAP_CFG_MODE
  let newMode := mode != o.act R.SRCH_CAP_CFG_MODE
  let newLen := s.act R.SRCH_CAP_CFG_LEN != o.act R.SRCH_CAP_CFG_LEN
  if mode = 1 ∨ mode = 2 then
    if newMode || newLen then s.capStart
    else if s.capLive && (s.actRg 0x70404C != o.actRg 0x70404C || s.actRg 0x70404D != o.actRg 0x70404D) then
      let g := s.srch.cur
      let i := g.written % max 1 g.ring
      let s := { s with srch := { s.srch with cur :=
        { g with disc := some g.written, segs := s.capSeg g.written (g.since + s.capOfs g.skip) :: g.segs } } }
      (s.setRg 0x70600B (BitVec.ofNat 16 i)).setRg 0x70600C (BitVec.ofNat 16 (0x8000 + i / 65536))
    else s
  else
    let s := if newMode then s.putB R.SRCH_CAP_GEN_ACTIVE false else s
    if newLen && !newMode then { s with srch := { s.srch with cur := {}, old := {} } } else s

/-- SRCH_CAP_MARK and CLKQ at the edge (R203, R204). -/
def State.capMark (s : State) : State :=
  if !s.capLive then s
  else
    let g := s.srch.cur
    let n := s.capBefore
    let i := (g.written + (n - g.skip)) % max 1 g.ring
    let s := s.setRg 0x706008 (BitVec.ofNat 16 i)
    let s := s.setRg 0x706009 (BitVec.ofNat 16 ((s.capOfs n).toNat * 0x400 + i / 65536))
    let s := s.put R.SRCH_CAP_MARK_TICK_TICK s.clk.tickCount
    if s.synLocked then s
    else { (s.putB R.SRCH_CAP_GEN_CLKQ true) with srch := { s.srch with cur := { s.srch.cur with clkq := true } } }

/-- The job on pipeline `k` is shed (R224). -/
def State.jobShed (s : State) (k : Nat) : State :=
  (s.putB R.SRCH_STAT_SHED true).jobOut k 2 0 (if s.isOn R.SRCH_CFG_REQUEUE then 1 else 4)

/-- RUN jobs at the edge: those of a class no longer allowed, or on a pipeline without power, are shed, but for one that has
left its computation (R224). -/
def State.shedTick (s : State) : State :=
  let hit := (List.range 4).filter (fun k =>
    match (s.pipe k).job, (s.pipe k).fin with
    | some j, none => !s.searchAllowed (s.get (R.JOB_CLASS j)) || !s.pipeOn k
    | _, _ => false)
  match hit with
  | [] => s
  | k :: _ =>
    let s := s.raise 0x0408 0xFF ((s.pipe k).job.getD 0)
    hit.foldl (fun s k => s.jobShed k) s

/-- The search engine at the edge, after activation; `o` is the state before it. -/
def State.srchTickEdge (s o : State) : State :=
  let s := (s.capActivated o).capMark
  let s := s.shedTick
  let ready := s.readyJobs.any (fun j => s.searchAllowed (s.get (R.JOB_CLASS j)))
  { s with srch := { s.srch with idle := if ready then 0 else s.srch.idle + 1 } }

/-- A switch of the internal domains to the limp oscillator (R225). -/
def State.srchLimp (s : State) : State :=
  let s := forUp 4 (fun k s => s.jobError k 9 0) s
  s.putB R.SRCH_CAP_GEN_ACTIVE false

/-- Computed views: SRCH_STAT, SRCH_PIPE_STAT and SRCH_PIPE_JOB. -/
def State.srchView (s : State) (a : Nat) (w : Word) : Word :=
  let bits (p : Nat → Bool) : Nat := (List.range 4).foldl (fun x k => x + b2n (p k) * 2 ^ k) 0
  if a = 0x70600E then
    BitVec.ofNat 16 (w.toNat &&& 0xA000 ||| b2n s.listFull * 0x4000 ||| min s.readyJobs.length 8191)
  else if a = 0x706013 then
    let wait (k : Nat) : Bool := match (s.pipe k).job, (s.pipe k).fin with
      | some _, some _ => true
      | some j, none => !s.jobBuild j && (match (s.pipe k).pos with
          | none => true
          | some p => decide ((s.pipeGen (s.pipe k)).written < p + s.jobNc j * s.jobN j))
      | none, _ => false
    BitVec.ofNat 16 (w.toNat / 256 * 256 + bits (fun k => (s.pipe k).job.isSome) * 16 + bits wait)
  else if 0x706014 ≤ a ∧ a < 0x706018 then
    match (s.pipe (a - 0x706014)).job with
    | some j => BitVec.ofNat 16 (0x8000 + j)
    | none => 0
  else w

end Sys2Proof.Machine
end

