-- ==== Sys2Proof/Machine/Clocking.lean ====
section
/-!
DEFINITION. The clocks of the internal domains: the switch to the limp oscillator and the synchronous release, with what
they bring to every unit (spec/01_architecture_and_tick.md R22, R27; spec/09_timing_synthesiser.md R273, R274, R280, R281,
R295 to R298, R583).
-/

namespace Sys2Proof.Machine

/-- The tick in progress goes on in clocks of which a tick holds `n`. -/
def State.retime (s : State) (n : Nat) : State :=
  { s with clk := { s.clk with
      phase := if s.clk.running then min (s.clk.phase * n / max 1 s.clk.tickLen) (n - 1) else 0, tickLen := n } }

/-- The tick edge ahead moves to the first coincidence edge, counted from a release at the clock at hand (R21). -/
def State.regrid (s : State) : State :=
  if s.clk.running then
    { s with clk := { s.clk with tickLen := s.clk.tickLen + (12 - (s.clk.tickLen - s.clk.phase) % 12) % 12 } }
  else s

/-- The internal domains move to the limp oscillator, with every consequence of that switch (R296, R583). The outputs stop,
and those that may run in LIMP start again (R292, R297). -/
def State.limpSwitch (s : State) : State :=
  if s.clk.limp then s
  else
    let s := s.slewFlush.outsStop
    let s := (s.putB R.SYN_STAT_SETTLED false).putB R.SYN_STAT_HELD true
    -- the fall of permit is stamped with the clock of the switch
    let s := s.gateLimp.engLimp.feLimp.chLimp.srchLimp.tbLimp.trackPermit
    ({ s with clk := { s.clk with limp := true, smp := s.samplesNow } }.retime 200000).setEff

/-- Input `i` qualifies for the reference check of the clock monitor (R295). -/
def State.refQualifies (s : State) (i : Nat) : Bool :=
  s.isOn (validFld i) || (i == s.synActive && (s.synState == 1 || s.synState == 2))

/-- A count of `n` over 1,024 cycles of input `i` fails the reference check of a clock at `k` ÷ 2 times the system clock
(R295). -/
def State.refCheckFails (s : State) (i k n : Nat) : Bool :=
  let want : Int := 1024 * 491520000 * (2 ^ 40 + s.synOfs) * k
  decide (want < (n * (2 * s.fRef i * 2 ^ 40) - want).natAbs * 1000)

/-- A count of `n` over 16,384 limp cycles fails the limp check of a clock at `k` ÷ 2 times the system clock (R295). -/
def limpCheckFails (k n : Nat) : Bool := decide (402653184 * k < (20000 * (n : Int) - (402653184 * k : Nat)).natAbs * 20)

/-- The reference check, or, with no input that qualifies, the limp check fails on `n`. -/
def State.monitorFails (s : State) (ref : Bool) (k n : Nat) : Bool :=
  let q := (List.range 2).filter s.refQualifies
  if ref then q.any (fun i => s.refCheckFails i k n) else q.isEmpty && limpCheckFails k n

/-- The check that `cause` names fails on the count `n` (R295): 1 reference check, 2 limp check, 3 stop check, 4 any of them on
the local clock multiplier's output, at 1.5 times the system clock. -/
def State.checkFails (s : State) (cause n : Nat) : Bool :=
  match cause with
  | 1 => s.monitorFails true 2 n
  | 2 => s.monitorFails false 2 n
  | 3 => true
  | 4 => n == 0 || s.monitorFails true 3 n || s.monitorFails false 3 n
  | _ => false

/-- CLOCK_MONITOR_FAILURE (R295, R296), `cause` as SYN_CMON_STAT gives it: the loop enters LIMP and acquires again on the
active input, or on the other if only that one is VALID. Until the release a further failure is part of the same episode. -/
def State.clockFailure (s : State) (cause n : Nat) : State :=
  if !s.checkFails cause n ∨ s.isOn R.SYN_CMON_STAT_FAIL ∨ s.synState = 0 then s
  else
    let s := ((s.putB R.SYN_CMON_STAT_FAIL true).put R.SYN_CMON_STAT_CAUSE cause).addSat R.SYN_CMON_STAT_COUNT 1
    let s := s.raise 0x0705 s.synActive cause
    let s := s.limpSwitch
    let i := s.synActive
    let s := if !s.isOn (validFld i) && s.isOn (validFld (1 - i)) then s.put R.SYN_STAT_ACTIVE (1 - i) else s
    (((s.putB R.SYN_STAT_LIMP_STICKY true).setSyn 5).outsFollow).tamper 2 true

/-- A synchronous release (R280, R281 step 4, R298): the domains return to the VCO's clocks, and the time base starts or
goes on; the dither generator is loaded (R270), the mixers' phases are set (R108, R123), and the outputs start, aligned
(R282, R292). Coincidence edges and validation windows count from it. -/
def State.releaseNow (s : State) : State :=
  if s.synState ≠ 2 ∨ !s.synHeld then s
  else
    let again := s.syn.firstLock
    let s := (s.outsStop.putB R.SYN_STAT_HELD false).setNum 0x709020 2 0
    let s := { s with syn := { s.syn with
        firstLock := true, slew := 0, slewSum := false, slewNext := false, slewAt := s.clk.age, drift := 0 } }
    let s := ((s.putB R.SYN_STAT_SLEW false).retime 491520).regrid
    let s := { s with clk := { s.clk with relAt := s.clk.total, smpFrom := s.clk.phase } }
    let s := s.ditherLoad.dfeRelease
    let s := (s.tbRelease.tpPass).putB R.SYN_CMON_STAT_FAIL false
    let s := s.putB ⟨0x701006, 10, 10⟩ false
    let s := (forUp 2 (fun i s => s.valStart i) s).outsFollow
    if again then s.feClockGood else forUp 2 (fun a s => s.fesmStart a) s

/-- SYNC_RELEASE (R280): the 256th VCO edge after the first PFD edge that comes at least 1 µs after lock is declared; where
that PFD edge falls is left open, the model takes it at once (log entry 132). -/
def State.syncRelease (s : State) : State :=
  match s.syn.lockAt with
  | some t =>
    if s.synState = 2 ∧ s.synHeld then s.dueAt (t + agePerUs + 10000) (fun s => s.releaseNow) else s
  | none => s

/-- A write of `v` to SYN_CTRL names a PREF to which AUTO_REVERT switches at once (R285): it is VALID, not active, and the
dividers run. -/
def State.prefSwitch (s : State) (v : Nat) : Bool :=
  let p := bitsOf v 14 14
  s.isOn R.SYN_CTRL_EN && bitOf v 15 && bitsOf v 13 12 == 2 && p != s.get R.SYN_CTRL_PREF && p != s.synActive
    && s.isOn (validFld p) && !s.synHeld && (s.synState == 2 || s.synState == 1)

/-- A write of `v` to SYN_CTRL by master `m` (R273, R274, R285, R583); `j` is the phase error that a switch measures. -/
def State.synCtrl (s : State) (m v : Nat) (j : Int) : State :=
  let was := s.isOn R.SYN_CTRL_EN
  if was && !bitOf v 15 then
    if m != 14 && m != 15 then s.reject 0x709003
    else
      let s := (s.store 0x709003 v).limpSwitch
      ((s.setSyn 0).putB R.SYN_STAT_HELD true).outsFollow
  else
    let back := s.prefSwitch v
    let s := s.store 0x709003 v
    if back then s.revertNow j else if !was && bitOf v 15 then s.synStart.outsFollow else s

end Sys2Proof.Machine
end

