-- ==== Sys2Proof/Machine/Flash.lean ====
section
/-!
DEFINITION. The flash port: direct-execution window, gather buffer, programs and command frames
(spec/15_host_and_flash_ports.md, R477 to R488).
-/

namespace Sys2Proof.Machine

/-- The clocks run to clock count `t`, if it comes before the next tick edge. -/
def State.runClocks (s : State) (t : Nat) : Option State :=
  if t ≤ s.clk.total then some s else if s.inTick (t - s.clk.total) then some (s.elapse (t - s.clk.total)) else none

/-- Word `w` of the flash. -/
def State.flashWord (s : State) (w : Nat) : Word := wmGet 0xFFFF s.flash.cells w

/-- Sets word `w` of the flash. -/
def State.setFlashWord (s : State) (w : Nat) (v : Word) : State :=
  { s with flash := { s.flash with cells := wmPut 0xFFFF w v s.flash.cells } }

/-- Byte `a` of the flash (R480). -/
def State.flashByte (s : State) (a : Nat) : Nat := (s.flashWord (a / 2)).toNat / 256 ^ (a % 2) % 256

/-- A frame with opcode `op` in format `fmt`: the opcode, and its inverse with CMD2 at 1; an address of 3 bytes, or of 4 with
ADDR4 at 1, most significant byte first (R478). -/
def State.flashFrame (s : State) (fmt : Word) (op : Nat) (addr : Option Nat) (data : List Nat) (read : Nat) : FlashFrame :=
  { cmd := if fmt.getLsbD 12 then [op, 255 - op] else [op]
    addr := match addr with
      | none => []
      | some a => (if fmt.getLsbD 8 then [a / 2 ^ 24 % 256] else []) ++ [a / 65536 % 256, a / 256 % 256, a % 256]
    dummy := fmt.toNat % 32, data := data, read := read, fmt := fmt, ds := s.isOn R.FP_CTRL_RX_DS }

/-- The port sends frames; `more`: they belong to the operation in progress. -/
def State.flashSend (s : State) (more : Bool) (l : List FlashFrame) : State :=
  { s with flash := { s.flash with sent := (if more then s.flash.sent else []) ++ l } }

/-- A status read in format `fmt` (R484, R487). -/
def State.rdsr (s : State) (fmt : Word) : FlashFrame := s.flashFrame fmt (s.get R.FP_OPC_1_RDSR) none [] 1

/-- FP_STAT.BUSY: a program or a command frame runs. Fetches take no time in this model. -/
def State.flashBusy (s : State) : Bool := s.flash.prog.isSome || s.flash.cmd.isSome || s.flash.cmdWait

/-- FP_STAT with the fields that follow the state. -/
def State.flashView (s : State) (w : Word) : Word :=
  let w := putBits w 15 15 (b2n s.flashBusy)
  let w := putBits w 14 14 (b2n (s.flash.gather.isSome || s.flash.prog.isSome))
  putBits w 13 13 (b2n (s.flash.cmd.isSome || s.flash.cmdWait))

/-- The flash page, in the unit of PAGE_LOG2, of window word `w`. -/
def State.flashPage (s : State) (w : Nat) : Nat := 2 * w / 2 ^ s.get R.FP_PAGE_PAGE_LOG2

/-- Every line is invalidated (R481). -/
def State.flashDropLines (s : State) : State := { s with flash := { s.flash with lines := [] } }

/-- The CRC word of block `b` agrees with the block (R482). -/
def State.blockGood (s : State) (b : Nat) : Bool :=
  let base := s.get (R.FP_XIP_CRC_CRC_BASE 0) + 65536 * (s.get (R.FP_XIP_CRC_CRC_BASE 1) % 256)
  crc16 ((List.range 512).map (fun i => s.flashByte (512 * b + i)))
    == s.flashByte (base + 2 * b) + 256 * s.flashByte (base + 2 * b + 1)

/-- Block `b` is part of the CRC table, whose reads are not checked (R482). -/
def State.crcTableBlock (s : State) (b : Nat) : Bool :=
  let base := s.get (R.FP_XIP_CRC_CRC_BASE 0) + 65536 * (s.get (R.FP_XIP_CRC_CRC_BASE 1) % 256)
  -- the table has one word for each of the window's 32,768 blocks
  decide (base / 512 ≤ b) && decide (b ≤ (base + 65535) / 512)

/-- The frames that fetch block `b`: with CHECK its CRC word too, and, where it fails, the block once more (R481, R482). -/
def State.fetchFrames (s : State) (b : Nat) : List FlashFrame :=
  let rd (a n : Nat) : FlashFrame := s.flashFrame (s.rg 0x710004) (s.get R.FP_OPC_0_READ) (some a) [] n
  let base := s.get (R.FP_XIP_CRC_CRC_BASE 0) + 65536 * (s.get (R.FP_XIP_CRC_CRC_BASE 1) % 256)
  if !s.isOn R.FP_CTRL_CHECK || s.crcTableBlock b then [rd (512 * b) 512]
  else
    let once := [rd (512 * b) 512, rd (base + 2 * b) 2]
    if s.blockGood b then once else once ++ once

/-- Access to the window with XIP_EN at 0 (R480). -/
def State.windowOff (s : State) (w : Nat) : State :=
  if s.flash.offSeen then s
  else { (s.raise 0x0E06 0xFF (2 * w)) with flash := { s.flash with offSeen := true } }

/-- A read of window word `w` (R480 to R483); `none`: the read waits for the port. -/
def State.windowRead (s : State) (w : Nat) : Option (Word × State) :=
  if !s.isOn R.FP_CTRL_XIP_EN then some (0, s.windowOff w)
  else match s.flash.words.find? (fun e => e.1 == w) with
  | some e => some (e.2, s)
  | none =>
    let b := w / 256
    let touch (s : State) : State :=
      { s with flash := { s.flash with lines := (b :: s.flash.lines.filter (· != b)).take 16 } }
    if s.flash.lines.contains b then some (s.flashWord w, touch s)
    else if s.flashBusy then none
    else
      let s := s.flashSend false (s.fetchFrames b)
      if s.isOn R.FP_CTRL_CHECK && !s.crcTableBlock b && !s.blockGood b then
        some (0, (s.putB R.FP_STAT_CRC_ERR true).raise 0x0E03 0xFF (512 * b))
      else some (s.flashWord w, touch s)

/-- Byte address of the first byte in the gather buffer. -/
def State.gatherFirst (s : State) : Nat :=
  match s.flash.words with
  | [] => 0
  | e :: t => 2 * t.foldl (fun a x => min a x.1) e.1

/-- The bytes of the gather buffer from the first to the last valid one, 0xFF where none is (R484). -/
def State.gatherBytes (s : State) : List Nat :=
  let first := s.gatherFirst / 2
  let last := s.flash.words.foldl (fun a x => max a x.1) 0
  (List.range (last + 1 - first)).flatMap (fun k =>
    match s.flash.words.find? (fun e => e.1 == first + k) with
    | some e => [e.2.toNat % 256, e.2.toNat / 256]
    | none => [0xFF, 0xFF])

/-- A flush of the gather buffer starts: write enable and the page program are sent (R484). -/
def State.flashFlush (s : State) : State :=
  if s.flash.gather.isNone || s.flash.prog.isSome then s
  else
    let fmt := s.rg 0x710005
    let s := s.flashSend false [s.flashFrame fmt (s.get R.FP_OPC_1_WREN) none [] 0,
      s.flashFrame fmt (s.get R.FP_OPC_0_PP) (some s.gatherFirst) s.gatherBytes 0]
    { s with flash := { s.flash with prog := some s.clk.age, aborted := false } }

/-- A write of window word `w` by master `m` (R480, R483); `none`: the write waits for the port. The second component
of the answer is the state in which it waits. -/
def State.windowWrite (s : State) (m w : Nat) (v : Word) : Bool × State :=
  if !s.isOn R.FP_CTRL_XIP_EN then (true, s.windowOff w)
  else if s.flash.prog.isSome then (false, s)
  else
    let page := s.flashPage w
    match s.flash.gather with
    | some g =>
      if g = (page, m) then
        (true, { s with flash := { s.flash with
          words := (s.flash.words.filter (fun e => e.1 != w)) ++ [(w, v)], wroteAt := s.clk.total } })
      else (false, s.flashFlush)
    | none =>
      (true, { s with flash := { s.flash with gather := some (page, m), words := [(w, v)], wroteAt := s.clk.total } })

/-- GATHER_FLUSH (R483): 64 system clocks have passed with no window write. -/
def State.gatherFlush (s : State) : State :=
  if s.flash.gather.isNone then s
  else match s.runClocks (s.flash.wroteAt + 64) with
    | some s => s.flashFlush
    | none => s

/-- The program ends: the lines of its page are invalidated and the buffer is empty (R484). -/
def State.flashEnd (s : State) : State :=
  let log2 := s.get R.FP_PAGE_PAGE_LOG2
  let lines := match s.flash.gather with
    | some (page, _) => s.flash.lines.filter (fun b => !(decide (512 * b < (page + 1) * 2 ^ log2) && decide (page * 2 ^ log2 < 512 * (b + 1))))
    | none => s.flash.lines
  { s with flash := { s.flash with lines := lines, gather := none, words := [], prog := none, aborted := false } }

/-- FP_CMD_DATA takes the bytes that the flash gives (R487). Bytes that the command does not bring are open. -/
def State.cmdReceive (s : State) (rx : List (BitVec 8)) (n : Nat) : State :=
  (List.range n).foldl (fun s i =>
    let (b, s) := match rx[i]? with
      | some b => (b.toNat, s)
      | none => (Config.freeValue s.free % 256, { s with free := s.free + 1 })
    s.put ⟨0x710081 + i / 2, 8 * (i % 2) + 7, 8 * (i % 2)⟩ b) s

/-- Words of the flash change. -/
def State.flashChange (s : State) (c : List (Nat × Word)) : State := c.foldl (fun s e => s.setFlashWord e.1 e.2) s

/-- The bytes of a command frame's data, and its address (R487). -/
def State.cmdBytes (s : State) : List Nat :=
  (List.range (s.get R.FP_CMD_LEN_LEN)).map (fun i => s.get ⟨0x710081 + i / 2, 8 * (i % 2) + 7, 8 * (i % 2)⟩)
def State.cmdAddr (s : State) : Nat := s.get (R.FP_CMD_ADDR_ADDR 0) + 65536 * s.get (R.FP_CMD_ADDR_ADDR 1)

/-- The frames of a command, before any poll (R478, R487). -/
def State.cmdFrames (s : State) : List FlashFrame :=
  let fmt := s.rg 0x710006
  let addr := if s.isOn R.FP_CMD_CTRL_HAS_ADDR then some s.cmdAddr else none
  let op := s.get R.FP_CMD_CTRL_OPC
  (if s.isOn R.FP_CMD_CTRL_WREN_FIRST then [s.flashFrame fmt (s.get R.FP_OPC_1_WREN) none [] 0] else []) ++
    [if s.isOn R.FP_CMD_CTRL_DIR then s.flashFrame fmt op addr [] (s.get R.FP_CMD_LEN_LEN) else s.flashFrame fmt op addr s.cmdBytes 0]

/-- The command frame runs on the line (R487). -/
def State.cmdRun (s : State) : State :=
  let f := s.flash.frame
  let s := (({ s with flash := { s.flash with cmdWait := false } } : State)).flashSend false s.cmdFrames
  if s.isOn R.FP_CMD_CTRL_DIR then
    { (s.cmdReceive f.rx (s.get R.FP_CMD_LEN_LEN)) with flash := { (s.cmdReceive f.rx (s.get R.FP_CMD_LEN_LEN)).flash with frame := {} } }
  else
    let s := s.flashDropLines
    if s.isOn R.FP_CMD_CTRL_POLL then { s with flash := { s.flash with cmd := some s.clk.age } }
    else { (s.flashChange f.change) with flash := { (s.flashChange f.change).flash with frame := {} } }

/-- GO of FP_CMD_CTRL, the write being `v` (R487): ignored while BUSY; the gather buffer is flushed first (R483). -/
def State.cmdGo (s : State) (f : FlashCmd) : State :=
  let s := { s with flash := { s.flash with frame := f } }
  if s.flash.gather.isSome then
    let s := s.flashFlush
    { s with flash := { s.flash with cmdWait := true } }
  else s.cmdRun

/-- A write of `v` to FP_CMD_CTRL. -/
def State.fpCmdCtrl (s : State) (v : Nat) (f : FlashCmd) : State :=
  if bitOf v 15 && s.flashBusy then (s.store 0x710010 v).putB R.FP_STAT_CMD_IGN true
  else if bitOf v 15 then (s.store 0x710010 v).cmdGo f
  else s.store 0x710010 v

/-- PROG_TMO, in units of `ClkSt.age`: it is in 10 µs. -/
def State.progTicks (s : State) : Nat := s.get R.FP_PAGE_PROG_TMO * (10 * agePerUs)

/-- WIP reads 0 (R484). Programming clears bits only, so each word becomes the AND of old and new, unless RST_N has aborted it
(R65); with VERIFY the span is read back. -/
def State.progNow (s : State) : State :=
  let ws := s.flash.words
  let s := s.flashSend true [s.rdsr (s.rg 0x710005)]
  let s := if s.flash.aborted then s else s.flashChange (ws.map (fun e => (e.1, s.flashWord e.1 &&& e.2)))
  let s := if s.isOn R.FP_CTRL_VERIFY then s.flashSend true
      [s.flashFrame (s.rg 0x710004) (s.get R.FP_OPC_0_READ) (some s.gatherFirst) [] s.gatherBytes.length] else s
  let bad := s.isOn R.FP_CTRL_VERIFY && ws.any (fun e => s.flashWord e.1 != e.2)
  let s := if bad then (s.putB R.FP_STAT_VFY_ERR true).raise 0x0E04 0xFF s.gatherFirst else s
  let s := s.flashEnd
  if s.flash.cmdWait then s.cmdRun else s

/-- PROG_DONE (R484): within PROG_TMO. -/
def State.progDone (s : State) : State :=
  match s.flash.prog with
  | none => s
  | some t => if t + s.progTicks ≤ s.clk.age then s else s.progNow

/-- The words of the gather buffer have been programmed in part: their cells hold values the spec leaves open, with no
bit set that was clear (R484, R486). -/
def State.progPart (s : State) : State :=
  s.flash.words.foldl (fun s e =>
    { (s.setFlashWord e.1 (s.flashWord e.1 &&& BitVec.ofNat 16 (Config.freeValue s.free))) with free := s.free + 1 }) s

/-- PROG_TIMEOUT (R484): WEL was clear, or PROG_TMO has expired. -/
def State.progTimeout (s : State) (wel : Bool) : State :=
  match s.flash.prog with
  | none => s
  | some t =>
    match if wel then s.runAge (t + s.progTicks) else some s with
    | none => s
    | some s =>
      let s := (if wel && !s.flash.aborted then s.progPart else s).flashSend true [s.rdsr (s.rg 0x710005)]
      let s := ((s.putB R.FP_STAT_TMO true).raise 0x0E02 0xFF s.gatherFirst).flashEnd
      if s.flash.cmdWait then s.cmdRun else s

/-- CMD_FRAME_DONE (R487): the poll finds WIP at 0, within FP_CMD_TMO. -/
def State.cmdFrameDone (s : State) : State :=
  match s.flash.cmd with
  | none => s
  | some t =>
    if t + s.get R.FP_CMD_TMO_TMO * (1000 * agePerUs) ≤ s.clk.age then s
    else
      let s := (s.flashChange s.flash.frame.change).flashSend true [s.rdsr (s.rg 0x710006)]
      { s with flash := { s.flash with cmd := none, frame := {} } }

/-- CMD_TIMEOUT (R487). What the frame did to the flash's cells is what it was to change, if the flash did it. -/
def State.cmdTimeout (s : State) : State :=
  match s.flash.cmd with
  | none => s
  | some t =>
    match s.runAge (t + s.get R.FP_CMD_TMO_TMO * (1000 * agePerUs)) with
    | none => s
    | some s =>
      let addr := s.cmdAddr
      let s := s.flash.frame.change.foldl (fun s e =>
        { (s.setFlashWord e.1 (BitVec.ofNat 16 (Config.freeValue s.free))) with free := s.free + 1 }) s
      let s := ((s.flashSend true [s.rdsr (s.rg 0x710006)]).putB R.FP_STAT_TMO true).raise 0x0E01 0xFF addr
      { s with flash := { s.flash with cmd := none, frame := {} } }

/-- The flash is reset: what a program or a command frame was to change holds open values, and nothing of it completes later
(R65, R486). -/
def State.flashAbort (s : State) : State :=
  let s := if s.flash.prog.isNone || s.flash.aborted then s
    else { s.progPart with flash := { s.progPart.flash with aborted := true } }
  if s.flash.cmd.isNone then s
  else
    let s := s.flash.frame.change.foldl (fun s e =>
      { (s.setFlashWord e.1 (BitVec.ofNat 16 (Config.freeValue s.free))) with free := s.free + 1 }) s
    { s with flash := { s.flash with frame := { s.flash.frame with change := [] } } }

/-- A reset cuts a program or a command frame off (R65, R486). -/
def State.flashCut (s : State) : State :=
  let s := s.flashAbort
  { s with flash := { ({} : FlashSt) with cells := s.flash.cells, sfdp := s.flash.sfdp } }

/-- A write of `v` to FP_CTRL: the window's lines go when XIP_EN falls (R481). -/
def State.fpCtrlAfter (s : State) (old : Nat) : State :=
  if bitOf old 14 && !s.isOn R.FP_CTRL_XIP_EN then s.flashDropLines else s

end Sys2Proof.Machine
end

