-- ==== Sys2Proof/Machine/Placement.lean ====
section
/-!
DEFINITION. The placement unit: tasks, costs, placement, migration and the entry of tasks
(spec/13_placement_and_weir.md, R401 to R418).
-/

namespace Sys2Proof.Machine

/-! ### Tasks (R401 to R403, R409) -/

/-- Whether Weir allows channels, and PERIODIC tasks, of class `c` at level `l` (R421). -/
def channelAllowed (l c : Nat) : Bool := c == 0 || l < 11 - 3 * c
def taskAllowed (l c : Nat) : Bool := c == 0 || l < 12 - 3 * c

/-- The shed level of the coming tick. -/
def State.nextLevel (s : State) : Nat := s.weir.next.getD (s.get R.WEIR_LEVEL_LEVEL)

/-- Task `t` is a LOOP task. -/
def State.isLoop (s : State) (t : Nat) : Bool := s.get (R.TASK_KIND t) == 0

/-- The work class of task `t` (R403). -/
def State.taskClass (s : State) (t : Nat) : Nat :=
  if s.isLoop t then s.get (R.CH_CLASS (s.get (R.TASK_CHAN t))) else s.act (R.TASK_CLASS t)

/-- The engine that runs task `t` now. -/
def State.runsOn (s : State) (t : Nat) : Option Nat := (List.range 8).find? (fun e => (s.eng e).task == some t)

/-- A period of the channel of LOOP task `t` ends at the coming edge (R402). -/
def State.loopDue (s : State) (t : Nat) : Bool :=
  let c := s.get (R.TASK_CHAN t)
  s.correlating c && decide ((s.chan c).perLen ≤ (s.chan c).perTicks + 1)

/-- Task `t` is runnable in the coming tick, whatever Weir allows (R402). -/
def State.runnable (s : State) (t : Nat) : Bool :=
  s.act (R.TASK_EN t) == 1 && (s.runsOn t).isNone &&
    (if s.isLoop t then s.loopDue t
    else (s.clk.tickCount + 1) % 2 ^ 32 % max 1 (s.act (R.TASK_EVERY t)) == s.act (R.TASK_PHASE t))

/-- Weir allows task `t` in the coming tick (R421). -/
def State.taskOn (s : State) (t : Nat) : Bool :=
  if s.isLoop t then channelAllowed s.nextLevel (s.taskClass t) else taskAllowed s.nextLevel (s.taskClass t)

/-- PLC_BUDGET in cycles. -/
def State.budget (s : State) : Nat := 8 * s.get R.PLC_BUDGET_BUDGET

/-- The cost of task `t` in cycles (R409). -/
def State.cost (s : State) (t : Nat) : Nat :=
  let x := s.taskSt t
  if x.done then (if x.aband then min (2 * x.cyc) s.budget else 8 * s.get (R.TASK_LAST_CYC t))
  else 8 * s.act (R.TASK_EST t)

/-- Engine `e` reads powered, and is in service. -/
def State.engServes (s : State) (e : Nat) : Bool :=
  bitOf (s.get R.WEIR_STAT_ENG_POWERED) e && !s.isOn (R.SYS_ENG_STAT_HALTED e) && !bitOf (s.get R.PLC_ENG_STAT_OOS) e

/-- The capacity of engine `e` in cycles (R409, R414, R425). -/
def State.capacity (s : State) (e : Nat) : Nat :=
  if !s.engServes e then 0
  else
    let hot := decide (4 * (s.get R.WEIR_HOT_T_HOT : Int) < s.getS (R.WEIR_SENS_T (3 + e / 4)))
    let c := if hot then s.budget * s.get R.WEIR_HOT_HOT_FRAC / 16 else s.budget
    if s.clk.limp then c * 200000 / 368640 else c

/-- A SPAN task runs on engine `e`. -/
def State.spanOn (s : State) (e : Nat) : Option Nat :=
  match (s.eng e).task with
  | some t => if s.act (R.TASK_SPAN t) == 1 then some t else none
  | none => none

/-! ### Residence (R404, R410, R416) -/

/-- Slots as planned: for each engine, the task and block in each slot. -/
abbrev Slots := List (List (Option (Nat × Nat)))

/-- The slots of task `t` in `l`. -/
def slotsOf (l : List (Option (Nat × Nat))) (t : Nat) : List Nat :=
  (List.range 64).filter (fun k => match l.getD k none with
    | some b => b.1 == t
    | none => false)

/-- Block `b` of task `t` is in `l`. -/
def hasBlock (l : List (Option (Nat × Nat))) (t b : Nat) : Bool := l.contains (some (t, b))

/-- The engine that holds blocks of task `t`. -/
def holder (w : Slots) (t : Nat) : Option Nat := (List.range 8).find? (fun e => !(slotsOf (w.getD e []) t).isEmpty)

/-- The placement while it is worked out: planned slots, write-backs and loads of each engine, tasks placed so far. -/
structure Work where
  slots : Slots
  wb : List Nat
  ld : List Nat
  load : List Nat
  placed : List (Nat × Nat)
  out : List (Nat × Nat)
  into : List (Nat × Nat × Nat × Nat)
  deferred : List Nat

/-- Slot `k` of engine `e` is written home. -/
def Work.evict (w : Work) (e k : Nat) : Work :=
  { w with slots := listMod (fun l => listPut l k none) e w.slots, wb := listMod (· + 1) e w.wb, out := w.out ++ [(e, k)] }

/-- Blocks of task `t` that are not on engine `e`. -/
def Work.missing (w : Work) (n t e : Nat) : List Nat :=
  (List.range n).filter (fun b => !hasBlock (w.slots.getD e []) t b)

/-- Slots of engine `e` that may be evicted, best first (R410): of tasks not placed on `e` and of no SPAN task `keep`. -/
def State.evictable (s : State) (w : Work) (e t : Nat) (keep : Option Nat) : List Nat :=
  let l := w.slots.getD e []
  let ok (k : Nat) : Bool := match l.getD k none with
    | some b => b.1 != t && !w.placed.contains (b.1, e) && some b.1 != keep
    | none => false
  let key (k : Nat) : Nat × Nat × Nat := match l.getD k none with
    | some b => ((s.taskSt b.1).last, b.1, b.2)
    | none => (0, 0, 0)
  let before (i j : Nat) : Bool :=
    let x := key i
    let y := key j
    x.1 < y.1 || (x.1 == y.1 && (x.2.1 < y.2.1 || (x.2.1 == y.2.1 && x.2.2 ≤ y.2.2)))
  sortBy before ((List.range 64).filter ok)

/-- The free slots of engine `e`, lowest first. -/
def Work.free (w : Work) (e : Nat) : List Nat :=
  (List.range 64).filter (fun k => ((w.slots.getD e []).getD k none).isNone)

/-- Slots that must be evicted on engine `e` for task `t`. -/
def State.toEvict (s : State) (w : Work) (t e : Nat) : Nat := (w.missing (s.get (R.TASK_SB_N t)) t e).length - (w.free e).length

/-- fits(t, e) of R410. -/
def State.fits (s : State) (w : Work) (t e : Nat) : Bool :=
  let need := (w.missing (s.get (R.TASK_SB_N t)) t e).length
  let ev := s.toEvict w t e
  let src := match holder w.slots t with
    | some h => h == e || decide (w.wb.getD h 0 + (slotsOf (w.slots.getD h []) t).length ≤ s.get R.PLC_CFG_WB_MAX)
    | none => true
  decide (w.load.getD e 0 + s.cost t + 12 ≤ s.capacity e) && decide (ev ≤ (s.evictable w e t (s.spanOn e)).length)
    && decide (w.wb.getD e 0 + ev ≤ s.get R.PLC_CFG_WB_MAX) && decide (w.ld.getD e 0 + need ≤ s.get R.PLC_CFG_LD_MAX) && src

/-- assign(t, b) of R410: blocks leave their source, room is made, and arriving blocks take the lowest free slots. -/
def State.assign (s : State) (w : Work) (t e : Nat) : Work :=
  let w := match holder w.slots t with
    | some h => if h = e then w else (slotsOf (w.slots.getD h []) t).foldl (fun w k => w.evict h k) w
    | none => w
  let w := ((s.evictable w e t (s.spanOn e)).take (s.toEvict w t e)).foldl (fun w k => w.evict e k) w
  let w := (List.zip (w.free e) (w.missing (s.get (R.TASK_SB_N t)) t e)).foldl (fun w x =>
    { w with slots := listMod (fun l => listPut l x.1 (some (t, x.2))) e w.slots
             ld := listMod (· + 1) e w.ld, into := w.into ++ [(e, x.1, t, x.2)] }) w
  { w with load := listMod (· + (s.cost t + 12)) e w.load, placed := w.placed ++ [(t, e)] }

/-- The engine for task `t`, if any fits (R410): the least loaded, or the one that holds its blocks within STICK. -/
def State.choose (s : State) (w : Work) (t : Nat) : Option Nat :=
  let es := if s.act (R.TASK_PIN t) = 1 then [s.act (R.TASK_ENG t)] else (List.range 8).filter (fun e => 0 < s.capacity e)
  let f := es.filter (fun e => s.fits w t e)
  let best := f.foldl (fun (b : Option Nat) e => match b with
    | none => some e
    | some x => if w.load.getD e 0 < w.load.getD x 0 then some e else some x) none
  match best, holder w.slots t with
  | some b, some h =>
    if f.contains h && decide (w.load.getD h 0 ≤ w.load.getD b 0 + s.get R.PLC_CFG_STICK * 512) then some h else some b
  | b, _ => b

/-- The order in which tasks are placed (R410). -/
def State.placeBefore (s : State) (a b : Nat) : Bool :=
  let p (t : Nat) : Nat := 1 - s.act (R.TASK_PIN t)
  if p a != p b then p a < p b
  else if s.taskClass a != s.taskClass b then s.taskClass a < s.taskClass b
  else if s.cost a != s.cost b then s.cost b < s.cost a
  else a ≤ b

/-- Blocks that must go home whatever is placed (R414, R416): those of tasks out of use, and every block of an engine out
of service, as far as WB_MAX allows. -/
def State.forcedOut (s : State) (w : Work) : Work :=
  (List.range 8).foldl (fun w e => (List.range 64).foldl (fun w k =>
    match (w.slots.getD e []).getD k none with
    | some b =>
      let gone := (s.act (R.TASK_EN b.1) == 0 && (s.runsOn b.1).isNone) || s.isOn (R.SYS_ENG_STAT_HALTED e)
        || bitOf (s.get R.PLC_ENG_STAT_OOS) e
      if gone && decide (w.wb.getD e 0 < s.get R.PLC_CFG_WB_MAX) then w.evict e k else w
    | none => w) w) w

/-- carry[e] of R413. -/
def State.carry (s : State) (e : Nat) : Nat :=
  match s.spanOn e with
  | some t => max (s.cost t - (s.eng e).cyc) 4096
  | none => 0

/-- The placement of the coming tick (R410). -/
def State.makePlan (s : State) : Plan :=
  let w : Work :=
    { slots := s.engs.map (·.slots), wb := List.replicate 8 0, ld := List.replicate 8 0
      load := (List.range 8).map s.carry, placed := [], out := [], into := [], deferred := [] }
  let w := s.forcedOut w
  let ts := sortBy s.placeBefore ((List.range 240).filter (fun t => s.runnable t && s.taskOn t))
  let w := ts.foldl (fun w t => match s.choose w t with
    | some e => s.assign w t e
    | none => { w with deferred := w.deferred ++ [t] }) w
  let order (a b : Nat) : Bool :=
    let x := s.act (R.TASK_ORDER a)
    let y := s.act (R.TASK_ORDER b)
    x < y || (x == y && a ≤ b)
  { queues := (List.range 8).map (fun e => sortBy order ((w.placed.filter (fun p => p.2 == e)).map (·.1)))
    load := w.load, out := w.out, into := w.into, deferred := w.deferred }

/-- SYS_UPD_STAT is ARMED for the coming edge, or SWITCHING (R553). -/
def State.switchSoon (s : State) : Bool :=
  (s.get R.SYS_UPD_STAT_STATE == 3 && (s.clk.tickCount + 1) % 65536 == s.get R.SYS_UPD_TICK_V) || s.get R.SYS_UPD_STAT_STATE == 4

/-- Faults of deferred tasks (R411, R414). -/
def State.deferFaults (s : State) (l : List Nat) : State :=
  let halted (t : Nat) : Bool := s.act (R.TASK_PIN t) == 1 && (s.isOn (R.SYS_ENG_STAT_HALTED (s.act (R.TASK_ENG t)))
    || bitOf (s.get R.PLC_ENG_STAT_OOS) (s.act (R.TASK_ENG t)))
  let s := (l.filter halted).foldl (fun s t => s.raise 0x0A05 (s.act (R.TASK_ENG t)) t) s
  match l.filter (fun t => !halted t) with
  | [] => s
  | t :: _ => s.raise 0x0A01 0xFF t

/-- Wake requests of a placement (R425): gated engines of deferred pinned tasks, and the lowest gated engine. -/
def State.wakeRequests (s : State) (l : List Nat) : List Nat :=
  let gated (e : Nat) : Bool := !bitOf (s.get R.WEIR_STAT_ENG_POWERED) e
  let pins := (l.filter (fun t => s.act (R.TASK_PIN t) == 1)).map (fun t => s.act (R.TASK_ENG t))
  (List.range 8).filter (fun e => gated e && (s.plc.wake.contains e || pins.contains e
    || (!l.isEmpty && (List.range e).all (fun k => !gated k))))

/-- The placement of the next tick is computed (R410 to R414, R553). -/
def State.placeTasks (s : State) : State :=
  if s.plc.plan.isSome then s
  else if s.switchSoon then
    let p : Plan := { deferred := (List.range 240).filter (fun t => s.isLoop t && s.runnable t) }
    { s with plc := { s.plc with plan := some p } }
  else
    let p := s.makePlan
    let s := if p.deferred.isEmpty then s else (s.putB R.PLC_STAT_DEFER true).deferFaults p.deferred
    let idle (e : Nat) (g : Engine) : Engine :=
      { g with idle := if (p.queues.getD e []).isEmpty && (s.spanOn e).isNone then g.idle + 1 else 0 }
    let w := s.wakeRequests p.deferred
    -- between a switch and the new firmware's loop tasks (R553)
    let gap := s.plc.gap.filter (fun t => s.loopDue t && !p.deferred.contains t)
    let p := { p with deferred := p.deferred ++ gap }
    { s with plc := { s.plc with plan := some p, wake := w }, engs := s.engs.zipIdx.map (fun x => idle x.2 x.1) }

/-- PLACEMENT: in its part of the Weir decision phase, after the Weir decision (R28, R407). -/
def State.placement (s : State) : State :=
  s.inPhase 485376 491263 (fun s => if s.weir.next.isNone then s else s.placeTasks)

/-! ### Migration (R407, R415, R416) -/

/-- The GWA of the home of block `b` of task `t`. -/
def State.blockHome (s : State) (t b : Nat) : Nat := 0x100000 + (s.get (R.TASK_SB_FIRST t) + b) * 0x100

/-- A migration read met a failing word of block `b` of task `t` (R415). -/
def State.migError (s : State) (e t b : Nat) : State :=
  let s := ((s.setActRg (R.TASK_EN t).gwa (putBits (s.actRg (R.TASK_EN t).gwa) 15 15 0)).putB R.PLC_STAT_MIG_ERR true).raise
    0x0A03 e (t + 256 * b)
  s.setTaskSt t { s.taskSt t with outcome := 7 }

/-- RES of task `t` shows whether any block is resident (R416). -/
def State.showRes (s : State) (t : Nat) : State :=
  s.putB (R.TASK_RES t) (s.engs.any (fun g => !(slotsOf g.slots t).isEmpty))

/-- Slot `k` of engine `e` is written home, with the data as read. -/
def State.writeHome (s : State) (e k : Nat) : State :=
  let g := s.eng e
  match g.slots.getD k none with
  | none => s
  | some (t, b) =>
    let src := 0x4000 + k * 0x100
    let bad := g.locBad.any (fun a => src ≤ a && a < src + 0x100)
    let s := (List.range 256).foldl (fun s i => s.memWriteChecked e (s.blockHome t b + i) (wmGet 0 g.loc (src + i))) s
    let s := s.setEng e { s.eng e with slots := listPut (s.eng e).slots k none none }
    (if bad then s.migError e t b else s).showRes t

/-- Block `b` of task `t` arrives in slot `k` of engine `e`. -/
def State.loadBlock (s : State) (e k t b : Nat) : State :=
  let home := s.blockHome t b
  let dst := 0x4000 + k * 0x100
  let bad := s.memSt.flips.any (fun f => home ≤ f.1 && f.1 < home + 0x100 && (f.2.poison || 1 < f.2.bits))
  let (loc, s) := (List.range 256).foldl (fun (r : WMap × State) i =>
    let (w, s) := r.2.memReadChecked e (home + i)
    (wmPut 0 (dst + i) w r.1, s)) ((s.eng e).loc, s)
  let g := s.eng e
  let s := s.setEng e { g with loc := loc, locBad := g.locBad.filter (fun a => a < dst || dst + 0x100 ≤ a),
                               slots := listPut g.slots k (some (t, b)) none }
  (if bad then s.migError e t b else s).showRes t

/-- Every block of engine `e` is written home. -/
def State.homeAll (s : State) (e : Nat) : State := forUp 64 (fun k s => s.writeHome e k) s

/-! ### The tick edge (R35, R411, R413, R414, R417, R418) -/

/-- Sets OUTCOME of the tick in progress for task `t`. -/
def State.setOutcome (s : State) (t o : Nat) : State := s.setTaskSt t { s.taskSt t with outcome := o }

/-- A task that is still running at the edge and is not marked SPAN is abandoned (R35). -/
def State.abandon (s : State) (e : Nat) : State :=
  match (s.eng e).task with
  | none => s
  | some t =>
    if s.act (R.TASK_SPAN t) = 1 then s
    else
      let s := ((s.runEnds e 2).stopEngine e).putB R.SYS_TICK_STAT_OVERRUN true
      if s.isOn R.SYS_TICK_CFG_OVR_FLT then s.raise 0x1102 e t else s

/-- An engine that has halted is taken out of service, and the tasks that it had in the tick are HALTED (R414). -/
def State.retireEngine (s : State) (e : Nat) : State :=
  if !s.isOn (R.SYS_ENG_STAT_HALTED e) then s
  else
    let g := s.eng e
    let ts := g.queue ++ g.task.toList
    let s := if bitOf (s.get R.PLC_ENG_STAT_OOS) e then s else (s.putB ⟨0x70B006, 8 + e, 8 + e⟩ true).raise 0x0A02 e
    let s := ts.foldl (fun s t => s.setOutcome t 5) s
    s.setEng e { s.eng e with task := none, queue := [] }

/-- What the placement unit reports at the edge: channels whose LOOP task was abandoned, deferred or on a halted engine,
and channels whose LOOP task completed, in the tick that ends (R154, R411, R414). -/
def State.loopReport (s : State) : List Nat × List Nat :=
  let pick (l : List Nat) : List Nat := ((List.range 240).filter (fun t => s.isLoop t && l.contains (s.taskSt t).outcome)).map
    (fun t => s.get (R.TASK_CHAN t))
  (pick [2, 3, 5], pick [1])

/-- The placement unit as a tick ends: runs are abandoned, OUTCOME and USED are shown; answers the report of R154. -/
def State.plcTickEnd (s : State) : (List Nat × List Nat) × State :=
  let s := forUp 8 (fun e s => s.retireEngine e) s
  let s := forUp 8 (fun e s => s.abandon e) s
  let s := s.engs.foldl (fun s g => g.queue.foldl (fun s t => s.setOutcome t 4) s) s
  let r := s.loopReport
  let s := forUp 240 (fun t s =>
    let o := if (s.runsOn t).isSome then 6 else (s.taskSt t).outcome
    (s.put (R.TASK_OUTCOME t) o).setOutcome t 0) s
  let s := forUp 8 (fun e s =>
    let g := s.eng e
    (s.put (R.PLC_ENG_USED_USED e) ((rdiv g.used 8).toNat)).setEng e { g with
      used := 0, queue := [], ticks := if g.task.isSome then g.ticks + 1 else 0
      fly := if g.issuing then g.fly else [] }) s
  (r, s)

/-- A descriptor that R418 refuses. -/
def State.taskBad (s : State) (t : Nat) : Bool :=
  let span := s.act (R.TASK_SPAN t) == 1
  (s.isLoop t && span) || (span && s.act (R.TASK_SPAN_MAX t) == 0) || s.act (R.TASK_EVERY t) == 0
    || decide (s.act (R.TASK_EVERY t) ≤ s.act (R.TASK_PHASE t))
    || decide (7680 < s.get (R.TASK_SB_FIRST t) + s.get (R.TASK_SB_N t))

/-- Task `t` at an activation edge; `o` is the state before it (R409, R418). -/
def State.taskActivated (s o : State) (t : Nat) : State :=
  let base := (R.TASK_EN t).gwa
  let words := (List.range 6).map (fun k => base + k)
  if words.all (fun a => s.actRg a == o.actRg a) then s
  else if s.taskBad t then
    let s := words.foldl (fun s a => s.setActRg a (o.actRg a)) s
    ((s.putB R.PLC_CFG_REJ_REJ true).put R.PLC_CFG_REJ_OFFSET (base % 4096)).raise 0x0A06 0xFF t
  else s.setTaskSt t { s.taskSt t with done := false, aband := false }

/-- The placement unit at an edge at which PLC values become active. -/
def State.plcActivated (s o : State) : State := forUp 240 (fun t s => s.taskActivated o t) s

/-- When the blocks that arrive land: those of an engine follow each other, 320 clocks each, from clock 3,840 of the tick on
(R407). -/
def landings (into : List (Nat × Nat × Nat × Nat)) : List (Nat × Nat) :=
  (List.range 8).flatMap (fun e =>
    ((into.filter (fun x => x.1 == e)).zipIdx).map (fun x => (x.1.2.2.1, 3840 + 320 * (x.2 + 1))))

/-- The clock of the tick at which the last block of task `t` has landed, 0 where none arrives. -/
def State.landed (s : State) (t : Nat) : Nat :=
  s.plc.landing.foldl (fun m x => if x.1 == t then max m x.2 else m) 0

/-- Blocks of an engine that left service after the placement was made go home in this write-back phase, as far as WB_MAX and
the write-backs `out` planned leave room (R414). -/
def State.homeRetired (s : State) (out : List (Nat × Nat)) : State :=
  forUp 8 (fun e s =>
    if bitOf (s.get R.PLC_ENG_STAT_OOS) e then
      let ks := (List.range 64).filter (fun k => ((s.eng e).slots.getD k none).isSome)
      (ks.take (s.get R.PLC_CFG_WB_MAX - out.countP (fun x => x.1 == e))).foldl (fun s k => s.writeHome e k) s
    else s) s

/-- The placement of the last tick starts: blocks move, and engines get their tasks (R407, R411). The words of a block move at the
edge as a whole (DESIGN CHOICE, log entry 140). -/
def State.plcTickStart (s : State) : State :=
  let s := { s with plc := { s.plc with landing := match s.plc.plan with
    | some p => landings p.into
    | none => [] } }
  match s.plc.plan with
  | none => (forUp 8 (fun e s => s.put (R.PLC_ENG_PLAN_PLAN e) 0) (s.put R.PLC_STAT_DEFER_CNT 0)).homeRetired []
  | some p =>
    let s := { s with plc := { s.plc with plan := none } }
    let s := (p.out.foldl (fun s x => s.writeHome x.1 x.2) s).homeRetired p.out
    let s := p.into.foldl (fun s x => s.loadBlock x.1 x.2.1 x.2.2.1 x.2.2.2) s
    let s := p.deferred.foldl (fun s t => s.setOutcome t 3) s
    let s := s.put R.PLC_STAT_DEFER_CNT (min 255 p.deferred.length)
    forUp 8 (fun e s =>
      (s.put (R.PLC_ENG_PLAN_PLAN e) (min 65535 (rdiv (p.load.getD e 0) 8).toNat)).setEng e
        { s.eng e with queue := (p.queues.getD e []).filter (fun t => (s.taskSt t).outcome != 7) }) s

/-! ### Entry and SPAN (R405, R412, R413) -/

/-- The record-ready flag of channel `c` is up (R192). -/
def State.recordReady (s : State) (c : Nat) : Bool := bitOf (s.rg (0x705038 + c / 16)).toNat (c % 16)

/-- Engine `e` enters task `t` (R323, R405), 12 engine cycles after the last task. -/
def State.enterTask (s : State) (e t : Nat) (rest : List Nat) : State :=
  let g := (s.eng e).advances 12
  let at_ (b : Nat) : BitVec 24 := match (List.range 64).find? (fun k => g.slots.getD k none == some (t, b)) with
    | some k => BitVec.ofNat 24 (0x4000 + k * 0x100)
    | none => 0
  let s := if s.isLoop t then { s with plc := { s.plc with gap := [] } } else s
  let w := listPut (listPut g.w 0 (BitVec.ofNat 16 t) 0) 1 (BitVec.ofNat 16 s.clk.tickCount) 0
  s.setEng e { g with
    w := w, x := (List.range 4).map at_ ++ g.x.drop 4, p := 1, lk := 0, lc := [0, 0], st := 0x4000
    loops := [none, none], jump := none, tend := none, pc := s.get (R.TASK_ENTRY t), issuing := true
    task := some t, cyc := 0, ticks := 1, queue := rest, used := g.used + 12 }

/-- The next placed task of engine `e` that can be entered is; LOOP tasks with no record by the end of the record post
are skipped (R405, R412). -/
def State.entryFrom (s : State) (e : Nat) : List Nat → State
  | [] => s.setEng e { s.eng e with queue := [] }
  | t :: rest =>
    if s.isLoop t && !s.recordReady (s.get (R.TASK_CHAN t)) then
      if s.postOver then (s.setOutcome t 4).entryFrom e rest else s.setEng e { s.eng e with queue := t :: rest }
    else
      -- its blocks have landed (R28, R407)
      let k := s.landed t - s.clk.phase
      if s.inTick k then (s.elapse k).enterTask e t rest else s

/-- TASK_ENTRY on engine `e`. -/
def State.taskEntry (s : State) (e : Nat) : State :=
  let g := s.eng e
  if g.issuing || s.isOn (R.SYS_ENG_STAT_HALTED e) || !bitOf (s.get R.WEIR_STAT_ENG_POWERED) e || g.queue.isEmpty then s
  else s.entryFrom e g.queue

/-- SPAN_OVERRUN on engine `e` (R413), at a tick edge: the tick that has ended shows ABANDONED. -/
def State.spanOverrun (s : State) (e : Nat) : State :=
  match s.spanOn e with
  | none => s
  | some t =>
    if !s.atEdge || decide ((s.eng e).ticks ≤ s.act (R.TASK_SPAN_MAX t)) then s
    else ((((s.runEnds e 2).put (R.TASK_OUTCOME t) 2).stopEngine e).putB R.PLC_STAT_SPAN_OVR true).raise 0x0A04 e t

end Sys2Proof.Machine
end

