-- ==== Sys2Proof/Machine/Image.lean ====
section
/-!
DEFINITION. Engine images: header, body sections, the checks and the load (spec/17_lifecycle_otp_security.md R524;
spec/18_start_sleep_update.md R541, R544; spec/12_tabile_instruction_reference.md R400).
-/

namespace Sys2Proof.Machine

/-- A section of an image's body (R544): where its data starts in the image. -/
structure Section where
  kind : Nat
  mask : Nat
  len : Nat
  target : Nat
  data : Nat
  deriving DecidableEq, Repr

/-- The section whose header starts at image word `p`. -/
def sectionAt (rd : Nat → Word) (p : Nat) : Section :=
  let h := (rd p).toNat
  { kind := h / 4096, mask := h % 256, data := p + 6
    len := wordsValue rd (p + 1) 2 % 2 ^ 24, target := wordsValue rd (p + 3) 2 % 2 ^ 24 }

/-- The section keeps the rules of R544. -/
def Section.good (c : Section) : Bool :=
  match c.kind with
  | 1 => c.mask != 0 && decide (c.target + c.len ≤ 32768)
  | 2 => c.mask != 0 && decide (c.target + c.len ≤ 64)
  | 3 => c.mask != 0 && c.len % 3 == 0 && decide (c.target + c.len / 3 ≤ 256)
  | 4 => c.mask != 0 && decide (c.target + c.len ≤ 0x4000)
  | 5 => c.mask == 0 && ((decide (0x100000 ≤ c.target) && decide (c.target + c.len ≤ 0x2E0000))
      || (decide (0x660000 ≤ c.target) && decide (c.target + c.len ≤ 0x6A0000)))
  | _ => false

/-- The sections of a body of `left` words from image word `p`; `none` where they break R544. The first argument bounds
their number. -/
def bodySections (rd : Nat → Word) : Nat → Nat → Nat → Option (List Section)
  | _, _, 0 => some []
  | 0, _, _ + 1 => none
  | fuel + 1, p, left + 1 =>
    let c := sectionAt rd p
    if c.good && decide (6 + c.len ≤ left + 1) then
      (bodySections rd fuel (c.data + c.len) (left + 1 - 6 - c.len)).map (c :: ·)
    else none

/-- LENGTH and VERSION of the image. -/
def imageLength (rd : Nat → Word) : Nat := wordsValue rd 4 2
def imageVersion (rd : Nat → Word) : Nat := wordsValue rd 2 2

/-- The sections of the image. -/
def imageSections (rd : Nat → Word) : Option (List Section) :=
  bodySections rd (imageLength rd + 1) 128 (imageLength rd)

/-- `n` words of the image from `p`. -/
def imageWords (rd : Nat → Word) (p n : Nat) : List Word := (List.range n).map (fun i => rd (p + i))

/-- Checks 1 to 5 of R524; `room`: words of the source region; `x`: the master that starts the load has X on the source.
0 where all pass. -/
def State.checkHead (s : State) (rd : Nat → Word) (room : Nat) (x : Bool) : Nat :=
  let zero (p n : Nat) : Bool := (imageWords rd p n).all (fun w => w == 0)
  let blank := s.lc == 0
  if rd 0 != 0x454B || rd 1 != 1 || !zero 6 2 || !zero 88 40 then 1
  else if decide (room < 128 + imageLength rd) || (imageSections rd).isNone then 2
  else if !x then 3
  else if !blank && decide (imageVersion rd < s.minVer) then 4
  else if !blank && !(List.range 4).any (fun k =>
    s.slotUsable k && sha256 (wordBytes (imageWords rd 8 32)) == s.slotDigest k) then 5
  else 0

/-- The image runs: LAST names the slot whose key signed it, and UNSIGNED follows BLANK (LCS_KEY_STAT, LCS_STAT). -/
def State.imageRuns (s : State) (rd : Nat → Word) : State :=
  let s := s.putB R.LCS_STAT_UNSIGNED (s.lc == 0)
  let slot := (List.range 4).find? (fun k =>
    s.lc != 0 && s.slotUsable k && sha256 (wordBytes (imageWords rd 8 32)) == s.slotDigest k)
  match slot with
  | some k => s.put R.LCS_KEY_STAT_LAST k
  | none => s

/-- Check 6: the digest of the body. -/
def bodyGood (rd : Nat → Word) : Bool :=
  sha256 (wordBytes (imageWords rd 128 (imageLength rd))) == wordBytes (imageWords rd 72 16)

/-- Check 7: the signature over header words 0 to 39 and 72 to 127. -/
def signatureGood (rd : Nat → Word) : Bool :=
  let num (p : Nat) : Nat := beValue (wordBytes (imageWords rd p 16))
  let digest := sha256 (wordBytes (imageWords rd 0 40 ++ imageWords rd 72 56))
  ecdsaOk (num 8) (num 24) (beValue digest) (num 40) (num 56)

/-- A sequence from micro-address `a` reaches LAST by 255 (R400). -/
def Engine.reachesLast (g : Engine) (a : Nat) : Bool :=
  (List.range (256 - a)).any (fun i => bitOf (wmGet 0 g.ucode (3 * (a + i) + 2)).toNat 15)

/-- Check 8: every VALID decode entry of every engine keeps R400. -/
def State.tablesGood (s : State) : Bool :=
  s.engs.all (fun g => (List.range 64).all (fun k =>
    let w := (wmGet 0 g.dtab k).toNat
    !bitOf w 15 || g.reachesLast (w % 256)))

/-- One word of a section goes to its place. -/
def State.loadImageWord (s : State) (c : Section) (i : Nat) (w : Word) : State :=
  let each (f : Engine → Engine) : State := forUp 8 (fun e s => if bitOf c.mask e then s.setEng e (f (s.eng e)) else s) s
  match c.kind with
  | 1 => each (fun g => { g with imem := wmPut 0 (c.target + i) w g.imem })
  | 2 => each (fun g => { g with dtab := wmPut 0 (c.target + i) w g.dtab,
                                 ucBad := g.ucBad.filter (· != c.target + i) })
  | 3 => each (fun g => { g with ucode := wmPut 0 (3 * c.target + i) w g.ucode,
                                 ucBad := g.ucBad.filter (· != 64 + c.target + i / 3) })
  | 4 => each (fun g => { g with loc := wmPut 0 (c.target + i) w g.loc, locBad := g.locBad.filter (· != c.target + i) })
  | _ => s.memPut (c.target + i) w

/-- The sections are loaded in body order (R544). -/
def State.loadSections (s : State) (rd : Nat → Word) (l : List Section) : State :=
  l.foldl (fun s c => (List.range c.len).foldl (fun s i => s.loadImageWord c i (rd (c.data + i))) s) s

/-- The checks of R524 in order, on an image that `load` says is loaded as it is read; answers the failed check, 0 for
none, and the state with what was loaded. -/
def State.checkImage (s : State) (rd : Nat → Word) (room : Nat) (x : Bool) : Nat × State :=
  match s.checkHead rd room x with
  | 0 =>
    let t := s.loadSections rd ((imageSections rd).getD [])
    let c := if !bodyGood rd then 6
      else if s.lc != 0 && !signatureGood rd then 7
      else if !t.tablesGood then 8 else 0
    (c, t)
  | c => (c, s)

/-- The image in the flash from window word `base`. -/
def State.flashImage (s : State) (base : Nat) : Nat → Word := fun i => s.flashWord (base + i)

/-- The image in memory from GWA `base`, as the load path reads it: with single errors corrected. -/
def State.memImage (s : State) (base : Nat) : Nat → Word := fun i =>
  match s.flipAt (base + i) with
  | some f => if f.bits ≤ 1 ∧ !f.poison then s.memGet (base + i) else s.memGet (base + i) ^^^ f.data
  | none => s.memGet (base + i)

/-- The flash slots that are not empty, in the order in which they are tried (R541): 0 for A, 1 for B. -/
def State.slotOrder (s : State) : List Nat :=
  let full := [0, 1].filter (fun k => s.flashWord (k * 0x200000) == 0x454B)
  if full = [0, 1] ∧ imageVersion (s.flashImage 0) < imageVersion (s.flashImage 0x200000) then [1, 0] else full

/-- The flash slots are tried in order; answers whether one passes (R524, R541). -/
def State.tryFlash (s : State) : Bool × State :=
  s.slotOrder.foldl (fun (r : Bool × State) k =>
    if r.1 then r
    else
      let s := r.2
      match s.checkImage (s.flashImage (k * 0x200000)) 0x200000 (s.allowed 14 38 .image) with
      | (0, s) => (true, (s.put R.SYS_BOOT_STAT_SLOT k).imageRuns (s.flashImage (k * 0x200000)))
      | (c, s) => (false, s.raise 0x1002 k c)) (false, s)

end Sys2Proof.Machine
end

