-- ==== Sys2Proof/Machine/Weir.lean ====
section
/-!
DEFINITION. The Weir governor: power and temperature, shed levels, power gating and the wake sequencer
(spec/13_placement_and_weir.md, R419 to R425).
-/

namespace Sys2Proof.Machine

/-- Work that level `n` sheds is present (R421, R422). -/
def State.workPresent (s : State) (n : Nat) : Bool :=
  let c := 3 - (n - 1) / 3
  match (n - 1) % 3 with
  | 0 => (List.range 6144).any (fun j => (s.get (R.JOB_STATE j) == 1 || s.get (R.JOB_STATE j) == 2) && s.get (R.JOB_CLASS j) == c)
  | 1 => (List.range 192).any (fun k => !(s.chState k == 0 || s.chState k == 5) && s.get (R.CH_CLASS (s.masterOf k)) == c)
  | _ => (List.range 240).any (fun t => s.act (R.TASK_EN t) == 1 && !s.isLoop t && s.act (R.TASK_CLASS t) == c)

/-- The working levels above `l`: those that shed work present. -/
def State.levelsAbove (s : State) (l : Nat) : List Nat := (List.range 10).filter (fun n => l < n && s.workPresent n)

/-- Weir's sample of the sensors, in 0.25 °C (R420). -/
def State.sampleSensors (s : State) (sens : List Int) : State :=
  let t (k : Nat) : Int := sens.getD k 0
  let sorted := sortBy (fun a b : Int => a ≤ b) ((List.range 6).map t)
  let base : Int := 4096
  let med : Int := (Config.medianOf (sorted.getD 2 0 + base).toNat (sorted.getD 3 0 + base).toNat : Nat) - base
  let out (k : Nat) : Bool := t k < -220 || 600 < t k || decide (80 < (t k - med).natAbs)
  let s := forUp 6 (fun k s =>
    let s := (s.put (R.WEIR_SENS_T k) (unsignedOf 12 (t k))).putB (R.WEIR_SENS_VALID k) (!out k)
    if out k && !s.weir.excluded.getD k false then s.raise 0x0B04 k else s) s
  let used := (List.range 6).filter (fun k => !out k)
  let top := used.foldl (fun (m : Option Int) k => match m with
    | none => some (t k)
    | some x => some (max x (t k))) none
  let s := s.putB R.WEIR_TMAX_VALID (3 ≤ used.length)
  let s := match top with
    | some x => s.put R.WEIR_TMAX_T (unsignedOf 12 x)
    | none => s
  { s with weir := { s.weir with excluded := (List.range 6).map out } }

/-- CAP in mW, T_TGT in 0.25 °C. -/
def State.weirCap (s : State) : Nat := 10 * s.get R.WEIR_CAP_CAP
def State.weirTarget (s : State) : Int := 4 * s.get R.WEIR_TEMP_T_TGT
def State.tMax (s : State) : Int := s.getS R.WEIR_TMAX_T

/-- The lowering conditions of R423 at the level in force, apart from their count. -/
def State.lowerHolds (s : State) (p : Nat) (hot : Bool) : Bool :=
  let l := s.get R.WEIR_LEVEL_LEVEL
  let dp := if l = 0 then 0 else s.get (R.WEIR_SHED_P_DP l)
  decide (s.get R.WEIR_LEVEL_MIN_LEVEL < l) && !hot
    && decide (p + dp + 50 * s.get R.WEIR_CAP_P_HYST ≤ s.weirCap)
    && decide (s.tMax * 2500 + (dp * s.get R.WEIR_THETA_THETA : Nat)
        ≤ ((s.get R.WEIR_TEMP_T_TGT : Int) - s.get R.WEIR_TEMP_T_HYST) * 10000)

/-- A raise by up to `k` working levels, for `cause` (R422). -/
def State.weirRaise (s : State) (p k cause : Nat) : State :=
  let l := s.get R.WEIR_LEVEL_LEVEL
  match ((s.levelsAbove l).take k).getLast? with
  | none => s
  | some n =>
    let steps := (s.levelsAbove l).take k
    let passed := (List.range 10).filter (fun x => l < x && x < n && !steps.contains x)
    let s := passed.foldl (fun s x => s.putB ⟨0x70C008, x - 1, x - 1⟩ true) s
    let s := (s.putB R.WEIR_STAT_RAISED true).raise 0x0B01 0xFF (n + 16 * cause)
    { s with weir := { s.weir with next := some n, recover := 0, raised := some (n, p) } }

/-- Weir samples and decides (R419 to R422): `p` is P_EST in mW. One decision stands per tick. -/
def State.weirDecide (s : State) (p : Nat) (sens : List Int) : State :=
  if s.weir.next.isSome then s
  else
    let s := (s.sampleSensors sens).put R.WEIR_P_EST_P p
    let l := s.get R.WEIR_LEVEL_LEVEL
    let overP := decide (s.weirCap < p)
    let overT := !s.isOn R.WEIR_TMAX_VALID || decide (s.weirTarget < s.tMax)
    let s := (s.putB R.WEIR_STAT_OVER_P overP).putB R.WEIR_STAT_OVER_T overT
    -- a raise of the last tick has fully shed
    let s := match s.weir.raised with
      | some (n, before) => { (s.put (R.WEIR_SHED_P_DP n) (before - p)) with weir := { s.weir with raised := none } }
      | none => s
    let s := { s with weir := { s.weir with next := some l, recover := if s.lowerHolds p (overP || overT) then s.weir.recover + 1 else 0 } }
    let wait := if s.isOn R.WEIR_TMAX_VALID && decide (s.weirTarget + 20 < s.tMax) then 100 else 100 * s.get R.WEIR_HOLD_T_HOLD
    let hot := overT && (match s.weir.sinceT with
      | some n => decide (wait ≤ n)
      | none => true)
    let (atP, atT) := s.weir.top
    let nine := l == 9
    let s := if nine && overP && !atP then s.raise 0x0B02 0xFF else s
    let s := if nine && overT && !atT then s.raise 0x0B03 0xFF else s
    let s := { s with weir := { s.weir with top := (nine && overP, nine && overT) } }
    if nine then s
    else if hot then
      let t := s.weirRaise p 1 (if overP then 3 else 2)
      if t.weir.next = some l then s else { t with weir := { t.weir with sinceT := some 0 } }
    else if overP then s.weirRaise p (if 11 * s.weirCap < 10 * p then 3 else 1) 1
    else s

/-- WEIR_DECISION: in the Weir sample and the Weir decision of the tick (R28, R407). -/
def State.weirDecision (s : State) (p : Nat) (sens : List Int) : State :=
  s.inPhase 483328 485375 (fun s => s.weirDecide p sens)

/-- The level a lowering reaches from `l`: past every level marked in PASSED, never below MIN_LEVEL (R423). -/
def State.lowerTo (s : State) (l : Nat) : Nat :=
  let free := (List.range l).filter (fun n => n == 0 || !bitOf (s.get R.WEIR_PASSED_PASSED) (n - 1))
  max (free.getLastD 0) (s.get R.WEIR_LEVEL_MIN_LEVEL)

/-- Weir lowers its level, if it may (R423). -/
def State.lowerNow (s : State) : State :=
  let l := s.get R.WEIR_LEVEL_LEVEL
  if s.clk.limp || s.weir.recover < 100 * s.get R.WEIR_HOLD_RECOVER || s.weir.next != some l
      || l ≤ s.get R.WEIR_LEVEL_MIN_LEVEL then s
  else
    let n := s.lowerTo l
    let s := (List.range l).foldl (fun s x => if n < x then s.putB ⟨0x70C008, x - 1, x - 1⟩ false else s) s
    { (s.putB R.WEIR_STAT_LOWERED true) with weir := { s.weir with next := some n, recover := 0 } }

/-- WEIR_LOWER: in the Weir decision of the tick (R407). -/
def State.weirLower (s : State) : State := s.inPhase 484352 485375 State.lowerNow

/-- Weir at a tick edge (R421): the level chosen takes effect, and channels of a shed class stop at this edge; a follower
with its master, whose class decides (R149; log entry 124). -/
def State.weirTickEdge (s : State) : State :=
  let s := s.put R.WEIR_LEVEL_LEVEL s.nextLevel
  let s := { s with weir := { s.weir with next := none, sinceT := s.weir.sinceT.map (· + 1) } }
  let l := s.get R.WEIR_LEVEL_LEVEL
  forUp 192 (fun c s =>
    if 1 ≤ s.chState c && s.chState c ≤ 4 && !channelAllowed l (s.get (R.CH_CLASS (s.masterOf c))) then
      s.setChan c { s.chan c with shedNext := true }
    else s) s

/-! ### Power gating (R424) -/

/-- Unit `u` may be powered down now: engines 0 to 7, lane groups 8 to 15, pipelines 16 to 19. -/
def State.mayGate (s : State) (u : Nat) : Bool :=
  let idle := s.get R.WEIR_GATE_IDLE
  bitOf (s.rg (powerFld u).gwa).toNat (powerFld u).lo &&
  (if u < 8 then
    u != 0 && s.isOn R.WEIR_GATE_ENG_EN && decide (idle ≤ (s.eng u).idle) && !(s.eng u).issuing && (s.eng u).queue.isEmpty
  else if u < 16 then
    s.isOn R.WEIR_GATE_LANE_EN && (List.range 24).all (fun k =>
      s.chState (24 * (u - 8) + k) == 0 || s.chState (24 * (u - 8) + k) == 5)
  else
    s.isOn R.WEIR_GATE_PIPE_EN && (s.pipe (u - 16)).job.isNone
      && (decide (7 ≤ s.get R.WEIR_LEVEL_LEVEL) || !s.isOn R.SRCH_CFG_EN || decide (idle ≤ s.srch.idle)))

/-- UNIT_POWER_DOWN (R424), at a tick edge: an engine's blocks are written home first. -/
def State.unitPowerDown (s : State) (u : Nat) : State :=
  if !s.atEdge || !s.mayGate u then s
  else
    let s := if u < 8 then (s.homeAll u).putB ⟨0x70B006, u, u⟩ true else s
    s.putB (powerFld u) false

/-! ### The wake sequencer (R425) -/

/-- Units that read powered or are being woken. -/
def State.awake (s : State) (u : Nat) : Bool :=
  bitOf (s.rg (powerFld u).gwa).toNat (powerFld u).lo || s.clk.waking.any (fun e => e.1 == u)

/-- A wake of unit `u` is requested. -/
def State.wakeAsked (s : State) (u : Nat) : Bool :=
  !s.awake u &&
  (if u < 8 then s.plc.wake.contains u
  else if u < 16 then (List.range 24).any (fun k => s.chState (24 * (u - 8) + k) == 1)
  else
    s.readyJobs.any (fun j => s.searchAllowed (s.get (R.JOB_CLASS j)))
      && decide (((List.range 4).filter (fun k => s.awake (16 + k))).length < s.get R.SRCH_CFG_PIPE_MAX)
      && (List.range (u - 16)).all (fun k => s.awake (16 + k)))

/-- The wake of unit `u` starts, no sooner than the spacing allows; the unit reads powered 512 clocks later. -/
def State.wakeUnit (s : State) (u : Nat) : State :=
  let t := max s.clk.total s.clk.nextWake
  { s with
    clk := { s.clk with waking := s.clk.waking ++ [(u, t + 512)], nextWake := t + (if u < 16 then 1024 else 2048) }
    plc := { s.plc with wake := s.plc.wake.filter (fun e => e != u) } }

/-- UNIT_WAKE: the first request in the order engines, lane groups, pipelines is served; it starts when the spacing
allows, if that comes in this tick. -/
def State.unitWake (s : State) : State :=
  match (List.range 20).find? s.wakeAsked with
  | none => s
  | some u =>
    let k := s.clk.nextWake - s.clk.total
    if s.inTick k then (s.elapse k).wakeUnit u else s

end Sys2Proof.Machine
end

