-- ==== Sys2Proof/Machine/Start.lean ====
section
/-!
DEFINITION. Supplies, resets, boot, sleep and hitless update (spec/02_package_balls_supplies.md R57 to R67;
spec/18_start_sleep_update.md R535 to R556; spec/17_lifecycle_otp_security.md R512, R515 to R520, R585).
-/

namespace Sys2Proof.Machine

/-! ### Low-power counter (R547) -/

/-- SYS_LPC_CNT. -/
def State.lpcCount (s : State) : Nat := s.getW ⟨0x70008F, 3⟩

/-- The counter counts. -/
def State.lpcCounts (s : State) : Bool := s.isOn R.SYS_SLEEP_STAT_ARMED && !s.isOn R.SYS_SLEEP_STAT_LOS

/-- `n` edges of the recorded input are counted; a carry out of bit 47 sets OVF. -/
def State.lpcAdd (s : State) (n : Nat) : State :=
  if !s.lpcCounts then s
  else
    let c := s.lpcCount + n
    let s := s.putW ⟨0x70008F, 3⟩ c
    if 2 ^ 48 ≤ c then s.putB R.SYS_SLEEP_STAT_OVF true else s

/-- LPC_OVERFLOW: the edges up to the carry are counted. -/
def State.lpcOverflow (s : State) : State := s.lpcAdd (2 ^ 48 - s.lpcCount)

/-- LPC_LOS: a gap of more than 1 µs, after `n` edges. -/
def State.lpcLos (s : State) (n : Nat) : State :=
  if s.lpcCounts then (s.lpcAdd n).putB R.SYS_SLEEP_STAT_LOS true else s

/-- The stamp of an edge of a reference at its ball, `ofs` after the clock in progress (R265, R547). -/
def State.edgeStamp (s : State) (ofs : Nat) : List Word :=
  let v := s.tbSub + ofs
  let ns := v / 65536 % 1000000000
  let sec := v / 65536 / 1000000000
  let w (x : Nat) : Word := BitVec.ofNat 16 x
  [w v, w ns, w (ns / 65536), w sec, w (sec / 65536), w (sec / 2 ^ 32)]

/-- SYS_SLEEP_CMD.ARM. -/
def State.sleepArm (s : State) : State :=
  if s.synLocked && s.get R.SYS_UPD_STAT_STATE == 0 then { s with start := { s.start with armAt := some s.clk.age } }
  else s.putB R.SYS_SLEEP_STAT_CMD_IGN true

/-- LPC_ARM_EDGE: the first edge of the active input at least 1 µs after ARM. -/
def State.lpcArmEdge (s : State) (ofs : Nat) : State :=
  match s.start.armAt with
  | none => s
  | some t =>
    match s.runAge (t + agePerUs) with
    | none => s
    | some s =>
      let s := (s.setRgs 0x700083 (s.edgeStamp ofs)).putW ⟨0x70008F, 3⟩ 0
      let s := (s.put R.SYS_SLEEP_STAT_INPUT s.synActive).putB R.SYS_SLEEP_STAT_ARMED true
      let s := ((s.putB R.SYS_SLEEP_STAT_SNAPPED false).putB R.SYS_SLEEP_STAT_LOS false).putB R.SYS_SLEEP_STAT_OVF false
      { s with start := { s.start with armAt := none } }

/-- SYS_SLEEP_CMD.SNAP. -/
def State.sleepSnap (s : State) : State :=
  if s.isOn R.SYS_SLEEP_STAT_ARMED && s.synLocked && s.synActive == s.get R.SYS_SLEEP_STAT_INPUT then
    { s with start := { s.start with snapAt := some s.clk.age } }
  else s.putB R.SYS_SLEEP_STAT_CMD_IGN true

/-- LPC_SNAP_EDGE: the first edge at least 1 µs after SNAP, with `n` edges to count, this one among them. -/
def State.lpcSnapEdge (s : State) (n ofs : Nat) : State :=
  match s.start.snapAt with
  | none => s
  | some t =>
    match s.runAge (t + agePerUs) with
    | none => s
    | some s =>
      let s := (s.lpcAdd n).setRgs 0x700089 (s.edgeStamp ofs)
      let s := (s.putB R.SYS_SLEEP_STAT_ARMED false).putB R.SYS_SLEEP_STAT_SNAPPED true
      { s with start := { s.start with snapAt := none } }

/-- The sleep record is valid (R549). -/
def State.sleepRecord (s : State) : Bool :=
  let len := (s.memGet 0x600001).toNat
  s.memGet 0x600000 == 0x5357 && decide (3 ≤ len) && decide (len ≤ 4096)
    && (s.memGet (0x600000 + len - 1)).toNat == crc16 (wordBytes (s.memGets 0x600000 (len - 1)))

/-! ### Resets (R63 to R65, R535, R536) -/

/-- The bits that reset keeps: SYS_SLEEP_STAT without CMD_IGN, the captures and the count, the tamper latches, a wipe in
progress (R447, R536), and KEYS_VALID, which only LCS_CMD.KEYS_OK raises (R528). -/
def keptRegs : List (Nat × Nat) :=
  (0x700082, 0xFC00) :: (List.range 15).map (fun k => (0x700083 + k, 0xFFFF)) ++ [(0x701003, 0x0400), (0x701006, 0xFFFF), (0x70D034, 0x8000)]

/-- The reset state, with what reset does not touch: the VDD_RET domain, fuses, flash, supplies, and the model's own
fields. -/
def State.resetKept (s : State) : State :=
  let base := { State.reset with
    pending := s.pending, readData := s.readData, free := s.free
    mem := wmSlice 0x600000 0x624000 s.mem
    memSt := { State.reset.memSt with
      flips := s.memSt.flips.filter (fun e => 0x600000 ≤ e.1 && e.1 < 0x624000)
      writeBack := s.memSt.writeBack.filter (fun a => 0x600000 ≤ a && a < 0x624000)
      wipeAgain := s.memSt.wipeAgain, wipeCause := s.memSt.wipeCause, wipeSeen := s.memSt.wipeSeen }
    lcs := { State.reset.lcs with otp := s.lcs.otp, trigNew := s.lcs.trigNew, armed := s.lcs.armed }
    flash := s.flash, pwr := s.pwr }
  keptRegs.foldl (fun t k => t.setRg k.1 (BitVec.ofNat 16
    (((t.rg k.1).toNat &&& (65535 - k.2)) ||| ((s.rg k.1).toNat &&& k.2)))) base

/-- The device enters reset by `src`: 0 the power-on detector, 1 RST_N, 2 debug (R63, R64, R535). -/
def State.enterReset (s : State) (src : Nat) : State :=
  let s := s.otpCut.fuseCut.flashCut.resetKept
  let p := { s.pwr with stage := if s.pwr.rails.getD 0 false then .inReset else .unpowered, rstLow := s.pwr.rstLow || src == 1, porHold := s.pwr.porHold || src != 1
                        sources := if s.live then [src] else s.pwr.sources ++ [src] }
  { s with pwr := p }.rearm

/-- The rails that the power-on detector monitors, in the order of R57 (R64). -/
def monitored : List Nat := [0, 1, 2, 4, 5, 6]

/-- Index of a rail in the order of R57. -/
def railIndex : Rail → Nat
  | .core => 0 | .mem => 1 | .ret => 2 | .a10 => 3 | .a18 => 4 | .ioA => 5 | .ioB => 6 | .vin => 7

/-- Every monitored rail is valid. -/
def State.railsValid (s : State) : Bool := monitored.all (fun r => s.pwr.rails.getD r false)

/-- POWER_UP: rail `r` becomes valid; an I/O bank senses its level as its rail rises, and with VDD_CORE the device is in reset
(R59, R60). -/
def State.powerUp (s : State) (r : Nat) (v33 : Bool) : State :=
  if s.pwr.rails.getD r false then s
  else
    let p := { s.pwr with rails := listPut s.pwr.rails r true false
                          stage := if r = 0 ∧ s.pwr.stage = .unpowered then .inReset else s.pwr.stage
                          io33A := if r = 5 then v33 else s.pwr.io33A, io33B := if r = 6 then v33 else s.pwr.io33B }
    { s with pwr := p }.rearm

/-- POR_TRIP: rail `r` has fallen below its threshold (R64). -/
def State.porTrip (s : State) (r : Nat) : State :=
  if !monitored.contains r then s
  else { s with pwr := { s.pwr with rails := listPut s.pwr.rails r false false } }.enterReset 0

/-- RST_N_FALL: the GATE balls go low, and the flash is reset, which aborts its program or erase (R65). -/
def State.rstNFall (s : State) : State := s.gateMute.flashAbort

/-- RESET_END: RST_N is high and t_POR has elapsed (R60, R63, R535). -/
def State.resetEnd (s : State) (mode n : Nat) : State :=
  if s.pwr.stage != .inReset || !s.railsValid then s
  else
    let cause := s.pwr.sources.foldl (fun a b => min a b) 2
    let s := (s.lpcAdd n).put R.SYS_BOOT_STAT_CAUSE cause
    { s with pwr := { s.pwr with stage := .boot, bootMode := mode, rstLow := false, porHold := false } }

/-- SYS_RESET.GO by master `m` (R535). -/
def State.sysReset (s : State) (m : Nat) : State := if m = 15 then s.enterReset 2 else s.reject 0x700070

/-- The kept bits of the registers go to their reset values. -/
def State.loseKept (s : State) : State :=
  keptRegs.foldl (fun s k => s.setRg k.1 (BitVec.ofNat 16
    (((s.rg k.1).toNat &&& (65535 - k.2)) ||| ((resetWord k.1).toNat &&& k.2)))) s

/-- VDD_RET is off: its memories give no access, and no trigger is kept. -/
def State.retOff (s : State) : State :=
  let s := (s.putB R.MEM_BW_STAT_READY false).putB R.MEM_BW_STAT_RETAINED false
  let l := { s.lcs with trigNew := 0, armed := 0 }
  { s with lcs := l, pwr := { s.pwr with rails := listPut s.pwr.rails 2 false false } }

/-- VDD_RET_LOSS: VDD_RET has left both its ranges, and its domain loses its contents (R448, R536). What the memories
hold afterwards is open; the model's memory reads 0 (log entry 5). -/
def State.retLoss (s : State) : State :=
  let m := { s.memSt with
    flips := s.memSt.flips.filter (fun e => e.1 < 0x600000 || 0x624000 ≤ e.1)
    writeBack := s.memSt.writeBack.filter (fun a => a < 0x600000 || 0x624000 ≤ a) }
  { s with mem := wmReplace 0x600000 0x624000 s.mem [], memSt := m }.loseKept.retOff

/-! ### Boot (R537 to R543) -/

/-- The frequencies of R540, in Hz. -/
def refList : List Nat :=
  [10000000, 12800000, 19200000, 25000000, 30720000, 38400000, 50000000, 61440000, 76800000, 100000000]

/-- The listed frequency that a count of edges in 100 µs matches within 6 %, 0 for none. -/
def refMatch (n : Nat) : Nat :=
  (refList.find? (fun f => decide (94 * f ≤ 100 * (n * 10000)) && decide (100 * (n * 10000) ≤ 106 * f))).getD 0

/-- Lifecycle states in which boot mode `m` is permitted (R538). -/
def modePermitted (m lc : Nat) : Bool :=
  match m with
  | 6 => lc == 0
  | 7 => lc == 0 || lc == 1 || lc == 3
  | _ => lc != 4

/-- The highest valid generation `best` becomes active; `last` is the highest one used up (R519, R520). -/
def State.bootGen (s : State) (best last : Nat) : State :=
  let s := s.put R.LCS_STAT_CFG_GEN best
  if last = best then s
  else if best = 0 then s.raise 0x1005 0xFF
  else (s.putB R.LCS_STAT_CFG_FALLBACK true).raise 0x1004 0xFF

/-- Step 1: fuses, trims, repair map and configuration (R449, R515, R516, R519, R520, R585). -/
def State.bootFuses (s : State) : State :=
  -- status fuses by majority, a third copy burned where two are
  let bits := (List.range 4).map (fun k => (0, k)) ++ (List.range 4).map (fun k => (1, k))
  let s := bits.foldl (fun s b =>
    let n := s.fuseCopies b.1 b.2
    let s := if n = 1 ∨ n = 2 then s.raise 0x1003 0xFF (16 * b.1 + b.2) else s
    if n = 2 then s.burn b.1 b.2 else s) s
  let s := s.put R.LCS_STAT_LC s.fuseState
  let rows := (List.range 25).map (· + 2)
  let s := rows.foldl (fun s r => if s.rowCorrupt r then s.raise 0x1009 0xFF r else s) s
  let repairs := (List.range 9).flatMap (fun i => if s.rowValid (2 + i) then s.otpWords (2 + i) 0 15 else [])
  let s := repairs.foldl (fun s w =>
    if bitOf w.toNat 15 then s.addSat (R.MEM_BANK_STAT_SPARES (bitsOf w.toNat 14 10)) 1 else s) s
  (s.bootGen s.genBest s.genLast).tamperStops

/-- KIND (R537): 0 COLD, 1 WARM, 2 WAKE. A boot that finds ARMED and is not WAKE records fault 0x1108. -/
def State.bootKind (s : State) : State :=
  let rec_ := s.sleepRecord
  let armed := s.isOn R.SYS_SLEEP_STAT_ARMED
  let kind := if !s.isOn R.SYS_SLEEP_STAT_RET_OK then 0
    else if armed && !s.isOn R.SYS_SLEEP_STAT_LOS && !s.isOn R.SYS_SLEEP_STAT_OVF && rec_ then 2 else 1
  let s := (s.put R.SYS_BOOT_STAT_KIND kind).putB R.SYS_BOOT_STAT_REC_OK rec_
  let s := s.putB R.SYS_SLEEP_STAT_RET_OK true
  if armed && kind != 2 then s.raise 0x1108 0xFF else s

/-- Words of the Channel Table whose reset value is not 0, at 0 (R165, R539 step 2). -/
def tableZero : WMap := (List.range 192).flatMap (fun c => [(0x640030 + 64 * c, 0), (0x640033 + 64 * c, 0)])

/-- Step 2: the destructive test leaves every word 0, those of the Channel Table and the Search Job Table too (R165, R438,
R450); banks in `bad` have failed. -/
def State.bootBist (s : State) (bad : List Nat) : State :=
  let keep := if s.get R.SYS_BOOT_STAT_KIND = 0 then [] else wmSlice 0x600000 0x624000 s.mem
  let inKept (a : Nat) : Bool := s.get R.SYS_BOOT_STAT_KIND != 0 && decide (0x600000 ≤ a) && decide (a < 0x624000)
  let s := { s with
    mem := keep, regs := wmReplace 0x640000 0x65C000 s.regs tableZero
    active := wmReplace 0x640000 0x65C000 s.active tableZero
    memSt := { s.memSt with flips := s.memSt.flips.filter (fun e => inKept e.1)
                            writeBack := s.memSt.writeBack.filter inKept }
    engs := s.engs.map (fun g => { g with loc := [], locBad := [], imem := [], dtab := [], ucode := [], ucBad := [] }) }
  bad.foldl (fun s b => (s.putB (R.MEM_BANK_STAT_BAD b) true).raise 0x0C09 0xFF b) s

/-- A Pool bank is BAD (R450). -/
def State.anyBankBad (s : State) : Bool := (List.range 32).any (fun b => s.isOn (R.MEM_BANK_STAT_BAD b))

/-- The boot stops (R542). -/
def State.bootStop (s : State) (fail : Bool) : State :=
  { (if fail then s.putB R.SYS_BOOT_STAT_FAIL true else s) with start := { s.start with phase := .stopped } }

/-- The boot ROM goes on to wait for images from the host: select 0 in raw mode (R543). -/
def State.bootHost (s : State) : State :=
  let s := (s.setRg 0x70F004 (resetWord 0x70F004)).putB (R.HP_SEL_CFG_MODE 0) true
  { s with start := { s.start with phase := .host, hostPos := 0 } }

/-- The flash format of a boot mode whose flash reports no signature (R538): FP_CTRL's DIV and RX_DS, FP_XIP_FMT and the
read opcode. -/
def modeFormat (m : Nat) : Nat × Bool × Nat × Nat :=
  match m with
  | 1 => (5, true, 0xFFF4, 0xEE)
  | 2 => (8, false, 0x01C8, 0x7C)
  | 3 => (40, false, 0x0000, 0x03)
  | _ => (8, false, 0x0008, 0x0B)

/-- Byte `a` of the flash's discovery table. -/
def State.sfdpByte (s : State) (a : Nat) : Nat := (s.flash.sfdp.getD a 0xFF).toNat

/-- The discovery header's signature reads "SFDP" (R479). -/
def State.sfdpSigned (s : State) : Bool := (List.range 4).map s.sfdpByte == [0x53, 0x46, 0x44, 0x50]

/-- Doubleword `n` (from 1) of the basic flash parameter table, which the first parameter header points to; 0 behind its length.
The layout is that of JESD216 (PRESUMED, log entry 138). -/
def State.sfdpDword (s : State) (n : Nat) : Nat :=
  let base := s.sfdpByte 12 + 256 * s.sfdpByte 13 + 65536 * s.sfdpByte 14
  if s.sfdpByte 11 < n then 0
  else (List.range 4).foldl (fun v k => v + s.sfdpByte (base + 4 * (n - 1) + k) * 256 ^ k) 0

/-- The read format and the opcode that the basic table gives: octal DDR where it reports it, else the widest that it reports,
else the fast read on one lane (R479; PRESUMED, log entry 138). -/
def State.sfdpRead (s : State) : Nat × Nat :=
  let d (n hi lo : Nat) : Nat := bitsOf (s.sfdpDword n) hi lo
  let a4 := if d 1 18 17 = 2 then 0x100 else 0
  -- wait states and mode clocks, and the opcode, of a read whose fields start at bit `k` of doubleword `n`
  let fields (fmt n k : Nat) : Nat × Nat := (fmt + a4 + (d n (k + 4) k + d n (k + 7) (k + 5)) % 32, d n (k + 15) (k + 8))
  if 20 ≤ s.sfdpByte 11 ∧ d 20 31 28 ≠ 15 then (0xEFF4 + 0x1000 * b2n (d 18 30 29 == 1), 0xEE)
  else if d 17 15 8 ≠ 0 then fields 0x0CC0 17 0
  else if d 17 31 24 ≠ 0 then fields 0x00C0 17 16
  else if d 1 21 21 = 1 then fields 0x0880 3 0
  else if d 1 22 22 = 1 then fields 0x0080 3 16
  else if d 1 20 20 = 1 then fields 0x0440 4 16
  else if d 1 16 16 = 1 then fields 0x0040 4 0
  else (8 + a4, 0x0B)

/-- Step 5: the flash is reset, its discovery table is read, and the FP registers take what that gives, or, without a
signature and in mode 3, the mode's format (R479, R538). -/
def State.bootFlash (s : State) : State :=
  let (div, ds, fmt, op) := modeFormat s.pwr.bootMode
  let s := ((s.putB R.FP_CTRL_RST_OUT true).put R.FP_CTRL_DIV div).putB R.FP_CTRL_RX_DS ds
  let rd (a n : Nat) : FlashFrame := s.flashFrame 8 0x5A (some a) [] n
  let s := s.flashSend false [s.flashFrame 0 0x66 none [] 0, s.flashFrame 0 0x99 none [] 0]
  if s.pwr.bootMode = 3 ∨ s.sfdpSigned = false then
    let s := if s.pwr.bootMode = 3 then s else s.flashSend true [rd 0 16]
    (s.setRg 0x710004 (BitVec.ofNat 16 fmt)).put R.FP_OPC_0_READ op
  else
    let base := s.sfdpByte 12 + 256 * s.sfdpByte 13 + 65536 * s.sfdpByte 14
    let s := s.flashSend true [rd 0 16, rd base (4 * s.sfdpByte 11)]
    let (fmt, op) := s.sfdpRead
    let s := (s.setRg 0x710004 (BitVec.ofNat 16 fmt)).put R.FP_OPC_0_READ op
    let s := s.putB R.FP_CTRL_RX_DS (ds || decide (0xE000 ≤ fmt))
    let page := bitsOf (s.sfdpDword 11) 7 4
    let s := if 8 ≤ page ∧ page ≤ 12 then s.put R.FP_PAGE_PAGE_LOG2 page else s
    let erase := ([8, 9] : List Nat).flatMap (fun n => [bitsOf (s.sfdpDword n) 15 8, bitsOf (s.sfdpDword n) 31 24])
    { s with flash := { s.flash with erase := erase } }

/-- Steps 5 and 6, once the release of step 4 has been made (R538, R539, R541 to R543). In mode 6 the boot waits there as in
mode 7: the spec gives the production test no effect (log entry 104). -/
def State.bootLoad (s : State) : State :=
  let m := s.pwr.bootMode
  if s.start.phase != .acquire then s
  else if !s.start.modeOk then s.bootStop true
  else if m = 6 ∨ m = 7 then s.bootStop false
  else if m = 4 then s.bootHost
  else
    let (ok, s) := s.bootFlash.tryFlash
    if ok then { s with start := { s.start with phase := .passed } }
    else if m = 5 then s.bootHost
    else s.bootStop true

/-- Input `i`, which matches `f`, is taken, and the synthesiser starts on it (R540). -/
def State.takeRef (s : State) (i f : Nat) : State :=
  let s := (s.setWords (0x70900A + 2 * i) 2 f).put (R.SYN_REF_CFG_MUL i) 0
  (s.put R.SYN_CTRL_PREF i).put R.SYS_BOOT_STAT_REF i

/-- The references are counted (R540): `a` and `b` are edges in 100 µs. -/
def State.refDetect (s : State) (a b : Nat) : State :=
  let fa := refMatch a
  let fb := refMatch b
  let s := if a = 0 then s else s.putB (losFld 0) false
  let s := if b = 0 then s else s.putB (losFld 1) false
  let s := { s with start := { s.start with found := [fa, fb], detectAt := s.clk.age } }
  let input := s.get R.SYS_SLEEP_STAT_INPUT
  let wake := s.get R.SYS_BOOT_STAT_KIND == 2 && s.start.found.getD input 0 != 0
  if fa = 0 ∧ fb = 0 then { (s.raise 0x1109 0xFF) with start := { s.start with phase := .detect } }
  else
    let i := if wake then input else if fa != 0 then 0 else 1
    let s := (s.takeRef i (s.start.found.getD i 0)).putB R.SYN_CTRL_EN true
    { s.synStart with start := { s.start with phase := .acquire } }

/-- BOOT: steps 1 to 3 and reference detection; with `lock` the loop locks and releases at once, and steps 5 and 6
follow, as they do at the release otherwise (R539). -/
def State.boot (s : State) (a b : Nat) (bad : List Nat) (lock : Bool) : State :=
  if s.pwr.stage != .boot || s.start.phase != .none then s
  else
    let s := s.bootFuses.bootKind
    let m := s.pwr.bootMode
    let s := s.put R.SYS_BOOT_STAT_MODE m
    let ok := bitOf (s.cfgWord 7) m && modePermitted m s.lc
    let s := if ok || s.lc == 4 then s else s.raise 0x1104 0xFF m
    let s := { s with start := { s.start with modeOk := ok } }
    let s := (s.bootBist bad).jtagTables
    -- step 3, 44.8 µs on the limp oscillator
    let s := forUp 20 (fun u s => s.powerOn u) (s.elapse 8960)
    let s := s.refDetect a b
    if lock && s.start.phase == .acquire then s.synDeclare.releaseNow.bootLoad else s

/-- REF_DETECT_RETRY (R540): 10 ms after the last count. -/
def State.refRetry (s : State) (a b : Nat) : State :=
  if s.pwr.stage == .boot && s.start.phase == .detect then
    s.dueAt (s.start.detectAt + 10000 * agePerUs) (fun s => s.refDetect a b)
  else s

/-- ACQ_TIMEOUT during boot: the boot ROM moves to the other input if that input matches (R540). -/
def State.bootTimeout (s : State) : State :=
  if s.start.phase != .acquire then s
  else
    let o := 1 - s.synActive
    let f := s.start.found.getD o 0
    if f = 0 then s else (s.takeRef o f).put R.SYN_STAT_ACTIVE o

/-- A record of the host is copied behind the words taken so far, within banks 0 to 29 (R543). -/
def State.hostTake (s : State) (ws : List Word) : State :=
  let fit := ws.take (0x1E0000 - s.start.hostPos)
  let s := s.memPuts (0x100000 + s.start.hostPos) fit
  { s with start := { s.start with hostPos := s.start.hostPos + fit.length } }

/-- HOST_BOOT_IMAGE: once 128 + LENGTH words have arrived the image is checked, and the answer is placed in the outbound
ring (R543). -/
def State.hostBootImage (s : State) : State :=
  let rd := s.memImage 0x100000
  let need := 128 + imageLength rd
  if s.start.phase != .host || decide (s.start.hostPos < 128) || decide (s.start.hostPos < need) then s
  else
    let (c, s) := s.checkImage rd 0x1E0000 (s.allowed 14 0 .image)
    let size := (s.get (R.HP_RAW_OUT_CFG_SIZE 0) + 1) * 1024
    let wr := s.get (R.HP_RAW_OUT_WR_V 0)
    let s := s.memWriteChecked 14 (0x2E0000 + s.get (R.HP_RAW_OUT_CFG_BASE 0) * 1024 + wr % size) (BitVec.ofNat 16 c)
    let s := s.put (R.HP_RAW_OUT_WR_V 0) ((wr + 1) % size)
    let s := { s with start := { s.start with hostPos := 0 } }
    if c = 0 then
      let s := (s.putB R.SYS_BOOT_STAT_HOST true).imageRuns rd
      { s with start := { s.start with phase := .passed } }
    else s.raise 0x1002 0xFF c

/-- Every engine enters the release entry (R346, R553), unless a Pool bank is BAD (R450). -/
def State.releaseEngines (s : State) : State :=
  if s.anyBankBad then s
  else forUp 8 (fun e s => (s.putB (R.SYS_ENG_STAT_HALTED e) false).setEng e (s.eng e).released) s

/-! ### FAULT_N (R565) -/

/-- FLT_FAULTN. -/
def State.faultN (s : State) : Word :=
  let boot := s.pwr.stage != .running
  let mask := (s.rg 0x71200A).toNat + 65536 * ((s.rg 0x71200B).toNat % 2)
  let pend := (s.flt.pend &&& (2 ^ 17 - 1 - mask)) != 0
  let scrap := s.lc == 4 && (s.slc.scrapped || s.pwr.stage != .running)
  let low := boot || s.anyBankBad || scrap || s.flt.noImg || pend
  BitVec.ofNat 16 (b2n low * 32768 + b2n boot * 16384 + b2n s.anyBankBad * 8192 + b2n scrap * 4096
    + b2n s.flt.noImg * 2048 + b2n pend * 1024)

/-! ### Whole-second step (R545) -/

/-- SYS_SECSTEP_CTL.GO. -/
def State.secstep (s : State) : State :=
  if (2 ≤ s.trust ∧ s.trust ≤ 4) ∨ s.isOn R.SYS_SECSTEP_CTL_PEND then s.reject 0x700072
  else
    { (s.putB R.SYS_SECSTEP_CTL_PEND true) with tb := { s.tb with
        sec := signedOf 48 (s.getW ⟨0x700073, 3⟩), secAt := s.clk.age } }

/-! ### Hitless update (R551 to R556) -/

/-- SYS_UPD_STAT.STATE: 0 IDLE, 1 VERIFYING, 2 VERIFIED, 3 ARMED, 4 SWITCHING, 5 FAILED. -/
def State.updState (s : State) : Nat := s.get R.SYS_UPD_STAT_STATE

/-- A command is ignored. -/
def State.updIgnore (s : State) : State := s.putB R.SYS_UPD_STAT_CMD_IGN true

/-- VERIFY by master `m`: the staged span is frozen from the write (R551). -/
def State.updVerify (s : State) (m : Nat) : State :=
  if s.isOn R.SYS_SLEEP_STAT_ARMED || !(s.updState == 0 || s.updState == 2 || s.updState == 5) then s.updIgnore
  else
    let base := s.getW ⟨0x700078, 2⟩ % 2 ^ 24
    let n := min (128 + imageLength (s.memImage base)) 0x1E0000
    { ((s.put R.SYS_UPD_STAT_STATE 1).put R.SYS_UPD_STAT_CHECK 0) with
      start := { s.start with master := m, frozen := some (base, n) } }

/-- UPD_VERIFY_DONE: the checks of R524 on the staged image, as far as banks 0 to 29 reach. -/
def State.updVerifyDone (s : State) : State :=
  match s.updState, s.start.frozen with
  | 1, some (base, n) =>
    let rd := s.memImage base
    let room := if 0x100000 ≤ base ∧ base < 0x2E0000 then 0x2E0000 - base else 0
    let x := (List.range 30).all (fun b =>
      decide (0x100000 + b * 0x10000 + 0x10000 ≤ base) || decide (base + n ≤ 0x100000 + b * 0x10000)
        || s.allowed s.start.master b .image)
    match (s.checkImage rd room x).1 with
    | 0 => s.put R.SYS_UPD_STAT_STATE 2
    | c => ((s.put R.SYS_UPD_STAT_STATE 5).put R.SYS_UPD_STAT_CHECK c).raise 0x1002 2 c
  | _, _ => s

/-- SWITCH (R552). -/
def State.updSwitch (s : State) : State :=
  let d := (s.get R.SYS_UPD_TICK_V + 65536 - s.clk.tickCount % 65536) % 65536
  if s.updState = 2 ∧ 2 ≤ d ∧ d ≤ 32767 ∧ !s.isOn R.SYS_SLEEP_STAT_ARMED then s.put R.SYS_UPD_STAT_STATE 3
  else s.updIgnore

/-- CANCEL (R552). -/
def State.updCancel (s : State) : State :=
  let st := s.updState
  if (st = 1 ∨ st = 2 ∨ st = 3 ∨ st = 5) ∧ !s.isOn R.SYS_SLEEP_STAT_ARMED then
    { (s.put R.SYS_UPD_STAT_STATE 0) with start := { s.start with frozen := none } }
  else s.updIgnore

/-- SYS_UPD_CMD holding `c`, by master `m`. -/
def State.updCmd (s : State) (m c : Nat) : State :=
  match c with
  | 1 => s.updVerify m
  | 2 => s.updSwitch
  | _ => s.updCancel

/-- SWITCH_EDGE: step 2 of R553, at the edge that SYS_UPD_TICK names. -/
def State.switchEdge (s : State) : State :=
  if s.updState != 3 || s.clk.tickCount % 65536 != s.get R.SYS_UPD_TICK_V || !s.atEdge then s
  else
    let s := s.put R.SYS_UPD_STAT_STATE 4
    let gap := (List.range 240).filter (fun t => s.isLoop t && s.runnable t)
    let s := forUp 8 (fun e s =>
      let s := (s.runEnds e 2).stopEngine e
      s.setEng e { s.eng e with queue := [] }) s
    let s := ((s.pcoastStart (s.get R.SYS_UPD_CFG_COAST) true).setEff).tbShow
    let s := forUp 240 (fun t s => s.putBoth (R.TASK_EN t) 0) s
    { s with plc := { s.plc with gap := gap }, start := { s.start with
        ticks := 0, switchAt := s.clk.total, copied := false, reloaded := false } }

/-- The write buffers are empty. -/
def State.drained (s : State) : Bool := s.engs.all (fun g => g.wbuf.isEmpty)

/-- The copy has failed: an image is loaded from flash if one passes (R555). -/
def State.copyFail (s : State) : State :=
  let s := ((s.put R.SYS_UPD_STAT_STATE 5).put R.SYS_UPD_STAT_CHECK 9).raise 0x1107 0xFF
  let m := s.pwr.bootMode
  let (ok, s) := if m = 4 then (false, s) else s.bootFlash.tryFlash
  if ok then { s with start := { s.start with copied := true, reloaded := true } }
  else
    let s := if s.isOn R.TB_STAT_PCOAST then s.coastUnplanned else s
    { s with flt := { s.flt with noImg := true } }

/-- UPD_COPY: steps 3 and 4 of R553, of one clock for each word of the body; `bad`: an uncorrectable word was read. -/
def State.updCopy (s : State) (bad : Bool) : State :=
  match s.updState, s.start.frozen with
  | 4, some (base, _) =>
    if !s.drained || s.start.copied then s
    else s.dueClock (s.start.switchAt + imageLength (s.memImage base)) (fun s =>
      let s := forUp 8 (fun e s => s.homeAll e) s
      let rd := s.memImage base
      let fails := bad || !bodyGood rd || s.memSt.flips.any (fun f =>
        base ≤ f.1 && f.1 < base + 128 + imageLength rd && (f.2.poison || 1 < f.2.bits))
      if fails then s.copyFail
      else
        let s := s.loadSections rd ((imageSections rd).getD [])
        let s := s.imageRuns rd
        { s with start := { s.start with copied := true } })
  | _, _ => s

/-- Hitless update at a tick edge (R553 step 5, R555). -/
def State.updTick (s : State) : State :=
  let s := { s with start := { s.start with frozenSeen := false } }
  if s.start.copied then
    let s := if s.start.reloaded then s.putB R.SYS_UPD_STAT_RECOVERED true
      else { (s.put R.SYS_UPD_STAT_STATE 0) with start := { s.start with frozen := none } }
    let s := (s.put R.SYS_UPD_STAT_SW_TICKS (min 7 (s.start.ticks + 1))).releaseEngines
    { s with start := { s.start with copied := false, reloaded := false } }
  else if s.updState = 4 then { s with start := { s.start with ticks := s.start.ticks + 1 } }
  else s

end Sys2Proof.Machine
end

