-- ==== Sys2Proof/Machine/Bus.lean ====
section
/-!
DEFINITION. The interconnect: one read or one write of one global word address by one master, as every master's accesses
are performed (spec/00_scope.md R9 to R18; spec/01_architecture_and_tick.md R37 to R42; spec/14_memory_system.md R454 to
R458; semaphores: spec/11_tabile_programming_model.md R357), with the effect that each register's own description gives.
-/

namespace Sys2Proof.Machine

/-! ### Fault block registers (R561 to R567) -/

/-- What a read of a register of the FLT block gives. -/
def State.fltView (s : State) (a : Nat) (w : Word) : Word :=
  let f := s.flt
  if a = 0x712003 then BitVec.ofNat 16 (b2n f.ovf * 0x8000 + f.depth * 0x100 + f.rd)
  else if a = 0x712005 then BitVec.ofNat 16 f.seq
  else if a = 0x712006 then BitVec.ofNat 16 f.lostCnt
  else if a = 0x712008 then BitVec.ofNat 16 f.pend
  else if a = 0x712009 then BitVec.ofNat 16 (f.pend / 65536)
  else if a = 0x71200C then BitVec.ofNat 16 f.lost
  else if a = 0x71200D then BitVec.ofNat 16 (f.lost / 65536)
  else if a = 0x71200E then s.faultN
  else w

/-- The words of the fault ring (R562, R567). -/
def State.ringWord (s : State) (a : Nat) : Word :=
  if 0x712400 ≤ a ∧ a < 0x712640 then wmGet 0 s.flt.ring a else 0

/-- FLT_POP holding `n` (R562, R563). -/
def State.fltPop (s : State) (n : Nat) : State :=
  if n = 0 ∨ s.flt.depth < n then s.reject 0x712004
  else { s with flt := { s.flt with rd := (s.flt.rd + n) % 64, depth := s.flt.depth - n } }

/-- FLT_SW_GO at 1 by master `m` (R564). -/
def State.fltSwGo (s : State) (m : Nat) : State :=
  if s.get R.FLT_SW_0_CODE < 0x80 then s.reject 0x712013
  else s.raise (0x0900 + s.get R.FLT_SW_0_CODE) (s.get R.FLT_SW_0_UNIT) (s.getW ⟨0x712011, 2⟩) (some m)

/-- The bits of `x` that are 1 in `v` are cleared. -/
def clearBits (x v : Nat) : Nat := x - (x &&& v)

/-- A write of `v` to FLT_PEND, word `i` (R565). -/
def State.fltPendClear (s : State) (i v : Nat) : State :=
  { s with flt := { s.flt with pend := clearBits s.flt.pend (v % 65536 * 65536 ^ i) } }

/-- A write of `v` to FLT_LOST, word `i`. -/
def State.fltLostClear (s : State) (i v : Nat) : State :=
  { s with flt := { s.flt with lost := clearBits s.flt.lost (v % 65536 * 65536 ^ i) } }

/-! ### Host port outputs -/

/-- Select `n`'s outbound ring holds words (R472, R476). -/
def State.outHolds (s : State) (n : Nat) : Bool := s.get (R.HP_RAW_OUT_WR_V n) != s.get (R.HP_RAW_OUT_RD_V n)

/-- HP_ATTN is driven low (R476). -/
def State.attnLow (s : State) : Bool :=
  s.pwr.stage == .running && (s.isOn R.HP_ATTN_CTRL_ASSERT
    || (s.isOn R.HP_ATTN_CTRL_AUTO_OUT_0 && s.outHolds 0) || (s.isOn R.HP_ATTN_CTRL_AUTO_OUT_1 && s.outHolds 1))

/-! ### What a register reads -/

/-- Read-back of the decode table and the microcode store (R394, R395): the word, and whether it fails parity. -/
def State.ucSelected (s : State) (k : Nat) : Word × Bool :=
  let g := s.eng (s.get R.SYS_UC_ADDR_ENG)
  let n := s.get R.SYS_UC_ADDR_ADDR
  if s.isOn R.SYS_UC_ADDR_TABLE then
    (if 64 ≤ n then (0, false) else (if k = 0 then wmGet 0 g.dtab n else 0, g.ucBad.contains n))
  else (wmGet 0 g.ucode (3 * n + k), g.ucBad.contains (64 + n))

/-- What a read of a SYS register gives. -/
def State.sysView (s : State) (a : Nat) (w : Word) : Word :=
  if a = 0x700010 then BitVec.ofNat 16 s.clk.tickCount
  else if a = 0x700011 then BitVec.ofNat 16 (s.clk.tickCount / 65536)
  else if a = 0x700012 then BitVec.ofNat 16 (s.clk.phase / 16 % 32768)
  else if a = 0x700013 then putBits w 15 15 (b2n (s.clk.running && s.clk.limp))
  else if 0x700028 ≤ a ∧ a < 0x700030 then s.engView (a - 0x700028) w
  else if a = 0x700060 then putBits w 12 12 (b2n (s.ucSelected 0).2)
  else if 0x700061 ≤ a ∧ a < 0x700064 then (s.ucSelected (a - 0x700061)).1
  else w

/-- What a read of the register at `a` gives, but for the registers whose reading acts (R30, R357, R584). -/
def State.regView (s : State) (a : Nat) : Word :=
  let w := s.rg a
  match a / 0x1000 with
  | 0x700 => s.sysView a w
  | 0x701 => s.lcsView a w
  | 0x704 => s.dfeReadView a w
  | 0x705 => if 0x705010 ≤ a ∧ a < 0x70502C then s.chView a else w
  | 0x706 => s.srchView a w
  | 0x707 => if 0x707004 ≤ a ∧ a < 0x70700A then s.stamp.getD (a - 0x707004) 0 else w
  | 0x709 => s.synView a w
  | 0x70A => s.slcView a w
  | 0x70F => if a = 0x70F00E then putBits w 0 0 (b2n s.attnLow) else w
  | 0x710 => if a = 0x71000D then s.flashView w else w
  | 0x711 => if a = 0x71102A then putBits w 15 15 (b2n s.cflBusy) else w
  | 0x712 => s.fltView a w
  | 0x713 => if a = 0x713004 then s.evtView w else w
  | _ => w

/-- Write-only fields read 0 (R11). -/
def RegGroup.readMask (g : RegGroup) : Nat := g.maskOf (fun f => f.ty != .wo)

/-- The live word that a read of the register at `a` gives; a word of the fault ring, or 0 where there is no register
(R40, R567). -/
def State.liveRead (s : State) (a : Nat) : Word :=
  match regAt a with
  | none => s.ringWord a
  | some (g, _) => BitVec.ofNat 16 ((s.regView a).toNat &&& g.readMask)

/-- What a read of the word at `a` of the Channel Table gives: bits that the channel's GEN makes reserved read 0 (R16, R166). -/
def State.tableWord (s : State) (a : Nat) : Word :=
  s.rg a &&& BitVec.ofNat 16 (s.genMask ((a - 0x640000) / 0x40) (a % 0x40))

/-! ### Reads that act -/

/-- The higher words that a read of `a` holds for its master (R37, R167, R229): how many follow it. -/
def heldAfter (a : Nat) : Nat :=
  if a = 0x700010 ∨ a = 0x706005 ∨ a = 0x707014 ∨ a = 0x70901A ∨ a = 0x70901C then 1
  else if a = 0x70008F ∨ a = 0x706008 ∨ a = 0x707016 ∨ a = 0x70D005 ∨ a = 0x70D00C ∨ a = 0x71100A then 2
  else if a = 0x70E004 then 3
  else if a = 0x705008 ∨ a = 0x707004 ∨ a = 0x711021 then 5
  else 0

/-- Master `m`'s shadow of the register at `a`, if it holds one. -/
def State.shadowOf (s : State) (m a : Nat) : Option Word :=
  (s.shadow.find? (fun e => e.1 == m && e.2.1 == a)).map (·.2.2)

/-- Refreshes master `m`'s shadow of the `n` registers after `a` (R37). -/
def State.holdWords (s : State) (m a n : Nat) : State :=
  { s with
    memSt := if a = 0x70E004 then { s.memSt with violTaken := s.memSt.violTaken.filter (· != m) } else s.memSt
    shadow := s.shadow.filter (fun e => !(e.1 == m && a < e.2.1 && e.2.1 ≤ a + n))
      ++ (List.range n).map (fun k => (m, a + 1 + k, s.liveRead (a + 1 + k))) }

/-- The bits of the register at `a` that its read clears (R11); the count in ACC_VIOL_3 is cleared by its read. -/
def clearedBy (a : Nat) : Nat :=
  if a = 0x70E007 then 65535
  else match regAt a with
    | some (g, _) => g.maskOf (fun f => f.ty == .rc)
    | none => 0

/-- The RC fields of `g` in a word that now holds `now`, after a read has returned `got`: each count is reduced by what the
read returned, floored at 0 (R468). -/
def rcLess (g : List RegField) (now got : Nat) : Nat :=
  g.foldl (fun w f =>
    if f.ty == .rc then
      w - bitsOf w f.hi f.lo * 2 ^ f.lo + (bitsOf w f.hi f.lo - bitsOf got f.hi f.lo) * 2 ^ f.lo
    else w) now

/-- A read of word 3 of ACC_VIOL by master `m` clears the violations it returned; a repeated read of one shadow clears
nothing more (R37, R458). -/
def State.violReduce (s : State) (m got : Nat) : State :=
  if (s.shadowOf m 0x70E007).isNone then s.setRg 0x70E007 (BitVec.ofNat 16 ((s.rg 0x70E007).toNat - got))
  else if s.memSt.violTaken.contains m then s
  else
    let s := s.setRg 0x70E007 (BitVec.ofNat 16 ((s.rg 0x70E007).toNat - got))
    { s with memSt := { s.memSt with violTaken := m :: s.memSt.violTaken } }

/-- The RC fields of the register at `a` are reduced by what a read by master `m` returned. -/
def State.rcReduce (s : State) (m a got : Nat) : State :=
  if a = 0x712006 then { s with flt := { s.flt with lostCnt := s.flt.lostCnt - got } }
  else if a = 0x70E007 then s.violReduce m got
  else match regAt a with
    | some (g, _) => s.setRg a (BitVec.ofNat 16 (rcLess g.fields (s.rg a).toNat got))
    | none => s

/-- The effect of a read of `w` on the RC fields of the register at `a`: at once, or noted until the host frame ends
(R12, R468). -/
def State.readClears (s : State) (m a : Nat) (w : Word) : State :=
  if clearedBy a = 0 then s
  else if m = 10 ∧ s.host.open_ then { s with host := { s.host with rc := s.host.rc ++ [(a, w.toNat)] } }
  else s.rcReduce m a w.toNat

/-- A read of semaphore `n` by master `m` (R357). -/
def State.semRead (s : State) (m n : Nat) : Word × State :=
  if s.isOn (R.SYS_SEM_HELD n) then (BitVec.ofNat 16 (0x4000 + s.get (R.SYS_SEM_OWNER n)), s)
  else
    let s := (s.putB (R.SYS_SEM_HELD n) true).put (R.SYS_SEM_OWNER n) m
    let s := if m = 10 ∧ s.host.open_ then { s with host := { s.host with claims := s.host.claims ++ [n] } } else s
    (BitVec.ofNat 16 (0xC000 + m), s)

/-- A write of 1 to bit 15 of semaphore `n` by master `m` (R357). -/
def State.semRelease (s : State) (m n : Nat) : State :=
  if s.isOn (R.SYS_SEM_HELD n) && s.get (R.SYS_SEM_OWNER n) == m then
    (s.putB (R.SYS_SEM_HELD n) false).put (R.SYS_SEM_OWNER n) 0
  else s

/-- A read of the register at `a` by master `m`, past the access tables. -/
def State.regRead (s : State) (m a : Nat) : Word × State :=
  if 0x700040 ≤ a ∧ a < 0x700060 then s.semRead m (a - 0x700040)
  else if a = 0x713008 then s.evtRead0 m
  else if 0x713009 ≤ a ∧ a < 0x713010 then (s.evtReadN m (a - 0x713008), s)
  else
    let w := (s.shadowOf m a).getD (s.liveRead a)
    let n := heldAfter a
    let s := if n = 0 then s else s.holdWords m a n
    (w, s.readClears m a w)

/-- A read of the word at `a` by master `m`; `none`: the read waits for the flash port. In reset nothing is read. -/
def State.busRead? (s : State) (m a : Nat) : Option (Word × State) :=
  if !s.live then some (0, s)
  else match (regionOf a).target with
  | none => some (0, s.reservedHit m a)
  | some t =>
    if !s.allowed m t .read then some (0, s.violation m a t .read)
    else match regionOf a with
      | .channelTable => some (s.tableWord a, s)
      | .jobTable => some (s.rg a, s)
      | .block _ => some (s.regRead m a)
      | .flash => s.windowRead (a - 0x800000)
      | _ => some (s.memReadAs m a)

/-- A read of the word at `a` by master `m`, where the flash port makes no read wait. -/
def State.busRead (s : State) (m a : Nat) : Word × State := (s.busRead? m a).getD (0, s)

/-! ### Writes of registers -/

/-- What only some commands bring of the effect of a write: a command frame's bytes and changes (R487), a phase error
(R285). -/
structure WriteExt where
  frame : FlashCmd := {}
  j : Option Int := none
  deriving DecidableEq, Repr

/-- The phase error that a switch measures; the spec states none, so without a measured one the value is open. -/
def State.openJ (s : State) (x : WriteExt) : Int × State :=
  match x.j with
  | some j => (j, s)
  | none => (signedOf 32 (Config.freeValue s.free), { s with free := s.free + 1 })

/-- The owning unit of the S-class fields that a write of `v` to the register at `a` changes is stopped (R13): synthesiser inputs and outputs (R294),
tasks (R417), the flash port, the Confluence ring. A select of the host port is high whenever a command is taken, since a
frame is one command (R475). -/
def State.ownerStopped (s : State) (a v : Nat) : Bool :=
  match a / 0x1000 with
  | 0x709 => s.synStopped a v
  | 0x70B =>
    let t := (a - 0x70B800) / 128 * 15 + ((a - 0x70B800) % 128 - 8) / 8
    s.act (R.TASK_EN t) == 0 && (s.runsOn t).isNone
  | 0x710 => !s.isOn R.FP_CTRL_XIP_EN && !s.flashBusy
  | 0x711 => a != 0x71102B || !s.isOn R.CFL_RX_CFG_EN
  | _ => true

/-- The fields that must agree do agree after a write of `v` to the register at `a` (R14, R17, R256, R466). -/
def State.agrees (s : State) (a v : Nat) : Bool :=
  let ring := decide (bitsOf v 15 9 + bitsOf v 8 3 + 1 ≤ 128)
  let ptr (n : Nat) (cfg : Fld) : Bool := decide (v < (s.get ⟨cfg.gwa + n, 8, 3⟩ + 1) * 1024)
  if 0x708008 ≤ a ∧ a < 0x70800C then
    let c := bitsOf v 9 0
    decide (1 ≤ c) && decide (c ≤ 1000) && (bitOf v 15 || 1000 % c == 0)
  else if a / 0x1000 = 0x709 then s.synAgrees a v
  else if a = 0x70F004 ∨ a = 0x70F005 then decide ((if bitsOf v 13 12 = 0 then 1 else 2) ≤ bitsOf v 7 4)
  else if 0x70F010 ≤ a ∧ a < 0x70F014 then ring
  else if a = 0x70F016 ∨ a = 0x70F017 then ptr (a - 0x70F016) ⟨0x70F010, 8, 3⟩
  else if a = 0x70F018 ∨ a = 0x70F019 then ptr (a - 0x70F018) ⟨0x70F012, 8, 3⟩
  else if a = 0x71000B then v % 2 == 0
  else if a = 0x71102B then ring
  else true

/-- A write of the register at `a` is dropped without a rejection. -/
def State.droppedWrite (s : State) (a : Nat) : Bool :=
  match a / 0x1000 with
  | 0x700 => (a = 0x700078 || a = 0x700079) && !([0, 2, 5].contains s.updState)
  | 0x701 => 0x701010 ≤ a && a < 0x70101F && s.isOn R.LCS_OTP_STAT_BUSY
  | 0x702 => 0x702030 ≤ a && a < 0x702046 && !s.isOn R.FE_CAL_CFG_COEF_SRC
  | 0x710 => 0x710081 ≤ a && a < 0x7100C1 && (s.flash.cmd.isSome || s.flash.cmdWait)
  | _ => false

/-- A write to a locked entry of the access tables (R457), if the register at `a` is one: the target. -/
def State.lockedEntry (s : State) (a : Nat) : Option Nat :=
  let t := (a - 0x70E001) % 128
  if 0x70E081 ≤ a ∧ a ≤ 0x70E1C0 ∧ t < 64 ∧ bitOf (s.rg (0x70E010 + t / 16)).toNat (t % 16) then some t else none

/-- The effect of an accepted write of `v` to a SYS register, beyond storing it. -/
def State.sysWrite (s : State) (m a v : Nat) : State :=
  if 0x700020 ≤ a ∧ a < 0x700028 then
    let s := if bitOf v 15 then s.restart (a - 0x700020) else s
    if bitOf v 14 && !(m == 15 && s.jtagNone) then s.raiseBrk (a - 0x700020) else s
  else if a = 0x700070 then (if bitOf v 15 then s.sysReset m else s)
  else if a = 0x700072 then (if bitOf v 15 then s.secstep else s)
  else if a = 0x700076 then s.updCmd m (v / 16384)
  else if a = 0x700081 then
    let s := if bitOf v 15 then s.sleepArm else s
    if bitOf v 14 then s.sleepSnap else s
  else s

/-- The effect of an accepted write of `v` to an LCS register, beyond storing it. -/
def State.lcsWrite (s : State) (m a v : Nat) : State :=
  if a = 0x701004 then s.lcRequest m (v % 8)
  else if a = 0x701005 then (if bitOf v 15 then s.keysOk else s)
  else if a = 0x701009 then (if bitOf v 15 then s.otpProgram (v % 128) else s)
  else if a = 0x701020 then s.keyRevoke (v % 4)
  else if a = 0x701021 then s.cryptoCmd m (v / 8192)
  else s

/-- The effect of an accepted write of `v` to a TB register, beyond storing it. -/
def State.tbWrite (s : State) (a v : Nat) : State :=
  if a = 0x707003 then
    let s := if bitOf v 11 then s.approve (bitOf v 10) else s
    if v % 32 = 0 then s else s.plannedCoast (v % 32)
  else if a = 0x70700F then s.tbDisc v
  else s

/-- The effect of an accepted write of `v` to a SYN register, beyond storing it. -/
def State.synWrite (s : State) (a v old : Nat) (x : WriteExt) : State :=
  if a = 0x709004 then
    let s := if bitOf v 15 then (let (j, s) := s.openJ x; s.synSwitch j) else s
    if bitOf v 14 then s.alignNow else s
  else if 0x709008 ≤ a ∧ a < 0x70900A then (if bitOf v 13 && !bitOf old 13 then s.valStart (a - 0x709008) else s)
  else if 0x709040 ≤ a ∧ a < 0x70904E then s.outsFollow
  else if a = 0x709024 then (if bitOf v 15 && !bitOf old 15 then s.rampStart else s)
  else s

/-- The effect of an accepted write of `v` over `old` to the register at `a`, beyond storing it. -/
def State.writeEffect (s : State) (m a v old : Nat) (x : WriteExt) : State :=
  match a / 0x1000 with
  | 0x700 => s.sysWrite m a v
  | 0x701 => s.lcsWrite m a v
  | 0x702 => feOnWrite a v old s
  | 0x704 => dfeOnWrite a v old s
  | 0x705 => if a = 0x705004 then s.chCmd (v / 8192) (v % 256) else s
  | 0x706 => if a = 0x70600D then s.srchAbort (v % 8192) else s
  | 0x707 => s.tbWrite a v
  | 0x709 => s.synWrite a v old x
  | 0x70A => if a = 0x70A005 then s.slcCmd v else s
  | 0x70D => memOnWrite a v s
  | 0x710 =>
    if a = 0x710003 then s.fpCtrlAfter old
    else if a = 0x71000E then (if bitOf v 15 then s.flashFlush else s)
    else s
  | 0x711 =>
    if a = 0x711020 then s.ppsEnable (bitOf old 15)
    else if a = 0x711028 then (if bitOf v 15 then s.userTx else s)
    else s
  | 0x712 =>
    if a = 0x712003 then (if bitOf v 15 then { s with flt := { s.flt with ovf := false } } else s)
    else if a = 0x712004 then s.fltPop (v % 128)
    else if a = 0x712008 ∨ a = 0x712009 then s.fltPendClear (a - 0x712008) v
    else if a = 0x71200C ∨ a = 0x71200D then s.fltLostClear (a - 0x71200C) v
    else if a = 0x712013 then (if bitOf v 15 then s.fltSwGo m else s)
    else s
  | _ => s

/-- A write of 1 to the COMMIT bit at `a` (R30). -/
def State.commitWrite (s : State) (a v : Nat) : State :=
  if v % 2 = 0 then s else if a = 0x705001 then s.chCommit else s.commit (a / 0x1000)

/-- Whether `a` is a COMMIT register. -/
def isCommit (a : Nat) : Bool := a % 0x1000 == 1 && commitPages.contains (a / 0x1000)

/-- A write that its register accepts: the word is stored, and acts. The registers whose own operation stores come
first. -/
def State.regTake (s : State) (m a v : Nat) (x : WriteExt) : State :=
  if isCommit a then s.commitWrite a v
  else if a = 0x701006 then s.tamperStatWrite v
  else if a = 0x706012 then s.resRd v
  else if 0x70700A ≤ a ∧ a < 0x70700F then s.tbHold a v
  else if a = 0x709003 then
    (if s.prefSwitch v then (let (j, s) := s.openJ x; s.synCtrl m v j) else s.synCtrl m v 0)
  else if a = 0x709019 then s.fstepArm v
  else if a = 0x711003 then s.cflCtrl m v
  else if a = 0x710010 then s.fpCmdCtrl v x.frame
  else if 0x70E010 ≤ a ∧ a < 0x70E014 then s.setRg a (BitVec.ofNat 16 ((s.rg a).toNat ||| v))
  else
    let old := (s.rg a).toNat
    (s.store a (s.dfeStoreView a old v)).writeEffect m a v old x

/-- A write of `v` to the register at `a` by master `m`, past the access tables (R11 to R17, R40). A write with a value that one
of its fields does not accept is rejected whole, where the field would ignore it too: DFE_REQ in AUTO with GAIN 0 (R121; DESIGN
CHOICE, log entry 139). -/
def State.regWrite (s : State) (m a v : Nat) (x : WriteExt) : State :=
  if 0x700040 ≤ a ∧ a < 0x700060 then (if bitOf v 15 then s.semRelease m (a - 0x700040) else s)
  else match regAt a with
  | none => s
  | some (g, _) =>
    match s.lockedEntry a with
    | some t => (s.putB R.ACC_CFG_REJ_LOCK_W true).raise 0x0C0B t a (some m)
    | none =>
      if !g.writable || s.droppedWrite a then s
      else if !g.accepts v then s.reject a
      else if a != 0x711003 && g.changesStopped (s.rg a).toNat v && !s.ownerStopped a v then s.reject a
      else if !s.agrees a v then s.reject a
      else s.regTake m a v x

/-- A write of `v` to the word at `a` by master `m`; `false`: the write waits for the flash port. In reset nothing is
written. -/
def State.busOffer (s : State) (m a : Nat) (v : Word) (x : WriteExt) : Bool × State :=
  if !s.live then (true, s)
  else match (regionOf a).target with
  | none => (true, s.reservedHit m a)
  | some t =>
    if !s.allowed m t .write then (true, s.violation m a t .write)
    else match regionOf a with
      | .channelTable => (true, s.descStore ((a - 0x640000) / 0x40) (a % 0x40) v.toNat)
      | .jobTable => (true, s.jobWrite m ((a - 0x650000) / 8) (a % 8) v.toNat)
      | .block _ => (true, s.regWrite m a v.toNat x)
      | .flash => s.windowWrite m (a - 0x800000) v
      | _ => (true, s.memWriteAs m a v)

/-- A write of `v` to the word at `a` by master `m` is performed. -/
def State.busPut (s : State) (m a : Nat) (v : Word) (x : WriteExt := {}) : State := (s.busOffer m a v x).2

end Sys2Proof.Machine
end

