-- ==== Sys2Proof/Machine/EngineMem.lean ====
section
/-!
DEFINITION. Memory from a Tabile engine's side: local words, global reads and their stalls, and the write buffer
(spec/11_tabile_programming_model.md R331 to R336).
-/

namespace Sys2Proof.Machine

/-! ### The write buffer (R334, R335) -/

/-- The oldest entry of engine `e`'s write buffer is performed; `none`: it waits for the flash port. -/
def State.drainOne (s : State) (e : Nat) : Option State :=
  match (s.eng e).wbuf with
  | [] => some s
  | (a, v) :: t =>
    let (ok, s) := s.busOffer e a v {}
    if ok then some (s.setEng e { s.eng e with wbuf := t }) else none

/-- Entries of engine `e`'s write buffer are performed while `p` holds of it, at most `n` of them. -/
def State.drainWhile (s : State) (e : Nat) (p : List (Nat × Word) → Bool) : Nat → Option State
  | 0 => some s
  | n + 1 =>
    if p (s.eng e).wbuf then
      match s.drainOne e with
      | some s => s.drainWhile e p n
      | none => none
    else some s

/-- Entries of a write buffer (R316). -/
def bufferSize : Nat := 8

/-- The whole write buffer of engine `e` is performed, as far as the flash port lets it. -/
def State.drainAll (s : State) (e : Nat) : State :=
  (List.range bufferSize).foldl (fun s _ => (s.drainOne e).getD s) s

/-- The word at `a` lies in a register block. -/
def inBlock (a : Nat) : Bool := match regionOf a with | .block _ => true | _ => false

/-- A global read of `a` waits while the buffer `b` holds a write to it, or, in a register block, to any register block
(R43, R44, R334). -/
def readBlocked (a : Nat) (b : List (Nat × Word)) : Bool :=
  if inBlock a then b.any (fun e => inBlock e.1) else b.any (fun e => e.1 == a)

/-! ### Accesses of a master outside its instructions -/

/-- What the buffer of engine `m` holds that an access to `a` may not pass has been performed (R43, R44); `none`: it waits for the
flash port. -/
def State.ordered (s : State) (m a : Nat) : Option State :=
  if m < 8 then s.drainWhile m (readBlocked a) (s.eng m).wbuf.length else some s

/-- A write of `v` to the word at `a` by master `m`, after its earlier ones (R43, R44). -/
def State.busWrite (s : State) (m a : Nat) (v : Word) (x : WriteExt := {}) : State :=
  match s.ordered m a with
  | some s => s.busPut m a v x
  | none => s.setEng m { s.eng m with wbuf := (s.eng m).wbuf ++ [(a, v)] }

/-! ### Reads and writes -/

/-- Stall cycles of a global read when target and interconnect are idle (R333). A fetch from flash takes what the port
takes, beyond this. -/
def readStall (a : Nat) : Nat :=
  match regionOf a with
  | .pool _ => 10
  | .channelTable | .jobTable | .codeStore | .capture => 12
  | .block _ => 14
  | .backwater | .secure => 16
  | .flash => 20
  | _ => 0

/-- What reads give: the words, the state and the stall; a local word that fails parity; or a wait. -/
inductive Got where
  | words (ws : List Word) (s : State) (stall : Nat)
  | par
  | wait

/-- Reads of engine `e`, in order (R331 to R336). -/
def State.engReads (s : State) (e : Nat) : List Nat → Got
  | [] => .words [] s 0
  | a :: t =>
    if a < 0x8000 then
      if (s.eng e).locBad.contains a then .par
      else match s.engReads e t with
        | .words ws s n => .words (wmGet 0 (s.eng e).loc a :: ws) s n
        | g => g
    else match s.drainWhile e (readBlocked a) bufferSize with
      | none => .wait
      | some s =>
        match s.busRead? e a with
        | none => .wait
        | some (w, s) =>
          match s.engReads e t with
          | .words ws s n => .words (w :: ws) s (n + readStall a)
          | g => g

/-- A write of engine `e` (R332, R334); `none`: the full buffer waits for the flash port. -/
def State.engWrite (s : State) (e a : Nat) (v : Word) : Option State :=
  if a < 0x8000 then
    let g := s.eng e
    some (s.setEng e { g with loc := wmPut 0 a v g.loc, locBad := g.locBad.filter (fun b => b != a) })
  else match s.drainWhile e (fun b => decide (bufferSize ≤ b.length)) 1 with
    | none => none
    | some s => some (s.setEng e { s.eng e with wbuf := (s.eng e).wbuf ++ [(a, v)] })

/-- Local-memory slots that accesses to `l` use (R318). -/
def slotsUsed (l : List Nat) : Nat := min 2 (l.countP (fun a => a < 0x8000))

/-- Stored words go wrong as `u` says: a local word of engine `e` then fails parity (R332), others take the bits in
error. -/
def State.engUpsets (s : State) (e : Nat) (u : List Upset) : State :=
  let bad := u.filter (fun x => x.gwa.toNat < 0x8000)
  let s := s.upsets (u.filter (fun x => !(x.gwa.toNat < 0x8000)))
  bad.foldl (fun s x =>
    let a := x.gwa.toNat
    let g := s.eng e
    s.setEng e { g with loc := wmPut 0 a (wmGet 0 g.loc a ^^^ x.data) g.loc
                        locBad := if g.locBad.contains a then g.locBad else g.locBad ++ [a] }) s

end Sys2Proof.Machine
end

