-- ==== Sys2Proof/Machine/Host.lean ====
section
/-!
DEFINITION. Frames of the host port (spec/15_host_and_flash_ports.md R460 to R475), one command each: what the frame reads
and writes, its causes of rejection, and what its end settles.
-/

namespace Sys2Proof.Machine

/-- Why a frame is rejected; the codes of CAUSE (R473). -/
inductive Cause where
  | part | long | short | crc | both | full | ctrl
  deriving DecidableEq, Repr

/-- CAUSE as HP_REJ_INFO gives it. -/
def Cause.code : Cause → Nat
  | .part => 1 | .long => 2 | .short => 3 | .crc => 4 | .both => 5 | .full => 6 | .ctrl => 7

/-- The first cause that applies, in the order of R473. -/
def firstCause (both ctrl full long short part crc : Bool) : Option Cause :=
  if both then some .both else if ctrl then some .ctrl else if full then some .full else if long then some .long
  else if short then some .short else if part then some .part else if crc then some .crc else none

/-- Select `n` sees frames of mode `raw` (R460): the device is out of reset, the select is on and has that mode. -/
def State.selectSees (s : State) (n : Nat) (raw : Bool) : Bool :=
  s.live && s.isOn (R.HP_SEL_CFG_EN n)
    && s.isOn (R.HP_SEL_CFG_MODE n) == raw

/-- Wait words of select `n`, and the number of them that the port drives: with two or more lanes the first is the
turnaround (R466). -/
def State.waits (s : State) (n : Nat) : Nat := s.get (R.HP_SEL_CFG_RD_WAIT n)
def State.drivenWaits (s : State) (n : Nat) : Nat := if s.isOn (R.HP_SEL_CFG_LANES n) then s.waits n - 1 else s.waits n

/-- The frames of select `n` carry a CRC word. -/
def State.crcOn (s : State) (n : Nat) : Bool := s.isOn (R.HP_SEL_CFG_CRC_EN n)

/-- Lanes of a select with LANES `l` (R462). -/
def laneCount (l : Nat) : Nat := 2 ^ l

/-- The levels of HP_IO_7 to HP_IO_0 in the beats of a word that the port drives on `k` lanes: most significant bits first, the
highest lane with the most significant bit of a beat; with one lane on HP_IO_1 (R462). -/
def wordBeats (k : Nat) (w : Word) : List Nat :=
  (List.range (16 / k)).map (fun i => (if k = 1 then 2 else 1) * (w.toNat / 2 ^ (16 - k * (i + 1)) % 2 ^ k))

/-- The port drives words in a frame of select `n` (R462, R463). -/
def State.drive (s : State) (n : Nat) (ws : List Word) : State :=
  { s with host := { s.host with out := ws, beats := ws.flatMap (wordBeats (laneCount (s.get (R.HP_SEL_CFG_LANES n)))) } }

/-- The bytes of words in the order they travel, most significant first (R462). -/
def travel (ws : List Word) : List Nat := ws.flatMap (fun w => [w.toNat / 256, w.toNat % 256])

/-- The CRC word over bytes (R474). -/
def crcWord (bytes : List Nat) : Word := BitVec.ofNat 16 (crc16 bytes)

/-! ### The end of a frame (R12, R468, R473) -/

/-- The RC fields, claims and reservations of the frame settle. -/
def State.hostSettle (s : State) (accepted : Bool) : State :=
  let s :=
    if accepted then s.host.rc.foldl (fun s e => s.rcReduce 10 e.1 e.2) s
    else s.host.claims.foldl (fun s k => (s.putB (R.SYS_SEM_HELD k) false).put (R.SYS_SEM_OWNER k) 0) s
  let s := s.evtSettle accepted
  { s with host := { s.host with open_ := false, rc := [], claims := [] } }

/-- A frame of select `n` with `words` whole words is rejected. -/
def State.frameReject (s : State) (n words : Nat) (c : Cause) : State :=
  let s := s.addSat (R.HP_STAT_REJ_CNT n) 1
  let s := (s.put (R.HP_REJ_INFO_CAUSE n) c.code).put (R.HP_REJ_INFO_WORDS n) (min words 4095)
  let s := if s.host.rejSeen.getD n false then s else s.raise 0x0D01 n c.code
  { s with host := { s.host with lastOk := listPut s.host.lastOk n false true, rejSeen := listPut s.host.rejSeen n true false } }

/-- The other select fell during a frame: its frame is rejected too. The spec does not say how many words it had
received. -/
def State.otherReject (s : State) (n : Nat) : State :=
  { (s.frameReject (1 - n) (Config.freeValue s.free % 4096) .both) with free := s.free + 1 }

/-- A frame of select `n` is accepted (R466, R468). -/
def State.frameAccept (s : State) (n : Nat) : State :=
  let s := s.addWrap (R.HP_FRAMES_COUNT n) 1
  { s with host := { s.host with lastOk := listPut s.host.lastOk n true true } }

/-- The frame of select `n` ends. -/
def State.frameEnd (s : State) (n words : Nat) (c : Option Cause) : State :=
  let s := s.hostSettle c.isNone
  match c with
  | none => s.frameAccept n
  | some .both => (s.frameReject n words .both).otherReject n
  | some c => s.frameReject n words c

/-- The other select fell while the frame of select `n` was in progress (R473); a select that is off is ignored
(R460). -/
def State.bothFall (s : State) (n : Nat) (both : Bool) : Bool := both && s.isOn (R.HP_SEL_CFG_EN (1 - n))

/-! ### Register mode (R464 to R469) -/

/-- The page of select `n` (R42). -/
def State.pageBase (s : State) (n : Nat) : Nat := s.get (R.HP_PAGE_PAGE n) * 128

/-- The writes of an accepted frame, upward from offset `off` of the page at `base` (R465, R469). -/
def State.frameWrites (s : State) (n base : Nat) (off : Nat) : List Word → State
  | [] => s
  | w :: t =>
    let s :=
      if 0x7F < off then s.putB (R.HP_STAT_WR_PAST n) true
      else if off = 0 then s.put (R.HP_PAGE_PAGE n) w.toNat
      else s.busPut 10 (base + off) w
    s.frameWrites n base (off + 1) t

/-- HOST_WRITE_FRAME. -/
def State.hostWriteFrame (s : State) (n off : Nat) (ws : List Word) (bits : Nat) (both : Bool) : State :=
  if !s.selectSees n false then s
  else
    let s := s.drive n []
    let crc := s.crcOn n && !ws.isEmpty
    let data := if crc then ws.dropLast else ws
    let bad := crc && ws.getLast? != some (crcWord (off :: travel data))
    let long := decide (256 + s.waits n + 1 < ws.length)
    match firstCause (s.bothFall n both) false false long false (bits != 0) bad with
    | some c => s.frameEnd n ws.length (some c)
    | none => (s.frameWrites n (s.pageBase n) off data).frameEnd n ws.length none

/-- One data word of a read frame, at offset `off` (R467, R469): the word sent. A word that comes late is sent as 0, and
its RC fields count as not read (R468). -/
def State.frameRead (s : State) (n base off : Nat) (late : Bool) : Word × State :=
  if 0x7F < off then (0, s.putB (R.HP_STAT_RD_PAST n) true)
  else
    let (w, t) := if off = 0 then (s.rg (R.HP_PAGE n).gwa, s) else s.busRead 10 (base + off)
    if late then
      (0, { (t.putB (R.HP_STAT_RD_LATE n) true) with host := { t.host with rc := s.host.rc } })
    else (w, t)

/-- The data words of a read frame, word `i` on, `k` of them. -/
def State.frameReads (s : State) (n base off : Nat) (late : List Nat) (i : Nat) : Nat → List Word × State
  | 0 => ([], s)
  | k + 1 =>
    let (w, s) := s.frameRead n base (off + i) (late.contains i)
    let (ws, s) := s.frameReads n base off late (i + 1) k
    (w :: ws, s)

/-- The wait words that the port drives, the last of them `w` (R466, R470). -/
def State.waitWords (s : State) (n : Nat) (w : Word) : List Word := List.replicate (s.drivenWaits n - 1) 0 ++ [w]

/-- HOST_READ_FRAME; `k` words follow the header. -/
def State.hostReadFrame (s : State) (n off k : Nat) (late : List Nat) (bits : Nat) (both : Bool) : State :=
  if !s.selectSees n false then s
  else
    let wait := s.waits n
    let crc := s.crcOn n
    let c := firstCause (s.bothFall n both) false false (decide (256 + wait + 1 < k)) (decide (0 < k) && decide (k < wait))
      (bits != 0) false
    let data := k - wait - b2n crc
    let wstat := BitVec.ofNat 16 (b2n (s.host.lastOk.getD n true) * 0x8000 + s.get (R.HP_FRAMES_COUNT n) % 0x8000)
    let s := { s with host := { s.host with open_ := true } }
    let (ws, s) := s.frameReads n (s.pageBase n) off late 0 data
    let waits := (s.waitWords n wstat).take (k - (wait - s.drivenWaits n))
    let sum := crcWord ((0x80 + off) :: travel (waits ++ ws))
    let tail := if crc && decide (wait < k) then [if late.any (fun i => i < data) then ~~~sum else sum] else []
    let s := s.drive n (waits ++ ws ++ tail)
    s.frameEnd n k c

/-! ### Raw word mode (R470 to R472) -/

/-- A control word that makes the frame fail with cause CTRL. -/
def ctrlBad (res len : Nat) : Bool := res != 0 || len == 0

/-- Ring `r` of select `n`: its first word and its size; the registers of inbound rings come first (HP_RAW_IN_CFG_0). -/
def State.ringOf (s : State) (cfg n : Nat) : Nat × Nat :=
  (0x2E0000 + s.get ⟨cfg + n, 15, 9⟩ * 1024, (s.get ⟨cfg + n, 8, 3⟩ + 1) * 1024)

/-- Words are written to a ring from place `at_`, wrapping, as master 10. -/
def State.ringWrites (s : State) (base size at_ : Nat) : List Word → State
  | [] => s
  | w :: t => (s.memWriteChecked 10 (base + at_ % size) w).ringWrites base size (at_ + 1) t

/-- `k` words are read from a ring from place `at_`, wrapping, as master 10. -/
def State.ringReads (s : State) (base size at_ : Nat) : Nat → List Word × State
  | 0 => ([], s)
  | k + 1 =>
    let (w, s) := s.memReadChecked 10 (base + at_ % size)
    let (ws, s) := s.ringReads base size (at_ + 1) k
    (w :: ws, s)

/-- The space check of a raw write frame (R471): FULL shows it, and fault 0x0D02 marks each entry into the full
condition. -/
def State.ringCheck (s : State) (n : Nat) (full : Bool) : State :=
  let s := if full && !s.isOn (R.HP_STAT_FULL n) then s.raise 0x0D02 n else s
  s.putB (R.HP_STAT_FULL n) full

/-- An accepted record: IN_WR passes it (R471). In host boot the boot ROM takes it (R543). -/
def State.recordIn (s : State) (n size len : Nat) (data : List Word) : State :=
  let wr := (s.get (R.HP_RAW_IN_WR_V n) + len + 1) % size
  let s := s.put (R.HP_RAW_IN_WR_V n) wr
  if s.start.phase == .host && n == 0 then (s.hostTake data).put (R.HP_RAW_IN_RD_V 0) wr else s

/-- RAW_WRITE_FRAME; `ws` follows the control word. -/
def State.rawWriteFrame (s : State) (n res len : Nat) (ws : List Word) (bits : Nat) (both : Bool) : State :=
  if !s.selectSees n true then s
  else
    let s := s.drive n []
    let (base, size) := s.ringOf 0x70F010 n
    let wr := s.get (R.HP_RAW_IN_WR_V n)
    let ctrl := ctrlBad res len
    let full := !ctrl && decide ((s.get (R.HP_RAW_IN_RD_V n) + 2 * size - wr % size - 1) % size < len + 1)
    let s := if ctrl then s else s.ringCheck n full
    let crc := s.crcOn n
    let need := len + b2n crc
    let data := ws.take len
    let bad := crc && ws.getLast? != some (crcWord (travel (BitVec.ofNat 16 (res * 0x1000 + len) :: data)))
    let c := firstCause (s.bothFall n both) ctrl full (decide (need < ws.length)) (decide (ws.length < need)) (bits != 0) bad
    let s := if ctrl || full then s else s.ringWrites base size wr (BitVec.ofNat 16 len :: data)
    match c with
    | some c => s.frameEnd n (ws.length + 1) (some c)
    | none => (s.recordIn n size len data).frameEnd n (ws.length + 1) none

/-- RAW_READ_FRAME; `k` words follow the control word. -/
def State.rawReadFrame (s : State) (n res len k bits : Nat) (both : Bool) : State :=
  if !s.selectSees n true then s
  else
    let (base, size) := s.ringOf 0x70F012 n
    let rd := s.get (R.HP_RAW_OUT_RD_V n)
    let ctrl := ctrlBad res len
    let avail := min len ((s.get (R.HP_RAW_OUT_WR_V n) + size - rd % size) % size)
    let wait := s.waits n
    let crc := s.crcOn n
    let need := wait + len + b2n crc
    let c := firstCause (s.bothFall n both) ctrl false (decide (need < k)) (decide (k < need)) (bits != 0) false
    let slots := if ctrl then 0 else min len (k - wait)
    let (ws, s) := s.ringReads base size rd (min avail slots)
    let waits := if ctrl then [] else (s.waitWords n (BitVec.ofNat 16 avail)).take (k - (wait - s.drivenWaits n))
    let driven := waits ++ ws ++ List.replicate (slots - avail) 0
    let tail := if crc && !ctrl && decide (need ≤ k)
      then [crcWord (travel (BitVec.ofNat 16 (0x8000 + res * 0x1000 + len) :: driven))] else []
    let s := s.drive n (driven ++ tail)
    let s := if c.isNone then s.put (R.HP_RAW_OUT_RD_V n) ((rd + avail) % size) else s
    s.frameEnd n (k + 1) c

end Sys2Proof.Machine
end

