-- ==== Sys2Proof/Machine/Commands.lean ====
section
/-!
DEFINITION. What the command families share: a read or a write by a master, a write that sets one field of a register, and
the guard and form checks of the engine instructions (spec/00_scope.md R11, R18; spec/11_tabile_programming_model.md R316).
-/

namespace Sys2Proof.Machine

/-- The word that a write of `v` to field `f` holds: the RW fields of the register as they stand, zeros elsewhere. -/
def State.wordWith (s : State) (f : Fld) (v : Nat) : Word :=
  let keep := match regAt f.gwa with
    | some (g, _) => g.maskOf (fun x => x.ty == .rw)
    | none => 0
  putBits (BitVec.ofNat 16 ((s.rg f.gwa).toNat &&& keep)) f.hi f.lo v

/-- A write of the register of field `f` by master `m` that sets that field to `v`. -/
def State.writeField (s : State) (m : Nat) (f : Fld) (v : Nat) : State := s.busWrite m f.gwa (s.wordWith f v)

/-- A write of `v` to the word at `a` by master `m`; an engine's own local memory is its own (R38). -/
def State.masterWrite (s : State) (m a : Nat) (v : Word) : State :=
  if m < 8 ∧ a < 0x8000 then (s.engWrite m a v).getD s else s.busWrite m a v

/-- A read of the word at `a` by master `m`, after its earlier writes (R43, R44): the word goes to `readData`. A read by the host port outside a frame of the
model is an accepted frame of its own. -/
def State.masterRead (s : State) (m a : Nat) : State :=
  if m < 8 ∧ a < 0x8000 then { s with readData := wmGet 0 (s.eng m).loc a }
  else match s.ordered m a with
    | none => s
    | some s =>
      let (w, s) := s.busRead m a
      let s := { s with readData := w }
      if m = 10 ∧ !s.host.open_ then s.evtSettle true else s

end Sys2Proof.Machine
end

