-- ==== Sys2Proof/Machine/EngineOps.lean ====
section
/-!
DEFINITION. What each Tabile operation does, by the numbers of its registers, and the long instructions by opcode, as the
microcode issues them (spec/12_tabile_instruction_reference.md R361 to R384, R390 to R398).
-/

namespace Sys2Proof.Machine

/-! ### Word operations (R361 to R363, R371) -/

/-- Operation `k` of R361 on Wa and Wb, to Wd. -/
def opAlu (e k d a b : Nat) (s : State) : Effect :=
  let g := s.eng e
  .regs s (wordLands 1 d (aluOp k g.st (g.wr a) (g.wr b)))

/-- Operation `k` of R363 on Wd. -/
def opImm (e k d : Nat) (imm : BitVec 6) (s : State) : Effect :=
  let g := s.eng e
  .regs s (wordLands 1 d (immOp k g.st (g.wr d) imm))

/-- Operation `k` of R361 on Wd and a 16-bit immediate. -/
def opAluImm (e k d : Nat) (imm : Word) (s : State) : Effect :=
  let g := s.eng e
  .regs s (wordLands 1 d (aluOp k g.st (g.wr d) imm))

/-- MOVX (R371). -/
def opMovx (high : Bool) (k : Nat) (imm : Word) (s : State) : Effect :=
  .regs s [{ dist := 2, dest := if high then .xH k else .x k, val := imm.toNat }]

/-- MOVM and MOVL (R371). -/
def opMovm (k : Nat) (imm : Word) (s : State) : Effect := .regs s [{ dist := 2, dest := .m k, val := imm.toNat }]
def opMovl (k : Nat) (imm : Word) (s : State) : Effect := .regs s [{ dist := 1, dest := .l k, val := imm.toNat }]

/-! ### Predicates (R372, R373) -/

/-- A predicate lands at distance 2. -/
def predEffect (s : State) (d : Nat) (b : Bool) : Effect := .regs s [{ dist := 2, dest := .pBit d, val := b2n b }]

def opCmp (e d cond a b : Nat) (s : State) : Effect :=
  predEffect s d (condWords cond ((s.eng e).wr a) ((s.eng e).wr b))

def opCmpi (e d cond a : Nat) (imm : BitVec 9) (s : State) : Effect :=
  predEffect s d (condWords cond ((s.eng e).wr a) (BitVec.ofInt 16 imm.toInt))

def opAcmp (e d cond a b : Nat) (s : State) : Effect :=
  predEffect s d (condSigned cond (sa ((s.eng e).ar a)) (sa ((s.eng e).ar b)))

def opPlog (e d a b op : Nat) (s : State) : Effect :=
  predEffect s d (predLogic op ((s.eng e).pr a) ((s.eng e).pr b))

/-- PLOG with an unused operand that is not 0 is reserved. -/
def plogBad (a b op : Nat) : Bool := (op = 5 && b != 0) || (6 ≤ op && (a != 0 || b != 0))

def opBtst (e d a bit : Nat) (inv : Bool) (s : State) : Effect :=
  predEffect s d (bitOf ((s.eng e).wr a).toNat bit != inv)

/-! ### Accumulators (R374, R383) -/

/-- A result to Ad at distance 2, with its flags. -/
def accEffect (s : State) (d : Nat) (r : AccRes) : Effect :=
  .regs s [{ dist := 2, dest := .a d, val := r.val }, accFlags 2 r r.av r.ag]

def opAadd (e d a b : Nat) (s : State) : Effect :=
  let g := s.eng e
  accEffect s d (placeAcc (stSat g.st) (sa (g.ar a) + sa (g.ar b)))

def opAsub (e d a b : Nat) (s : State) : Effect :=
  let g := s.eng e
  accEffect s d (placeAcc (stSat g.st) (sa (g.ar a) - sa (g.ar b)))

def opAneg (e d a : Nat) (s : State) : Effect :=
  let g := s.eng e
  accEffect s d (placeAcc (stSat g.st) (-sa (g.ar a)))

def opAabs (e d a : Nat) (s : State) : Effect :=
  let g := s.eng e
  accEffect s d (placeAcc (stSat g.st) (sa (g.ar a)).natAbs)

/-- Shift of Aa by a signed count (R383). -/
def opAshift (e d a : Nat) (n : Int) (log : Bool) (s : State) : Effect :=
  let g := s.eng e
  accEffect s d (shiftAcc (stSat g.st) (g.ar a) n log)

/-- Shift of Aa by Wc bits 6:0. -/
def opAshr (e d a c : Nat) (log : Bool) (s : State) : Effect :=
  opAshift e d a (signedOf 7 ((s.eng e).wr c).toNat) log s

def opAmovw (e d a : Nat) (s : State) : Effect :=
  let g := s.eng e
  let x := if stFrac g.st then sw (g.wr a) * 65536 else sw (g.wr a)
  accEffect s d { val := unsignedOf 40 x }

def opNarrow (e d a : Nat) (s : State) : Effect :=
  let g := s.eng e
  .regs s (wordLands 1 d (narrowAcc g.st (g.ar a)))

def opAsat (e d a : Nat) (s : State) : Effect := accEffect s d (satAcc ((s.eng e).ar a))

def opNorm (e d a : Nat) (s : State) : Effect :=
  .regs s (wordLands 1 d { val := signBits 40 (sa ((s.eng e).ar a)) - 1 })

/-! ### Multiplies (R365, R375, R376) -/

/-- The value of Ad that a multiply form adds to: the newest multiply result in flight to it, or the register (R344). -/
def Engine.chained (g : Engine) (d : Nat) : Int :=
  match (g.fly.filter (fun r => r.mac && r.dest == .a d)).getLast? with
  | some r => signedOf 40 r.val
  | none => sa (g.ar d)

/-- Results of a multiply form in accumulators: (accumulator, exact total), the first naming Ad for Z, N and V. -/
def macEffect (s : State) (e : Nat) (l : List (Nat × Int)) : Effect :=
  let rs := l.map (fun x => (x.1, placeAcc (stSat (s.eng e).st) x.2))
  let lands : List Land := rs.map (fun x => { dist := 4, dest := .a x.1, val := x.2.val, mac := true })
  match rs with
  | [] => .regs s []
  | r :: _ => .regs s (lands ++ [accFlags 4 r.2 (rs.any (fun x => x.2.av)) (rs.any (fun x => x.2.ag))])

def opMpy (e d a b : Nat) (s : State) : Effect :=
  let g := s.eng e
  macEffect s e [(d, product g.st (g.wr a) (g.wr b))]

def opMac (e d a b : Nat) (s : State) : Effect :=
  let g := s.eng e
  macEffect s e [(d, g.chained d + product g.st (g.wr a) (g.wr b))]

def opMsu (e d a b : Nat) (s : State) : Effect :=
  let g := s.eng e
  macEffect s e [(d, g.chained d - product g.st (g.wr a) (g.wr b))]

def opMpyw (e d a b : Nat) (s : State) : Effect :=
  let g := s.eng e
  .regs s (wordLands 3 d (mulWord g.st (g.wr a) (g.wr b)))

/-- Base ± x of layout M2. -/
def Engine.m2Sum (g : Engine) (f : M2) (d : Nat) (x : Int) : Nat × Int :=
  (d, (if f.clr then 0 else g.chained d) + (if f.neg then -x else x))

/-- The four products a·c, a·d, b·c, b·d of layout M2. -/
def Engine.m2Prods (g : Engine) (f : M2) : Int × Int × Int × Int :=
  let w (i : Nat) : Word := g.wr i
  let p := 2 * f.p.val
  let q := 2 * f.q.val
  (product g.st (w p) (w q), product g.st (w p) (w (q + 1)), product g.st (w (p + 1)) (w q),
   product g.st (w (p + 1)) (w (q + 1)))

def opDmac (e : Nat) (f : M2) (s : State) : Effect :=
  let g := s.eng e
  let (ac, _, _, bd) := g.m2Prods f
  macEffect s e [g.m2Sum f f.d.val (ac + bd)]

def opCmac (e : Nat) (f : M2) (s : State) : Effect :=
  let g := s.eng e
  let (ac, ad, bc, bd) := g.m2Prods f
  macEffect s e [g.m2Sum f f.d.val (ac - bd), g.m2Sum f (f.d.val + 1) (ad + bc)]

def opCmacj (e : Nat) (f : M2) (s : State) : Effect :=
  let g := s.eng e
  let (ac, ad, bc, bd) := g.m2Prods f
  macEffect s e [g.m2Sum f f.d.val (ac + bd), g.m2Sum f (f.d.val + 1) (bc - ad)]

def opQmac (e : Nat) (f : M2) (s : State) : Effect :=
  let g := s.eng e
  let (ac, ad, bc, bd) := g.m2Prods f
  macEffect s e [g.m2Sum f 0 ac, g.m2Sum f 1 ad, g.m2Sum f 2 bc, g.m2Sum f 3 bd]

/-! ### Division (R378, R384) -/

def opDiv (e q r a b : Nat) (s : State) : Effect :=
  let g := s.eng e
  let (quo, rem, v, ss, dz) := divWords g.st (g.wr a) (g.wr b)
  let sticky := (if ss then 16 else 0) + (if dz then 32 else 0)
  .regs s [{ dist := 18, dest := .w q, val := quo }, { dist := 18, dest := .w r, val := rem },
    { dist := 18, dest := .st (13 + sticky),
      val := (if quo = 0 then 8 else 0) + (if bitOf quo 15 then 4 else 0) + b2n v + sticky }]

/-! ### Register moves (R367) -/

def opMoveTo (e : Nat) (r : RegName) (w : Nat) (s : State) : Effect :=
  match moveLands r ((s.eng e).wr w).toNat with
  | some l => .regs s l
  | none => .trap s 1

/-- A move to a register is reserved, or carries RND 3 (R322, R393). -/
def moveToBad (s : State) (e : Nat) (r : RegName) (w : Nat) : Bool :=
  (regDest r).isNone || rndBad r ((s.eng e).wr w).toNat

def opMoveFrom (e : Nat) (r : RegName) (w : Nat) (s : State) : Effect :=
  match (s.eng e).regRead r with
  | some v => .regs s [{ dist := 1, dest := .w w, val := v }]
  | none => .trap s 1

/-! ### Loads and stores (R364, R369, R370, R377, R379) -/

/-- Reads at `l`, then results `f` of the words. -/
def readEffect (s : State) (e : Nat) (l : List Nat) (u : List Upset) (stall : Nat) (f : List Word → List Land) : Effect :=
  let s := s.engUpsets e u
  match s.engReads e l with
  | .words ws s n => .ok s (f ws) (n + stall) (slotsUsed l) .seq
  | .par => .trap s 3
  | .wait => .wait

/-- The addresses of a load or store of register `r` at `ea` (R370). -/
def memWords (r ea : Nat) : List Nat := if 28 ≤ r then [ea, (ea + 1) % 2 ^ 24] else [ea]

/-- Where the words of a load of `r` land (R370). -/
def loadInto (r : Nat) (ws : List Word) : List Land :=
  let v := (ws.getD 0 0).toNat
  let (dest, val) : Dest × Nat :=
    if r < 16 then (.w r, v)
    else if r < 20 then (.aL (r - 16), v)
    else if r < 24 then (.aH (r - 20), v)
    else if r < 28 then (.aG (r - 24), v % 256)
    else (.a (r - 28), unsignedOf 40 (signedOf 32 (v + 65536 * (ws.getD 1 0).toNat)))
  [{ dist := 3, dest := dest, val := val }]

/-- The words that a store of `r` writes, and the flags it sets (R340, R370). -/
def Engine.storeFrom (g : Engine) (r : Nat) : List Word × List Land :=
  let a (i hi lo : Nat) : Nat := bitsOf (g.ar i).toNat hi lo
  if r < 16 then ([g.wr r], [])
  else if r < 20 then ([BitVec.ofNat 16 (a (r - 16) 15 0)], [])
  else if r < 24 then ([BitVec.ofNat 16 (a (r - 20) 31 16)], [])
  else if r < 28 then ([BitVec.ofInt 16 (signedOf 8 (a (r - 24) 39 32))], [])
  else
    let p := narrow32 g.st (g.ar (r - 28))
    let f := 1 + (if p.ss then 16 else 0)
    ([BitVec.ofNat 16 p.val, BitVec.ofNat 16 (p.val / 65536)], if p.v then [{ dist := 1, dest := .st f, val := f }] else [])

/-- Writes of words upward from `l`; `none`: they wait. -/
def State.engWrites (s : State) (e : Nat) : List (Nat × Word) → Option State
  | [] => some s
  | (a, v) :: t =>
    match s.engWrite e a v with
    | some s => s.engWrites e t
    | none => none

/-- Writes, then results. -/
def writeEffect (s : State) (e : Nat) (l : List (Nat × Word)) (lands : List Land) : Effect :=
  match s.engWrites e l with
  | some s => .ok s lands 0 (slotsUsed (l.map (·.1))) .seq
  | none => .wait

/-- A load of `r` at an address with its write back. -/
def opLoad (e r : Nat) (x : Nat × Option (Nat × Nat)) (u : List Upset) (s : State) : Effect :=
  readEffect s e (memWords r x.1) u 0 (fun ws => loadInto r ws ++ backLands x.2)

/-- A store of `r` at an address with its write back. -/
def opStore (e r : Nat) (x : Nat × Option (Nat × Nat)) (s : State) : Effect :=
  let (ws, lands) := (s.eng e).storeFrom r
  writeEffect s e ((memWords r x.1).zip ws) (lands ++ backLands x.2)

/-- A mailbox bank (R432). -/
def inMailbox (a : Nat) : Bool := 0x2E0000 ≤ a && a < 0x300000

/-- A store of `r`, with a write of the same word by the other port in the clock in which it is performed (R433): the
write buffer is performed up to it, and then the two meet. -/
def opStoreMeets (e r : Nat) (x : Nat × Option (Nat × Nat)) (m : Nat) (w : Word) (s : State) : Effect :=
  let (ws, lands) := (s.eng e).storeFrom r
  let t := (regionOf x.1).target.getD 0
  if !inMailbox x.1 || !s.allowed e t .write || !s.allowed m t .write then
    match writeEffect s e ((memWords r x.1).zip ws) (lands ++ backLands x.2) with
    | .ok s l n k f => .ok (s.busWrite m x.1 w) l n k f
    | y => y
  else
    match s.drainWhile e (fun b => !b.isEmpty) bufferSize with
    | none => .wait
    | some s =>
      let s := s.collide x.1 e (ws.headD 0) m w
      writeEffect s e (((memWords r x.1).zip ws).drop 1) (lands ++ backLands x.2)

/-- LD2 (R377). -/
def opLd2 (e p xa ma xb mb : Nat) (u : List Upset) (s : State) : Effect :=
  let g := s.eng e
  let a := g.dualAddr ma xa
  let b := g.dualAddr mb xb
  readEffect s e [a.1, b.1] u 0 (fun ws =>
    [{ dist := 3, dest := .w (2 * p), val := (ws.getD 0 0).toNat },
     { dist := 3, dest := .w (2 * p + 1), val := (ws.getD 1 0).toNat }] ++ backLands a.2 ++ backLands b.2)

/-- LDS (R379). A word that would put RND 3 into ST raises ILL, as a move would (R322). -/
def opLds (e : Nat) (x : Nat × Option (Nat × Nat)) (r : RegName) (u : List Upset) (s : State) : Effect :=
  let s := s.engUpsets e u
  match s.engReads e [x.1] with
  | .words ws t n =>
    let v := (ws.getD 0 0).toNat
    if rndBad r v then .trap t 1
    else match loadLands r v with
      | some l => .ok t (l ++ backLands x.2) n (slotsUsed [x.1]) .seq
      | none => .trap s 1
  | .par => .trap s 3
  | .wait => .wait

/-- STS (R379). -/
def opSts (e : Nat) (x : Nat × Option (Nat × Nat)) (r : RegName) (s : State) : Effect :=
  match (s.eng e).regRead r with
  | some v => writeEffect s e [(x.1, BitVec.ofNat 16 v)] (backLands x.2)
  | none => .trap s 1

/-- A push of X7 with X7 as the address register is reserved (R379, R393). -/
def stsBad (r : RegName) (k : Nat) : Bool := r.kind.val == 0 && r.idx.val == 7 && k == 7

/-! ### Table look-up (R390 to R392) -/

/-- TBL, or TBLI with `interp`: the descriptor is read, then one or two entries. -/
def opTbl (e d a k : Nat) (interp : Bool) (u : List Upset) (s : State) : Effect :=
  let g := s.eng e
  let s := s.engUpsets e u
  let x := g.xr k
  let desc := (List.range 4).map (fun n => (x + n) % 2 ^ 24)
  match s.engReads e desc with
  | .par => .trap s 3
  | .wait => .wait
  | .words dw t n =>
    let w1 := (dw.getD 1 0).toNat
    let bits := bitsOf w1 11 8
    let base := (dw.getD 0 0).toNat + 65536 * (w1 % 256)
    let v := ((g.wr a).toNat + (dw.getD 2 0).toNat) % 65536
    let i := v / 2 ^ (16 - bits)
    let f := v * 2 ^ bits % 65536
    let j := if bitOf w1 15 then (i + 1) % 2 ^ bits else i + 1
    let at_ (n : Nat) : Nat := (base + n) % 2 ^ 24
    match t.engReads e (if interp then [at_ i, at_ j] else [at_ i]) with
    | .par => .trap t 3
    | .wait => .wait
    | .words es t m =>
      let ti := sw (es.getD 0 0)
      let r := if interp then ti + roundBy (stRnd g.st) 16 ((sw (es.getD 1 0) - ti) * f) else ti
      .ok t (wordLands 3 d { val := unsignedOf 16 r }) (n + m + (if interp then 3 else 2)) (slotsUsed desc) .seq

/-! ### Long instructions by opcode, as the microcode issues them (R368 to R380, R393, R397) -/

/-- A long load or store of MODE `mode` with parcel 1 `p`; `none` is reserved (R369). -/
def longMode (mode p : Nat) : Option LongMode :=
  let k : Fin 8 := Fin.ofNat 8 (p / 8192)
  match mode with
  | 0 => if bitOf p 12 then none else some (.offset k (BitVec.ofNat 12 p))
  | 1 =>
    let j : Fin 8 := Fin.ofNat 8 (p / 256)
    let imm := bitsOf p 7 4
    if p % 16 != 0 then none
    else if bitOf p 11 then
      if imm != 0 then none else some (if bitOf p 12 then .preM k j else .postM k j)
    else if j != 0 then none
    else if bitOf p 12 then (if 8 ≤ imm then none else some (.preImm k (Fin.ofNat 8 imm)))
    else some (.postImm k (BitVec.ofNat 4 imm))
  | 2 => if p % 128 != 0 then none else some (.index k (Fin.ofNat 16 (p / 512)) (Fin.ofNat 4 (p / 128)))
  | _ => some (.absolute (BitVec.ofNat 16 p))

/-- KIND, IDX and PART in bits 7 to 0 of LDS and STS. -/
def regNameOf (p : Nat) : RegName := { kind := Fin.ofNat 16 (p / 16), idx := Fin.ofNat 8 (p / 2), part := bitOf p 0 }

/-- Layout M2. -/
def m2Of (p : Nat) : M2 :=
  { d := Fin.ofNat 4 (p / 16384), p := Fin.ofNat 8 (p / 2048), q := Fin.ofNat 8 (p / 256), neg := bitOf p 7, clr := bitOf p 6 }

/-- The addressing of LDS and STS in parcel 1. -/
def specModeOf (p : Nat) : SpecMode :=
  { k := Fin.ofNat 8 (p / 8192), pre := bitOf p 12, step := BitVec.ofNat 4 (p / 256) }

/-- `x` unless the form is reserved. -/
def okForm (bad : Bool) (x : State → Effect) : Option (State → Effect) := if bad then none else some x

/-- The accumulator group (R374). -/
def accGroup (e opc p : Nat) : Option (State → Effect) :=
  let d := bitsOf p 15 14
  let a := bitsOf p 13 12
  let low (n : Nat) : Bool := p % 2 ^ n != 0
  match opc with
  | 0x194 => okForm (low 10) (opAadd e d a (bitsOf p 11 10))
  | 0x195 => okForm (low 10) (opAsub e d a (bitsOf p 11 10))
  | 0x196 => okForm (low 12) (opAneg e d a)
  | 0x197 => okForm (low 12) (opAabs e d a)
  | 0x198 => okForm (bitsOf p 11 10 != 0 || low 2) (opAshift e d a (signedOf 7 (bitsOf p 9 3)) (bitOf p 2))
  | 0x199 => okForm (bitsOf p 11 10 != 0 || low 5) (opAshr e d a (bitsOf p 9 6) (bitOf p 5))
  | 0x19A => okForm (low 10) (opAmovw e d (bitsOf p 13 10))
  | 0x19B => okForm (low 10) (opNarrow e (p / 4096) (bitsOf p 11 10))
  | 0x19C => okForm (low 12) (opAsat e d a)
  | 0x19D => okForm (low 10) (opNorm e (p / 4096) (bitsOf p 11 10))
  | _ => none

/-- The multiply group (R375). -/
def mulGroup (e opc p : Nat) : Option (State → Effect) :=
  let d := bitsOf p 15 14
  let s := bitsOf p 13 10
  let t := bitsOf p 9 6
  let low := p % 64 != 0
  match opc with
  | 0x1A0 => okForm (p % 16 != 0) (opMpyw e (p / 4096) (bitsOf p 11 8) (bitsOf p 7 4))
  | 0x1A1 => okForm low (opMpy e d s t)
  | 0x1A2 => okForm low (opMac e d s t)
  | 0x1A3 => okForm low (opMsu e d s t)
  | 0x1A4 => okForm low (opDmac e (m2Of p))
  | 0x1A5 => okForm (low || d % 2 != 0) (opCmac e (m2Of p))
  | 0x1A6 => okForm (low || d % 2 != 0) (opCmacj e (m2Of p))
  | _ => okForm (low || d != 0) (opQmac e (m2Of p))

/-- The compare and predicate group, CMP to ACMP (R372, R373). -/
def predGroup (e opc p : Nat) : Option (State → Effect) :=
  let d := p / 8192
  let cond := bitsOf p 12 9
  match opc with
  | 0x190 => okForm (12 ≤ cond || p % 2 != 0) (opCmp e d cond (bitsOf p 8 5) (bitsOf p 4 1))
  | 0x191 =>
    let a := bitsOf p 12 10
    let b := bitsOf p 9 7
    let op := bitsOf p 6 4
    okForm (plogBad a b op || p % 16 != 0) (opPlog e d a b op)
  | 0x192 => okForm (p % 16 != 0) (opBtst e d cond (bitsOf p 8 5) (bitOf p 4))
  | _ => okForm (6 ≤ cond || p % 32 != 0) (opAcmp e d cond (bitsOf p 8 7) (bitsOf p 6 5))

/-- LDS and STS (R379). -/
def specGroup (e opc p : Nat) (u : List Upset) : Option (State → Effect) :=
  let a := specModeOf p
  let r := regNameOf (p % 256)
  if a.pre && bitOf a.step.toNat 3 then none
  else if opc = 0x1B1 then
    okForm (regDest r).isNone (fun s => match (s.eng e).specAddr a with
      | some x => opLds e x r u s
      | none => .trap s 1)
  else
    okForm (({} : Engine).regRead r).isNone (fun s => match (s.eng e).specAddr a with
      | some x => opSts e x r s
      | none => .trap s 1) |>.bind (fun x => okForm (stsBad r a.k.val) x)

/-- Loads and stores, OPC 0x000 to 0x0FF (R369, R370). -/
def memGroup (e opc p : Nat) (u : List Upset) : Option (State → Effect) :=
  match longMode (bitsOf opc 6 5) p with
  | none => none
  | some m =>
    let r := opc % 32
    if bitOf opc 7 then some (fun s => opStore e r ((s.eng e).longAddr m) s)
    else some (fun s => opLoad e r ((s.eng e).longAddr m) u s)

/-- The effect of the long instruction with opcode `opc` and parcel 1 `p` on engine `e`; `none`: reserved, control flow or
a user opcode, which raise ILL in microcode (R397). -/
def longOp (e opc p : Nat) (u : List Upset) : Option (State → Effect) :=
  let imm : Word := BitVec.ofNat 16 p
  let n := opc % 16
  if opc < 0x100 then memGroup e opc p u
  else if opc < 0x114 then
    let k := opc - 0x100
    let s := bitsOf p 11 8
    let t := bitsOf p 7 4
    okForm (p % 16 != 0 || (aluUnary k && t != 0)) (if aluUnary k then opAlu e k (p / 4096) s s else opAlu e k (p / 4096) s t)
  else if opc < 0x120 then none
  else if opc < 0x130 then some (opAluImm e 0 n imm)
  else if opc < 0x140 then some (opAluImm e 1 n imm)
  else if opc < 0x150 then some (opAluImm e 5 n imm)
  else if opc < 0x160 then some (opAluImm e 6 n imm)
  else if opc < 0x170 then okForm (8 ≤ n && 256 ≤ p) (opMovx (8 ≤ n) (n % 8) imm)
  else if opc < 0x178 then some (opMovm (n % 8) imm)
  else if opc < 0x180 then some (opMovl (n % 8) imm)
  else if opc < 0x190 then
    okForm (12 ≤ bitsOf p 12 9) (opCmpi e (p / 8192) (bitsOf p 12 9) n (BitVec.ofNat 9 p))
  else if opc < 0x194 then predGroup e opc p
  else if opc < 0x1A0 then accGroup e opc p
  else if opc < 0x1A8 then mulGroup e opc p
  else if opc < 0x1B0 then
    okForm (p % 64 != 0 || bitsOf p 15 13 == bitsOf p 10 8)
      (opLd2 e (n % 8) (bitsOf p 15 13) (bitsOf p 12 11) (bitsOf p 10 8) (bitsOf p 7 6) u)
  else if opc = 0x1B0 then
    okForm (p / 4096 == bitsOf p 11 8) (opDiv e (p / 4096) (bitsOf p 11 8) (bitsOf p 7 4) (p % 16))
  else if opc < 0x1B3 then specGroup e opc p u
  else if opc < 0x1B5 then okForm (p % 32 != 0) (opTbl e (p / 4096) (bitsOf p 11 8) (bitsOf p 7 5) (opc == 0x1B4) u)
  else none

/-! ### User opcodes (R394 to R399) -/

/-- Micro-word `n` of engine `e`'s microcode store. -/
def Engine.microWord (g : Engine) (n : Nat) : Nat :=
  (wmGet 0 g.ucode (3 * n)).toNat + 65536 * (wmGet 0 g.ucode (3 * n + 1)).toNat
    + 4294967296 * (wmGet 0 g.ucode (3 * n + 2)).toNat

/-- Nibble `v` of micro-word source `src` with the user instruction's parcel 1 `body` (R395); `none` is reserved. -/
def substitute (body src v : Nat) : Option Nat :=
  match src with
  | 0 => some v
  | 1 => some (body / 4096)
  | 2 => some (bitsOf body 11 8)
  | 3 => some (bitsOf body 7 4)
  | 4 => some (body % 16)
  | _ => none

/-- The native instruction of micro-word `w` after substitution: parcels 0 and 1. -/
def nativeOf (w body : Nat) : Option (Nat × Nat) :=
  let n0 := bitsOf w 31 16
  let n1 := w % 65536
  match substitute body (bitsOf w 46 44) (n0 % 16), substitute body (bitsOf w 43 41) (n1 / 4096),
        substitute body (bitsOf w 40 38) (bitsOf n1 11 8), substitute body (bitsOf w 37 35) (bitsOf n1 7 4),
        substitute body (bitsOf w 34 32) (n1 % 16) with
  | some a, some b, some c, some d, some e => some (n0 / 16 * 16 + a, b * 4096 + c * 256 + d * 16 + e)
  | _, _, _, _, _ => none

/-- What a micro-word does when it issues: its effect, or ILL (R397). A parcel 0 that does not mark a long form has no
native instruction. -/
def microEffect (s : State) (e n body : Nat) (u : List Upset) : Effect :=
  let g := s.eng e
  let w := g.microWord n
  if g.ucBad.contains (64 + n) then .trap s 4
  else if n = 255 ∧ !bitOf w 47 then .trap s 1
  else match nativeOf w body with
    | none => .trap s 1
    | some (p0, p1) =>
      let c : Guard := { gp := Fin.ofNat 8 (p0 / 512), gn := bitOf p0 12 }
      match longOp e (p0 % 512) p1 u with
      | none => .trap s 1
      | some x =>
        if p0 < 0xE000 || guardBad c then .trap s 1
        else if g.guardOn c then x s
        else .ok s [] 0 0 .seq

/-- An asynchronous trap waits on engine `e` and its 64 cycles are over (R349). -/
def Engine.asyncOver (g : Engine) : Option Nat :=
  if 64 ≤ g.asyncWait && !g.tm then (if g.clkTrap then some 5 else if g.brk then some 7 else none) else none

/-- The micro-words from `n` on, `fuel` of them at most; `first`: the first of the sequence (R396, R398). `none`: one of
them waits for the flash port. -/
def State.microRun (s : State) (i : Issue) (body : Nat) (u : List Upset) : Nat → Nat → Bool → Option State
  | 0, _, _ => some s
  | fuel + 1, n, first =>
    let e := i.e.val
    let g := s.eng e
    let trapped := if first then none else g.asyncOver
    match trapped with
    | some tc => some (s.takeAsync e tc g.pc false)
    | none =>
      match microEffect s e n body u with
      | .wait => none
      | .trap s tc => some ((s.spend e (1 + g.flight)).syncTrap e tc g.pc (g.inSlot || !first))
      | .ok s lands stall slots _ =>
        let s := s.spend e (1 + stall + (if first then i.stall + s.fixedStall e 2 slots else s.fixedStall e 1 slots))
        if bitOf (g.microWord n) 47 then
          let s := (s.setEng e ((s.eng e).flowStep 2 .seq)).retire e lands
          some (s.afterTend e)
        else (s.retire e lands).microRun i body u fuel (n + 1) false

/-- A user opcode (R394, R396). -/
def State.userOp (s : State) (i : Issue) (c : Guard) (slot body : Nat) (u : List Upset) (bad : List Nat) : State :=
  let e := i.e.val
  let g := s.eng e
  if !g.issuing then s
  else
    let t := s.setEng e { g with ucBad := g.ucBad ++ bad.filter (fun k => !g.ucBad.contains k) }
    let entry := (wmGet 0 g.dtab slot).toNat
    if i.parity || (t.eng e).ucBad.contains slot then t.issueOn i 2 (.trap t 4)
    else if !bitOf entry 15 then t.issueOn i 2 (.trap t 2)
    else if guardBad c then t.issueOn i 2 (.trap t 1)
    else if !g.guardOn c then t.issueOn i 2 (.ok t [] 0 0 .seq)
    else (t.microRun i body u 256 (entry % 256) true).getD s

/-! ### Flow (R360, R366, R380, R385, R387) -/

/-- A branch to `target`. -/
def opJump (target : Nat) (s : State) : Effect := .ok s [] 0 0 (.jump target)

/-- A call of `target` from an instruction of `len` parcels: LK takes the address after the second delay slot. -/
def opCall (e len target : Nat) (s : State) : Effect :=
  let g := s.eng e
  .ok s [{ dist := 1, dest := .lk, val := g.afterSlots (g.pc + len) }] 0 0 (.jump target)

/-- A hardware loop opens (R385). -/
def opLoop (level count len : Nat) (s : State) : Effect := .ok s [] 0 0 (.loop level count len)

/-- A LOOP may not issue here: in a delay slot or a trap handler (R389, R393). -/
def Engine.loopBad (g : Engine) : Bool := g.inSlot || g.tm

/-- FENCE (R335). -/
def opFence (e : Nat) (s : State) : Effect :=
  match s.drainWhile e (fun b => !b.isEmpty) bufferSize with
  | some s => .regs s []
  | none => .wait

end Sys2Proof.Machine
end

