-- ==== Sys2Proof/Machine/AccessCommands.lean ====
section
/-!
DEFINITION. The memory, register-move, table and user instructions of a Tabile engine (chapter 12, R364, R367, R369,
R370, R377, R379, R390 to R399).
-/

namespace Sys2Proof.Machine

/-- LOAD and STORE: `x` acts on register R at an address with its write back. Short MODE 3 is reserved (R364). -/
def State.memForm (s : State) (i : Issue) (f : MemForm) (x : Nat → Nat × Option (Nat × Nat) → State → Effect) : State :=
  match f with
  | .short mode k r =>
    match (s.eng i.e).shortAddr mode k with
    | none => s.issue i 1 {} true (fun t => .trap t 1)
    | some a => s.issue i 1 {} false (x r a)
  | .long g r mode => s.issue i 2 g false (x r ((s.eng i.e).longAddr mode))

/-- LDS and STS at an address; `bad`: the register named is reserved. -/
def State.specForm (s : State) (i : Issue) (g : Guard) (a : SpecMode) (bad : Bool)
    (x : Nat × Option (Nat × Nat) → State → Effect) : State :=
  match (s.eng i.e).specAddr a with
  | none => s.issue i 2 g true (fun t => .trap t 1)
  | some p => s.issue i 2 g bad (x p)

/-- LOAD (R364, R369, R370). -/
def execLoad (i : Issue) (f : MemForm) (u : List Upset) (s : State) : Host.Outcome State Fault Refusal :=
  done (s.memForm i f (fun r x => opLoad i.e r x u))

/-- STORE (R364, R369, R370, R433). -/
def execStore (i : Issue) (f : MemForm) (other : Option (Master × Word)) (s : State) :
    Host.Outcome State Fault Refusal :=
  done (s.memForm i f (fun r x => match other with
    | none => opStore i.e r x
    | some (m, w) => opStoreMeets i.e r x m w))

/-- LD2 (R377): Xa and Xb differ. -/
def execLd2 (i : Issue) (g : Guard) (p xa : Fin 8) (ma : Fin 4) (xb : Fin 8) (mb : Fin 4) (u : List Upset) (s : State) :
    Host.Outcome State Fault Refusal :=
  done (s.issue i 2 g (xa == xb) (opLd2 i.e p xa ma xb mb u))

/-- LDS (R379). -/
def execLds (i : Issue) (g : Guard) (a : SpecMode) (r : RegName) (u : List Upset) (s : State) :
    Host.Outcome State Fault Refusal :=
  done (s.specForm i g a (regDest r).isNone (fun x => opLds i.e x r u))

/-- STS (R379). -/
def execSts (i : Issue) (g : Guard) (a : SpecMode) (r : RegName) (s : State) : Host.Outcome State Fault Refusal :=
  done (s.specForm i g a (((s.eng i.e).regRead r).isNone || stsBad r a.k) (fun x => opSts i.e x r))

/-- MOVE_TO_REGISTER (R367, R322). -/
def execMoveToRegister (i : Issue) (r : RegName) (w : Fin 16) (s : State) : Host.Outcome State Fault Refusal :=
  done (s.issue i 1 {} (moveToBad s i.e r w) (opMoveTo i.e r w))

/-- MOVE_FROM_REGISTER (R367). -/
def execMoveFromRegister (i : Issue) (r : RegName) (w : Fin 16) (s : State) : Host.Outcome State Fault Refusal :=
  done (s.issue i 1 {} ((s.eng i.e).regRead r).isNone (opMoveFrom i.e r w))

/-- TBL (R390 to R392). -/
def execTbl (i : Issue) (g : Guard) (d a : Fin 16) (k : Fin 8) (u : List Upset) (s : State) :
    Host.Outcome State Fault Refusal :=
  done (s.issue i 2 g false (opTbl i.e d a k false u))

/-- TBLI (R390 to R392). -/
def execTbli (i : Issue) (g : Guard) (d a : Fin 16) (k : Fin 8) (u : List Upset) (s : State) :
    Host.Outcome State Fault Refusal :=
  done (s.issue i 2 g false (opTbl i.e d a k true u))

/-- A user opcode (R394 to R399). -/
def execUserOpcode (i : Issue) (g : Guard) (slot : Fin 64) (body : Word) (u : List Upset) (badUc : List (Fin 320)) (s : State) :
    Host.Outcome State Fault Refusal :=
  done (s.userOp i g slot body.toNat u (badUc.map Fin.val))

end Sys2Proof.Machine
end

