-- ==== Sys2Proof/Machine/AluCommands.lean ====
section
/-!
DEFINITION. The word and predicate instructions of a Tabile engine (chapter 12, R361 to R363, R371 to R373).
-/

namespace Sys2Proof.Machine

/-- An operation of R361 in its short or long form: in the short form a is Wd and b is Ws; a unary operation takes b
from Ws, and its Wt is 0 (R362). -/
def State.aluForm (s : State) (i : Issue) (k : Nat) : AluForm → State
  | .short d b => s.issue i 1 {} false (opAlu i.e k d d b)
  | .long g d a b => s.issue i 2 g (aluUnary k && b != 0) (opAlu i.e k d a (if aluUnary k then a else b))

/-- MOVI and ADDI: operation `k` of R363 in the short form, operation `n` of R361 in the long form. -/
def State.immForm (s : State) (i : Issue) (k n : Nat) : ImmForm → State
  | .short d imm => s.issue i 1 {} false (opImm i.e k d imm)
  | .long g d imm => s.issue i 2 g false (opAluImm i.e n d imm)

/-- MOV (R361). -/
def execMov (i : Issue) (f : AluForm) (s : State) : Host.Outcome State Fault Refusal := done (s.aluForm i 0 f)

/-- ADD (R361). -/
def execAdd (i : Issue) (f : AluForm) (s : State) : Host.Outcome State Fault Refusal := done (s.aluForm i 1 f)

/-- ADDC (R361). -/
def execAddc (i : Issue) (f : AluForm) (s : State) : Host.Outcome State Fault Refusal := done (s.aluForm i 2 f)

/-- SUB (R361). -/
def execSub (i : Issue) (f : AluForm) (s : State) : Host.Outcome State Fault Refusal := done (s.aluForm i 3 f)

/-- SUBB (R361). -/
def execSubb (i : Issue) (f : AluForm) (s : State) : Host.Outcome State Fault Refusal := done (s.aluForm i 4 f)

/-- AND (R361). -/
def execAnd (i : Issue) (f : AluForm) (s : State) : Host.Outcome State Fault Refusal := done (s.aluForm i 5 f)

/-- OR (R361). -/
def execOr (i : Issue) (f : AluForm) (s : State) : Host.Outcome State Fault Refusal := done (s.aluForm i 6 f)

/-- XOR (R361). -/
def execXor (i : Issue) (f : AluForm) (s : State) : Host.Outcome State Fault Refusal := done (s.aluForm i 7 f)

/-- ANDN (R361). -/
def execAndn (i : Issue) (f : AluForm) (s : State) : Host.Outcome State Fault Refusal := done (s.aluForm i 8 f)

/-- NOT (R361). -/
def execNot (i : Issue) (f : AluForm) (s : State) : Host.Outcome State Fault Refusal := done (s.aluForm i 9 f)

/-- NEG (R361, R381). -/
def execNeg (i : Issue) (f : AluForm) (s : State) : Host.Outcome State Fault Refusal := done (s.aluForm i 10 f)

/-- ABS (R361, R381). -/
def execAbs (i : Issue) (f : AluForm) (s : State) : Host.Outcome State Fault Refusal := done (s.aluForm i 11 f)

/-- LSH (R361, R382). -/
def execLsh (i : Issue) (f : AluForm) (s : State) : Host.Outcome State Fault Refusal := done (s.aluForm i 12 f)

/-- ASH (R361, R382). -/
def execAsh (i : Issue) (f : AluForm) (s : State) : Host.Outcome State Fault Refusal := done (s.aluForm i 13 f)

/-- MIN (R361). -/
def execMin (i : Issue) (f : AluForm) (s : State) : Host.Outcome State Fault Refusal := done (s.aluForm i 14 f)

/-- MAX (R361). -/
def execMax (i : Issue) (f : AluForm) (s : State) : Host.Outcome State Fault Refusal := done (s.aluForm i 15 f)

/-- SWAPB (R361). -/
def execSwapb (i : Issue) (f : AluForm) (s : State) : Host.Outcome State Fault Refusal := done (s.aluForm i 16 f)

/-- SXB (R361). -/
def execSxb (i : Issue) (f : AluForm) (s : State) : Host.Outcome State Fault Refusal := done (s.aluForm i 17 f)

/-- ZXB (R361). -/
def execZxb (i : Issue) (f : AluForm) (s : State) : Host.Outcome State Fault Refusal := done (s.aluForm i 18 f)

/-- NORMW (R361). -/
def execNormw (i : Issue) (f : AluForm) (s : State) : Host.Outcome State Fault Refusal := done (s.aluForm i 19 f)

/-- MOVI (R363, R371). -/
def execMovi (i : Issue) (f : ImmForm) (s : State) : Host.Outcome State Fault Refusal := done (s.immForm i 0 0 f)

/-- ADDI (R363, R371). -/
def execAddi (i : Issue) (f : ImmForm) (s : State) : Host.Outcome State Fault Refusal := done (s.immForm i 1 1 f)

/-- LSHI (R363, R382). -/
def execLshi (i : Issue) (d : Fin 16) (imm : BitVec 6) (s : State) : Host.Outcome State Fault Refusal :=
  done (s.issue i 1 {} false (opImm i.e 2 d imm))

/-- ASHI (R363, R382). -/
def execAshi (i : Issue) (d : Fin 16) (imm : BitVec 6) (s : State) : Host.Outcome State Fault Refusal :=
  done (s.issue i 1 {} false (opImm i.e 3 d imm))

/-- BCLR (R363: IMM 5:4 is 0). -/
def execBclr (i : Issue) (d : Fin 16) (imm : BitVec 6) (s : State) : Host.Outcome State Fault Refusal :=
  done (s.issue i 1 {} (imm.toNat / 16 != 0) (opImm i.e 4 d imm))

/-- BSET (R363: IMM 5:4 is 0). -/
def execBset (i : Issue) (d : Fin 16) (imm : BitVec 6) (s : State) : Host.Outcome State Fault Refusal :=
  done (s.issue i 1 {} (imm.toNat / 16 != 0) (opImm i.e 5 d imm))

/-- BTGL (R363: IMM 5:4 is 0). -/
def execBtgl (i : Issue) (d : Fin 16) (imm : BitVec 6) (s : State) : Host.Outcome State Fault Refusal :=
  done (s.issue i 1 {} (imm.toNat / 16 != 0) (opImm i.e 6 d imm))

/-- ANDI (R371). -/
def execAndi (i : Issue) (g : Guard) (d : Fin 16) (imm : Word) (s : State) : Host.Outcome State Fault Refusal :=
  done (s.issue i 2 g false (opAluImm i.e 5 d imm))

/-- ORI (R371). -/
def execOri (i : Issue) (g : Guard) (d : Fin 16) (imm : Word) (s : State) : Host.Outcome State Fault Refusal :=
  done (s.issue i 2 g false (opAluImm i.e 6 d imm))

/-- MOVX (R371): with H at 1, imm16 bits 15:8 are 0. -/
def execMovx (i : Issue) (g : Guard) (high : Bool) (k : Fin 8) (imm : Word) (s : State) :
    Host.Outcome State Fault Refusal :=
  done (s.issue i 2 g (high && decide (256 ≤ imm.toNat)) (opMovx high k imm))

/-- MOVM (R371). -/
def execMovm (i : Issue) (g : Guard) (k : Fin 8) (imm : Word) (s : State) : Host.Outcome State Fault Refusal :=
  done (s.issue i 2 g false (opMovm k imm))

/-- MOVL (R371). -/
def execMovl (i : Issue) (g : Guard) (k : Fin 8) (imm : Word) (s : State) : Host.Outcome State Fault Refusal :=
  done (s.issue i 2 g false (opMovl k imm))

/-- CMP (R372). -/
def execCmp (i : Issue) (g : Guard) (d : Fin 8) (cond : Fin 16) (a b : Fin 16) (s : State) :
    Host.Outcome State Fault Refusal :=
  done (s.issue i 2 g (decide (12 ≤ cond.val)) (opCmp i.e d cond a b))

/-- CMPI (R372). -/
def execCmpi (i : Issue) (g : Guard) (d : Fin 8) (cond : Fin 16) (a : Fin 16) (imm : BitVec 9) (s : State) :
    Host.Outcome State Fault Refusal :=
  done (s.issue i 2 g (decide (12 ≤ cond.val)) (opCmpi i.e d cond a imm))

/-- ACMP (R372): COND 0 to 5. -/
def execAcmp (i : Issue) (g : Guard) (d : Fin 8) (cond : Fin 16) (a b : Fin 4) (s : State) :
    Host.Outcome State Fault Refusal :=
  done (s.issue i 2 g (decide (6 ≤ cond.val)) (opAcmp i.e d cond a b))

/-- PLOG (R373). -/
def execPlog (i : Issue) (g : Guard) (d a b : Fin 8) (op : Fin 8) (s : State) : Host.Outcome State Fault Refusal :=
  done (s.issue i 2 g (plogBad a b op) (opPlog i.e d a b op))

/-- BTST (R373). -/
def execBtst (i : Issue) (g : Guard) (d : Fin 8) (a bit : Fin 16) (inv : Bool) (s : State) :
    Host.Outcome State Fault Refusal :=
  done (s.issue i 2 g false (opBtst i.e d a bit inv))

end Sys2Proof.Machine
end

