-- ==== Sys2Proof/Machine/ChannelCommands.lean ====
section
/-!
DEFINITION. The commands of chapters 05 and 06: correlator channels, diversity and records.
-/

namespace Sys2Proof.Machine

/-- START (R152). -/
def execStart (m : Master) (c : Fin 192) (s : State) : Host.Outcome State Fault Refusal :=
  done (s.busWrite m 0x705004 (BitVec.ofNat 16 (1 * 8192 + c.val)))

/-- TRACK (R151). -/
def execTrack (m : Master) (c : Fin 192) (s : State) : Host.Outcome State Fault Refusal :=
  done (s.busWrite m 0x705004 (BitVec.ofNat 16 (2 * 8192 + c.val)))

/-- PULL (R151). -/
def execPull (m : Master) (c : Fin 192) (s : State) : Host.Outcome State Fault Refusal :=
  done (s.busWrite m 0x705004 (BitVec.ofNat 16 (3 * 8192 + c.val)))

/-- STOP (R151, R155). -/
def execStop (m : Master) (c : Fin 192) (s : State) : Host.Outcome State Fault Refusal :=
  done (s.busWrite m 0x705004 (BitVec.ofNat 16 (4 * 8192 + c.val)))

/-- RELEASE (R151). -/
def execRelease (m : Master) (c : Fin 192) (s : State) : Host.Outcome State Fault Refusal :=
  done (s.busWrite m 0x705004 (BitVec.ofNat 16 (5 * 8192 + c.val)))

/-- DESC_WRITE (R146, R159). -/
def execDescWrite (m : Master) (c : Fin 192) (word : Fin 64) (v : Word) (s : State) :
    Host.Outcome State Fault Refusal :=
  done (s.busWrite m (0x640000 + c * 64 + word) v)

/-- STALE_LIMIT (R154). -/
def execStaleLimit (c : Fin 192) (s : State) : Host.Outcome State Fault Refusal := done (s.staleLimit c)

/-- PERIOD_END (R191). -/
def execPeriodEnd (c : Fin 192) (badParity : List (Fin 48)) (s : State) : Host.Outcome State Fault Refusal :=
  done (s.periodEnd c (badParity.map Fin.val))

/-- DIV_DECISION (R174). -/
def execDivDecision (c : Fin 192) (a b : List Adc) (s : State) : Host.Outcome State Fault Refusal :=
  done (s.divDecision c a b)

/-- DPHI_LAPSE (R180). -/
def execDphiLapse (c : Fin 192) (s : State) : Host.Outcome State Fault Refusal := done (s.dphiLapse c)

/-- DIR_SUSPECT (R187). -/
def execDirSuspect (g : Fin 8) (s : State) : Host.Outcome State Fault Refusal := done (s.dirSuspect g)

end Sys2Proof.Machine
end

