-- ==== Sys2Proof/Machine/FaultCommands.lean ====
section
/-!
DEFINITION. The commands of chapter 19: the fault ring.
-/

namespace Sys2Proof.Machine

/-- FLT_POP (R562). -/
def execFltPop (m : Master) (v : Word) (s : State) : Host.Outcome State Fault Refusal := done (s.busWrite m 0x712004 v)

/-- FLT_SW_GO (R564). -/
def execFltSwGo (m : Master) (s : State) : Host.Outcome State Fault Refusal := done (s.writeField m R.FLT_SW_GO_GO 1)

/-- FLT_PEND_CLEAR (R565). -/
def execFltPendClear (m : Master) (i : Fin 2) (v : Word) (s : State) : Host.Outcome State Fault Refusal :=
  done (s.busWrite m (0x712008 + i) v)

end Sys2Proof.Machine
end

