-- ==== Sys2Proof/Machine/FlowCommands.lean ====
section
/-!
DEFINITION. The control-flow instructions of a Tabile engine (chapter 12, R360, R366, R380, R385 to R389).
-/

namespace Sys2Proof.Machine

/-- NOP (R360). -/
def execNop (i : Issue) (s : State) : Host.Outcome State Fault Refusal :=
  done (s.issue i 1 {} false (fun t => .regs t []))

/-- RET (R360, R380). -/
def execRet (i : Issue) (g : Option Guard) (s : State) : Host.Outcome State Fault Refusal :=
  let e := s.eng i.e
  match g with
  | none => done (s.issue i 1 {} (e.branchBad 1) (opJump e.lk.toNat))
  | some c => done (s.issue i 2 c (e.branchBad 2) (opJump e.lk.toNat))

/-- RTT (R351, R360). -/
def execRtt (i : Issue) (s : State) : Host.Outcome State Fault Refusal :=
  done (s.issue i 1 {} ((s.eng i.e).branchBad 1) (fun t => .ok t [] 0 0 .rtt))

/-- FENCE (R335). -/
def execFence (i : Issue) (s : State) : Host.Outcome State Fault Refusal := done (s.issue i 1 {} false (opFence i.e))

/-- SWI (R346, R360): the handler reads `code` from the parcel. -/
def execSwi (i : Issue) (_code : Fin 256) (s : State) : Host.Outcome State Fault Refusal :=
  done (s.issue i 1 {} false (fun t => .trap t 6))

/-- BRR (R360). -/
def execBrr (i : Issue) (k : Fin 8) (s : State) : Host.Outcome State Fault Refusal :=
  let e := s.eng i.e
  done (s.issue i 1 {} (e.branchBad 1) (opJump (e.xr k)))

/-- CALLR (R360). -/
def execCallr (i : Issue) (k : Fin 8) (s : State) : Host.Outcome State Fault Refusal :=
  let e := s.eng i.e
  done (s.issue i 1 {} (e.branchBad 1) (opCall i.e 1 (e.xr k)))

/-- LBRK (R360, R387, R389). -/
def execLbrk (i : Issue) (level : Fin 2) (s : State) : Host.Outcome State Fault Refusal :=
  done (s.issue i 1 {} (s.eng i.e).tm (fun t => .ok t [{ dist := 3, dest := .lc level, val := 0 }] 0 0 (.close level)))

/-- TEND (R360, R388, R405). -/
def execTend (i : Issue) (s : State) : Host.Outcome State Fault Refusal :=
  done (s.issue i 1 {} ((s.eng i.e).loopNear 1) (fun t => .ok t [] 0 0 .tend))

/-- BRA (R366). -/
def execBra (i : Issue) (ofs : BitVec 12) (s : State) : Host.Outcome State Fault Refusal :=
  let e := s.eng i.e
  done (s.issue i 1 {} (e.branchBad 1) (opJump (unsignedOf 15 (e.pc + ofs.toInt))))

/-- CALL (R366, R380). -/
def execCall (i : Issue) (f : BitVec 12 ⊕ (Guard × BitVec 15)) (s : State) : Host.Outcome State Fault Refusal :=
  let e := s.eng i.e
  match f with
  | .inl ofs => done (s.issue i 1 {} (e.branchBad 1) (opCall i.e 1 (unsignedOf 15 (e.pc + ofs.toInt))))
  | .inr (c, t) => done (s.issue i 2 c (e.branchBad 2) (opCall i.e 2 t.toNat))

/-- BR (R380). -/
def execBr (i : Issue) (g : Guard) (target : BitVec 15) (s : State) : Host.Outcome State Fault Refusal :=
  done (s.issue i 2 g ((s.eng i.e).branchBad 2) (opJump target.toNat))

/-- LOOPI (R380, R385): COUNT 0 is reserved. -/
def execLoopi (i : Issue) (g : Guard) (level : Fin 2) (count : BitVec 10) (len : BitVec 6) (s : State) :
    Host.Outcome State Fault Refusal :=
  done (s.issue i 2 g ((s.eng i.e).loopBad || count == 0) (opLoop level count.toNat (len.toNat + 1)))

/-- LOOPR (R380, R385). -/
def execLoopr (i : Issue) (g : Guard) (level : Fin 2) (a : Fin 16) (len : BitVec 12) (s : State) :
    Host.Outcome State Fault Refusal :=
  let e := s.eng i.e
  done (s.issue i 2 g e.loopBad (opLoop level (e.wr a).toNat (len.toNat + 1)))

end Sys2Proof.Machine
end

