-- ==== Sys2Proof/Machine/FrontEndCommands.lean ====
section
/-!
DEFINITION. The commands of chapters 03 and 04: aerial front ends and sample conditioning.
-/

namespace Sys2Proof.Machine

/-- FE_ENABLE (R94). -/
def execFeEnable (m : Master) (a : Fin 2) (s : State) : Host.Outcome State Fault Refusal :=
  done (s.writeField m (R.FE_CTRL_ENABLE a) 1)

/-- FE_DISABLE (R95). -/
def execFeDisable (m : Master) (a : Fin 2) (s : State) : Host.Outcome State Fault Refusal :=
  done (s.writeField m (R.FE_CTRL_ENABLE a) 0)

/-- PATH_DISABLE (R96). -/
def execPathDisable (m : Master) (a : Fin 2) (b : Fin 3) (s : State) : Host.Outcome State Fault Refusal :=
  done (s.writeField m (pathEnFld a b) 0)

/-- PATH_ENABLE (R96). -/
def execPathEnable (m : Master) (a : Fin 2) (b : Fin 3) (s : State) : Host.Outcome State Fault Refusal :=
  done (s.writeField m (pathEnFld a b) 1)

/-- CLEAR (R95). -/
def execClear (m : Master) (a : Fin 2) (s : State) : Host.Outcome State Fault Refusal :=
  done (s.writeField m (R.FE_CMD_CLEAR a) 1)

/-- RECAL (R97). -/
def execRecal (m : Master) (a : Fin 2) (b : Fin 3) (s : State) : Host.Outcome State Fault Refusal :=
  done (s.writeField m (R.FE_CMD_RECAL a) (2 ^ b.val))

/-- BIAS_SETTLE (R94). -/
def execBiasSettle (a : Fin 2) (s : State) : Host.Outcome State Fault Refusal := done (s.biasSettle a)

/-- BIAS_SHORT (R78). -/
def execBiasShort (a : Fin 2) (s : State) : Host.Outcome State Fault Refusal := done (s.biasShort a)

/-- BIAS_RETRY (R79). -/
def execBiasRetry (a : Fin 2) (held : Bool) (s : State) : Host.Outcome State Fault Refusal := done (s.biasRetry a held)

/-- VIN_FAULT (R80). -/
def execVinFault (volt : Nat) (s : State) : Host.Outcome State Fault Refusal := done (s.vinFault volt)

/-- VIN_RECOVER (R80). -/
def execVinRecover (s : State) : Host.Outcome State Fault Refusal := done s.vinRecover

/-- LO_CAL_DONE (R89). -/
def execLoCalDone (ok : Bool) (bands : List (Fin 64)) (s : State) : Host.Outcome State Fault Refusal :=
  done (s.loCalDone ok (bands.map Fin.val))

/-- LO_LOCK (R88, R91, R92). -/
def execLoLock (b : Fin 3) (counts : List Nat) (s : State) : Host.Outcome State Fault Refusal := done (s.loWindows b counts)

/-- LO_LOCK_LOST (R88, R92). -/
def execLoLockLost (b : Fin 3) (counts : List Nat) (s : State) : Host.Outcome State Fault Refusal :=
  done (s.loWindows b counts)

/-- LO_LOCK_TIMEOUT (R92). -/
def execLoLockTimeout (a : Option (Fin 2)) (s : State) : Host.Outcome State Fault Refusal :=
  done (s.loLockTimeout (a.map Fin.val))

/-- PATH_CAL_DONE (R98). -/
def execPathCalDone (a : Fin 2) (cal : List PathCal) (s : State) : Host.Outcome State Fault Refusal :=
  done (s.pathCalDone a cal)

/-- AGC_WINDOW (R81 to R83). -/
def execAgcWindow (i : Fin 6) (adc : List Adc) (s : State) : Host.Outcome State Fault Refusal := done (s.agcWindow i adc)

/-- SPECTRUM (R112, R115 to R117, R560). -/
def execSpectrum (badParity : List (Nat × Nat)) (s : State) : Host.Outcome State Fault Refusal :=
  done (s.spectrum badParity)

/-- NOTCH_TRACK (R113). -/
def execNotchTrack (k : Fin 48) (up : Bool) (s : State) : Host.Outcome State Fault Refusal := done (s.notchTrack k up)

end Sys2Proof.Machine
end

