-- ==== Sys2Proof/Machine/GateCommands.lean ====
section
/-!
DEFINITION. The commands of chapter 10: the Sluice unit.
-/

namespace Sys2Proof.Machine

/-- ARM (R308). -/
def execArm (m : Master) (n : Fin 16) (s : State) : Host.Outcome State Fault Refusal :=
  done (s.busWrite m 0x70A005 (BitVec.ofNat 16 (1 * 8192 + n.val)))

/-- DISABLE (R308). -/
def execDisable (m : Master) (n : Fin 16) (s : State) : Host.Outcome State Fault Refusal :=
  done (s.busWrite m 0x70A005 (BitVec.ofNat 16 (2 * 8192 + n.val)))

/-- CLOSE_NOW (R308). -/
def execCloseNow (m : Master) (n : Fin 16) (s : State) : Host.Outcome State Fault Refusal :=
  done (s.busWrite m 0x70A005 (BitVec.ofNat 16 (3 * 8192 + n.val)))

/-- GATE_BOUNDARY (R306). -/
def execGateBoundary (n : Fin 16) (s : State) : Host.Outcome State Fault Refusal := done (s.gateBoundary n)

/-- GATE_EDGE (R302). -/
def execGateEdge (n : Fin 16) (s : State) : Host.Outcome State Fault Refusal := done (s.gateEdge n)

/-- GATE_TRIP (R309). -/
def execGateTrip (n : Fin 16) (s : State) : Host.Outcome State Fault Refusal := done (s.gateTrip n)

/-- ARM_TIMEOUT (R308). -/
def execArmTimeout (n : Fin 16) (s : State) : Host.Outcome State Fault Refusal := done (s.armTimeout n)

end Sys2Proof.Machine
end

