-- ==== Sys2Proof/Machine/LinkCommands.lean ====
section
/-!
DEFINITION. The commands of chapter 16: the Confluence link.
-/

namespace Sys2Proof.Machine

/-- LINK_UP (R492). -/
def execLinkUp (p : Fin 2) (chars : List LinkChar) (s : State) : Host.Outcome State Fault Refusal := done (s.linkUp p chars)

/-- LINK_DOWN (R492). -/
def execLinkDown (p : Fin 2) (chars : List LinkChar) (s : State) : Host.Outcome State Fault Refusal := done (s.linkDown p chars)

/-- BEACON_TX (R496). -/
def execBeaconTx (s : State) : Host.Outcome State Fault Refusal := done s.beaconTx

/-- BEACON_RX (R497). -/
def execBeaconRx (p : Fin 2) (frame : List (BitVec 8)) (whole : Bool) (ofs : Nat) (s : State) :
    Host.Outcome State Fault Refusal :=
  done (s.beaconRx p (frame.map BitVec.toNat) whole ofs)

/-- LEAVE_RX (R499). -/
def execLeaveRx (p : Fin 2) (frame : List (BitVec 8)) (whole : Bool) (s : State) : Host.Outcome State Fault Refusal :=
  done (s.leaveRx p (frame.map BitVec.toNat) whole)

/-- NEIGHBOUR_TIMEOUT (R499). -/
def execNeighbourTimeout (p : Fin 2) (s : State) : Host.Outcome State Fault Refusal := done (s.neighbourTimeout p)

/-- AGREEMENT_LOSS (R503). -/
def execAgreementLoss (s : State) : Host.Outcome State Fault Refusal := done s.agreementLoss

/-- AGREEMENT_RISE (R503). -/
def execAgreementRise (s : State) : Host.Outcome State Fault Refusal := done s.agreementRise

/-- DEGRADED (R502). -/
def execDegraded (s : State) : Host.Outcome State Fault Refusal := done s.cflDegrade

/-- CFL_ENABLE (R500): CFL_CTRL is written with EN at 1. -/
def execCflEnable (m : Master) (v : Word) (s : State) : Host.Outcome State Fault Refusal :=
  done (s.busWrite m 0x711003 (v ||| 0x8000))

/-- CFL_DISABLE (R504): CFL_CTRL is written with EN at 0. -/
def execCflDisable (m : Master) (v : Word) (s : State) : Host.Outcome State Fault Refusal :=
  done (s.busWrite m 0x711003 (v &&& 0x7FFF))

/-- PORT_DISABLE (R494, R511): a write of CFL_CTRL that clears a PORT_EN bit. -/
def execPortDisable (m : Master) (v : Word) (s : State) : Host.Outcome State Fault Refusal :=
  done (s.busWrite m 0x711003 v)

/-- USER_TX (R506): CFL_TX_CMD is written with GO at 1. -/
def execUserTx (m : Master) (v : Word) (s : State) : Host.Outcome State Fault Refusal :=
  done (s.busWrite m 0x711028 (v ||| 0x8000))

/-- USER_RX (R506, R507). -/
def execUserRx (p : Fin 2) (frame : List (BitVec 8)) (whole : Bool) (s : State) : Host.Outcome State Fault Refusal :=
  done (s.userRx p (frame.map BitVec.toNat) whole)

/-- CFL_PPS_OUT (R508). -/
def execCflPpsOut (s : State) : Host.Outcome State Fault Refusal := done (s.timePulse 4)

/-- CFL_PPS_IN (R508). -/
def execCflPpsIn (ofs : Nat) (s : State) : Host.Outcome State Fault Refusal := done (s.cflPpsIn ofs)

end Sys2Proof.Machine
end

