-- ==== Sys2Proof/Machine/MacCommands.lean ====
section
/-!
DEFINITION. The multiply, accumulator and division instructions of a Tabile engine (chapter 12, R365, R374 to R376, R378).
-/

namespace Sys2Proof.Machine

/-- MPY, MAC and MSU in their short and long forms (R365, R375). -/
def State.mulForm (s : State) (i : Issue) (x : Nat → Nat → Nat → State → Effect) : MulForm → State
  | .short d a b => s.issue i 1 {} false (x d a b)
  | .long g d a b => s.issue i 2 g false (x d a b)

/-- MPY (R365, R375). -/
def execMpy (i : Issue) (f : MulForm) (s : State) : Host.Outcome State Fault Refusal := done (s.mulForm i (opMpy i.e) f)

/-- MAC (R365, R375). -/
def execMac (i : Issue) (f : MulForm) (s : State) : Host.Outcome State Fault Refusal := done (s.mulForm i (opMac i.e) f)

/-- MSU (R365, R375). -/
def execMsu (i : Issue) (f : MulForm) (s : State) : Host.Outcome State Fault Refusal := done (s.mulForm i (opMsu i.e) f)

/-- MPYW (R375). -/
def execMpyw (i : Issue) (g : Guard) (d a b : Fin 16) (s : State) : Host.Outcome State Fault Refusal :=
  done (s.issue i 2 g false (opMpyw i.e d a b))

/-- DMAC (R375). -/
def execDmac (i : Issue) (g : Guard) (f : M2) (s : State) : Host.Outcome State Fault Refusal :=
  done (s.issue i 2 g false (opDmac i.e f))

/-- CMAC (R375): Ad is even. -/
def execCmac (i : Issue) (g : Guard) (f : M2) (s : State) : Host.Outcome State Fault Refusal :=
  done (s.issue i 2 g (f.d.val % 2 != 0) (opCmac i.e f))

/-- CMACJ (R375): Ad is even. -/
def execCmacj (i : Issue) (g : Guard) (f : M2) (s : State) : Host.Outcome State Fault Refusal :=
  done (s.issue i 2 g (f.d.val % 2 != 0) (opCmacj i.e f))

/-- QMAC (R375): Ad is 0. -/
def execQmac (i : Issue) (g : Guard) (f : M2) (s : State) : Host.Outcome State Fault Refusal :=
  done (s.issue i 2 g (f.d.val != 0) (opQmac i.e f))

/-- AADD (R374). -/
def execAadd (i : Issue) (g : Guard) (d a b : Fin 4) (s : State) : Host.Outcome State Fault Refusal :=
  done (s.issue i 2 g false (opAadd i.e d a b))

/-- ASUB (R374). -/
def execAsub (i : Issue) (g : Guard) (d a b : Fin 4) (s : State) : Host.Outcome State Fault Refusal :=
  done (s.issue i 2 g false (opAsub i.e d a b))

/-- ANEG (R374, R381). -/
def execAneg (i : Issue) (g : Guard) (d a : Fin 4) (s : State) : Host.Outcome State Fault Refusal :=
  done (s.issue i 2 g false (opAneg i.e d a))

/-- AABS (R374, R381). -/
def execAabs (i : Issue) (g : Guard) (d a : Fin 4) (s : State) : Host.Outcome State Fault Refusal :=
  done (s.issue i 2 g false (opAabs i.e d a))

/-- ASHI of an accumulator (R374, R383). -/
def execAshiAcc (i : Issue) (g : Guard) (d a : Fin 4) (count : BitVec 7) (log : Bool) (s : State) :
    Host.Outcome State Fault Refusal :=
  done (s.issue i 2 g false (opAshift i.e d a count.toInt log))

/-- ASHR (R374, R383). -/
def execAshr (i : Issue) (g : Guard) (d a : Fin 4) (c : Fin 16) (log : Bool) (s : State) :
    Host.Outcome State Fault Refusal :=
  done (s.issue i 2 g false (opAshr i.e d a c log))

/-- AMOVW (R374). -/
def execAmovw (i : Issue) (g : Guard) (d : Fin 4) (a : Fin 16) (s : State) : Host.Outcome State Fault Refusal :=
  done (s.issue i 2 g false (opAmovw i.e d a))

/-- NARROW (R340, R374). -/
def execNarrow (i : Issue) (g : Guard) (d : Fin 16) (a : Fin 4) (s : State) : Host.Outcome State Fault Refusal :=
  done (s.issue i 2 g false (opNarrow i.e d a))

/-- ASAT (R374). -/
def execAsat (i : Issue) (g : Guard) (d a : Fin 4) (s : State) : Host.Outcome State Fault Refusal :=
  done (s.issue i 2 g false (opAsat i.e d a))

/-- NORM (R374). -/
def execNorm (i : Issue) (g : Guard) (d : Fin 16) (a : Fin 4) (s : State) : Host.Outcome State Fault Refusal :=
  done (s.issue i 2 g false (opNorm i.e d a))

/-- DIV (R378, R384): Wq and Wr differ. -/
def execDiv (i : Issue) (g : Guard) (q r a b : Fin 16) (s : State) : Host.Outcome State Fault Refusal :=
  done (s.issue i 2 g (q == r) (opDiv i.e q r a b))

end Sys2Proof.Machine
end

