-- ==== Sys2Proof/Machine/MemoryCommands.lean ====
section
/-!
DEFINITION. The commands of chapter 14: the memory system.
-/

namespace Sys2Proof.Machine

/-- ECC_WRITEBACK (R434). -/
def execEccWriteback (s : State) : Host.Outcome State Fault Refusal := done s.eccWriteBack

/-- SCRUB (R436): soft errors met by the read come first. -/
def execScrub (upset : List Upset) (s : State) : Host.Outcome State Fault Refusal := done (s.upsets upset).scrub

/-- TEST_SLICE (R440 to R443). -/
def execTestSlice (hold mismatch : Bool) (upset : List Upset) (s : State) : Host.Outcome State Fault Refusal :=
  done ((s.upsets upset).testSlice hold mismatch)

/-- RETAIN (R444). -/
def execRetain (m : Master) (s : State) : Host.Outcome State Fault Refusal :=
  done (s.writeField m R.MEM_BW_CTRL_RETAIN 1)

/-- RESUME (R444). -/
def execResume (m : Master) (s : State) : Host.Outcome State Fault Refusal :=
  done (s.writeField m R.MEM_BW_CTRL_RESUME 1)

/-- BW_READY (R445). -/
def execBwReady (s : State) : Host.Outcome State Fault Refusal := done s.bwReady

/-- WIPE (R447). -/
def execWipe (m : Master) (s : State) : Host.Outcome State Fault Refusal := done (s.writeField m R.MEM_SS_CMD_WIPE 1)

/-- WIPE_DONE (R448, R514). -/
def execWipeDone (ok : Bool) (s : State) : Host.Outcome State Fault Refusal := done (s.wipeDone ok)

/-- ACC_LOCK (R457). -/
def execAccLock (m : Master) (k : Fin 4) (bits : Word) (s : State) : Host.Outcome State Fault Refusal :=
  done (s.busWrite m (0x70E010 + k) bits)

end Sys2Proof.Machine
end

