-- ==== Sys2Proof/Machine/PlacementCommands.lean ====
section
/-!
DEFINITION. The commands of chapter 13 and of engine control (chapter 11): Weir, placement, task entry, traps and semaphores.
-/

namespace Sys2Proof.Machine

/-- WEIR_DECISION (R419 to R422). -/
def execWeirDecision (p : Fin 65536) (sens : List Int) (s : State) : Host.Outcome State Fault Refusal :=
  done (s.weirDecision p sens)

/-- WEIR_LOWER (R423). -/
def execWeirLower (s : State) : Host.Outcome State Fault Refusal := done s.weirLower

/-- PLACEMENT (R410). -/
def execPlacement (s : State) : Host.Outcome State Fault Refusal := done s.placement

/-- TASK_ENTRY (R405, R412). -/
def execTaskEntry (e : Fin 8) (s : State) : Host.Outcome State Fault Refusal := done (s.taskEntry e)

/-- SPAN_OVERRUN (R413). -/
def execSpanOverrun (e : Fin 8) (s : State) : Host.Outcome State Fault Refusal := done (s.spanOverrun e)

/-- UNIT_POWER_DOWN (R424). -/
def execUnitPowerDown (u : Fin 20) (s : State) : Host.Outcome State Fault Refusal := done (s.unitPowerDown u)

/-- UNIT_WAKE (R425). -/
def execUnitWake (s : State) : Host.Outcome State Fault Refusal := done s.unitWake

/-- RESTART (R352). -/
def execRestart (m : Master) (e : Fin 8) (s : State) : Host.Outcome State Fault Refusal :=
  done (s.writeField m (R.SYS_ENG_CTRL_RESTART e) 1)

/-- BRK (R346): the register's bit, or JTAG debug itself, which is ignored where it has no access (R521). -/
def execBrk (m : Master) (e : Fin 8) (s : State) : Host.Outcome State Fault Refusal :=
  if m = 15 then done (if s.live && !s.jtagNone then s.raiseBrk e else s)
  else done (s.writeField m (R.SYS_ENG_CTRL_BRK e) 1)

/-- ASYNC_TRAP (R349). -/
def execAsyncTrap (e : Fin 8) (brk : Bool) (s : State) : Host.Outcome State Fault Refusal := done (s.asyncTrap e brk)

/-- SEM_READ (R357). -/
def execSemRead (m : Master) (n : Fin 32) (s : State) : Host.Outcome State Fault Refusal :=
  done (s.masterRead m (0x700040 + n))

/-- SEM_RELEASE (R357). -/
def execSemRelease (m : Master) (n : Fin 32) (s : State) : Host.Outcome State Fault Refusal :=
  done (s.busWrite m (0x700040 + n) 0x8000)

end Sys2Proof.Machine
end

