-- ==== Sys2Proof/Machine/PortCommands.lean ====
section
/-!
DEFINITION. The commands of chapter 15: the host port and the flash port.
-/

namespace Sys2Proof.Machine

/-- HOST_WRITE_FRAME (R465). -/
def execHostWriteFrame (n : Fin 2) (off : BitVec 7) (ws : List Word) (bits : Fin 16) (both : Bool) (s : State) :
    Host.Outcome State Fault Refusal :=
  done (s.hostWriteFrame n off.toNat ws bits both)

/-- HOST_READ_FRAME (R467). -/
def execHostReadFrame (n : Fin 2) (off : BitVec 7) (k : Nat) (late : List Nat) (bits : Fin 16) (both : Bool) (s : State) :
    Host.Outcome State Fault Refusal :=
  done (s.hostReadFrame n off.toNat k late bits both)

/-- RAW_WRITE_FRAME (R471). -/
def execRawWriteFrame (n : Fin 2) (res : BitVec 3) (len : BitVec 12) (ws : List Word) (bits : Fin 16) (both : Bool) (s : State) :
    Host.Outcome State Fault Refusal :=
  done (s.rawWriteFrame n res.toNat len.toNat ws bits both)

/-- RAW_READ_FRAME (R472). -/
def execRawReadFrame (n : Fin 2) (res : BitVec 3) (len : BitVec 12) (k : Nat) (bits : Fin 16) (both : Bool) (s : State) :
    Host.Outcome State Fault Refusal :=
  done (s.rawReadFrame n res.toNat len.toNat k bits both)

/-- XIP_FETCH (R480 to R482): a read of word `w` of the window by master `m`. -/
def execXipFetch (m : Master) (w : BitVec 23) (s : State) : Host.Outcome State Fault Refusal :=
  done (s.masterRead m (0x800000 + w.toNat))

/-- GATHER_FLUSH (R483, R484). -/
def execGatherFlush (s : State) : Host.Outcome State Fault Refusal := done s.gatherFlush

/-- XIP_FLUSH (R483). -/
def execXipFlush (m : Master) (s : State) : Host.Outcome State Fault Refusal :=
  done (s.writeField m R.FP_XIP_FLUSH_FLUSH 1)

/-- PROG_DONE (R484). -/
def execProgDone (s : State) : Host.Outcome State Fault Refusal := done s.progDone

/-- PROG_TIMEOUT (R484). -/
def execProgTimeout (wel : Bool) (s : State) : Host.Outcome State Fault Refusal := done (s.progTimeout wel)

/-- CMD_FRAME (R487). -/
def execCmdFrame (m : Master) (v : Word) (rx : List (BitVec 8)) (change : List (BitVec 31 × Word)) (s : State) :
    Host.Outcome State Fault Refusal :=
  done (s.busWrite m 0x710010 v { frame := ⟨rx, change.map (fun e => (e.1.toNat, e.2))⟩ })

/-- CMD_FRAME_DONE (R487). -/
def execCmdFrameDone (s : State) : Host.Outcome State Fault Refusal := done s.cmdFrameDone

/-- CMD_TIMEOUT (R487). -/
def execCmdTimeout (s : State) : Host.Outcome State Fault Refusal := done s.cmdTimeout

end Sys2Proof.Machine
end

