-- ==== Sys2Proof/Machine/Tick.lean ====
section
/-!
DEFINITION. The tick: what is left of the tick in progress passes, then every unit takes the tick edge
(spec/01_architecture_and_tick.md R23 to R36).
-/

namespace Sys2Proof.Machine

/-! ### Length of the tick that begins (R24, R27) -/

/-- Half a coincidence period, in units of the time base's counter: 6 system clocks at rate 0. -/
def halfCoincidence : Nat := 6 * 400000 * 2 ^ 72

/-- The tick generator at an edge: tick `k` begins at phase 0, with its length. -/
def State.tickSlip (s : State) (k : Nat) : State :=
  let s := { s with clk := { s.clk with tickCount := k, phase := 0 } }
  if s.clk.limp then { s with clk := { s.clk with tickLen := 200000 } }
  else
    let ms := 1000000 * accPerNs
    let x := s.clk.acc % ms
    let late := decide (2 * x ≤ ms)
    let d := if late then x else ms - x
    if d < halfCoincidence then { s with clk := { s.clk with tickLen := 491520 } }
    else
      let s := if s.isOn R.SYS_TICK_CFG_SLIP_FLT then s.raise 0x1103 0xFF (if late then 0 else 1) else s
      if late then { (s.addSat R.SYS_TICK_STAT_SLIP_SHORT 1) with clk := { s.clk with tickLen := 491508 } }
      else { (s.addSat R.SYS_TICK_STAT_SLIP_LONG 1) with clk := { s.clk with tickLen := 491532 } }

/-! ### Activation (R30, R32) -/

/-- The values waiting in the pending stage of the block at page `p` become active; the gates take theirs at their own
boundaries (R304). -/
def State.activatePage (s : State) (p : Nat) : State :=
  match s.pendingOf p with
  | none => s
  | some snap => if p = 0x70A then s.slcActivate snap else s.activate p snap

/-- Every block's pending values become active together, and late copies move into the pending stage. -/
def State.activateAll (s : State) : State :=
  let t := commitPages.foldl State.activatePage s
  let late := !s.late.isEmpty || s.tb.updLate.isSome
  let t := { t with stage := s.late, late := [] }
  if late then t.putB R.SYS_TICK_STAT_COMMIT_LATE true else t

/-! ### The edge -/

/-- What the tick that ends hands on: channels whose loop task was abandoned or shed, those whose loop task completed (R154),
and what the paths gave. -/
structure TickEnd where
  stale : List Nat
  ran : List Nat
  outs : List PathOut

/-- The end of the tick in progress: records still to be posted (R192), the samples that came, and what each unit measured and
did over the tick (R20, R93, R105). -/
def State.tickEnds (s : State) (env : TickEnv) : TickEnd × State :=
  let s := forUp 6 (fun i s => s.takeSamples i (env.adc.getD i [])) (s.postBelow 192)
  let n := s.samplesInTick
  let outs := s.pathOuts
  let dec := s.decTick outs
  let s := ((s.feTick env.bias env.vin).capTickEnd n dec.1).dfeTickEnd n outs dec.2
  let r := (s.chTickEnd outs n).plcTickEnd
  ({ stale := r.1.1, ran := r.1.2, outs := outs }, r.2)

/-- The count moves on to `k`, and the faults of the edge carry the tick that begins. -/
def State.tickMoves (s : State) (k : Nat) : State :=
  { s with
    clk := { s.clk with tickCount := k, phase := 0, smp := 0, smpFrom := 0 }
    flt := { s.flt with now := s.flt.now.map (fun e => { e with tick := k, phase := 0 }) } }

/-- What each unit does at the edge, after activation; `o` is the state before it. The synthesiser comes before the time base,
which takes the frequency steps of the edge (R237). -/
def State.tickBegins (s o : State) (env : TickEnv) (r : TickEnd) : State :=
  let s := s.loRelock ((List.range 3).map (fun b => o.act (R.LO_BAND_CFG_LO_N b)))
  let s := if (o.pendingOf 0x70B).isSome then s.plcActivated o else s
  let s := (s.weirTickEdge.chTickEdge o r.stale r.ran).srchTickEdge o
  let s := ((s.synTick o env.cval).tbTick env.die env.ext).tpTick o
  let s := (s.dfeTickStart r.outs).plcTickStart
  let s := (s.lcsTick.cflTick (o.pendingOf 0x711).isSome).updTick
  let s := s.memTick.lpcAdd env.lpc
  { s with host := { s.host with rejSeen := [false, false] }, flash := { s.flash with offSeen := false } }.tickSlip o.clk.tickCount

/-- TICK: the clocks left of the tick pass, the writes that the engines have buffered are performed, and the tick edge
fires. Before the boot ROM releases the tick, and once one of those writes has reset the device, there is none (R37, R539). -/
def State.tick (s : State) (env : TickEnv) : State :=
  if !s.clk.running then s
  else
    let s := forUp 8 (fun e s => s.drainAll e) (s.pass (s.clk.tickLen - s.clk.phase))
    if !s.clk.running then s
    else
      let k := (s.clk.tickCount + 1) % 2 ^ 32
      let (r, s) := s.tickEnds env
      let o := s.tickMoves k
      o.activateAll.tickBegins o env r

/-! ### The first tick edge (R539 step 7) -/

/-- The clocks run to the next coincidence edge, counted from the last release (R21). -/
def State.toCoincidence (s : State) : State :=
  if s.clk.limp then s else s.elapse ((12 - (s.clk.total - s.clk.relAt) % 12) % 12)

/-- The tick generator starts: count 0, and the edge is taken by every unit as any other (R23, R153, R163); `env` gives what is
measured at it. No tick ends at it. -/
def State.firstEdge (s : State) (env : TickEnv) : State :=
  let o := { s with
    clk := { s.clk with running := true, phase := 0, tickCount := 0, smp := 0, smpFrom := 0 }
    pwr := { s.pwr with stage := .running }, start := { s.start with phase := .complete } }
  o.activateAll.tickBegins o env { stale := [], ran := [], outs := [] }

/-- BOOT_COMPLETE (R539 step 7): at the first whole millisecond of the time base, on the coincidence edge that is not before
it (R23; log entry 137), the first tick edge fires, and the engines are released. -/
def State.bootComplete (s : State) (env : TickEnv) : State :=
  if s.start.phase != .passed || s.pwr.stage != .boot then s
  else
    let ms := 1000000 * accPerNs
    match s.runTo ((s.clk.acc + ms - 1) / ms * ms) with
    | none => s
    | some s => (s.toCoincidence.firstEdge env).releaseEngines.rearm

end Sys2Proof.Machine
end

