-- ==== Sys2Proof/Machine/RegisterCommands.lean ====
section
/-!
DEFINITION. The commands of chapters 00 and 01: accesses to registers, COMMIT and the tick.
-/

namespace Sys2Proof.Machine

/-- REGISTER_WRITE (R11 to R17). -/
def execRegisterWrite (m : Master) (gwa : Gwa) (v : Word) (s : State) : Host.Outcome State Fault Refusal :=
  done (s.masterWrite m gwa.toNat v)

/-- The GWA of a block's COMMIT register. -/
def commitReg : CommitBlock → Nat
  | .fe => 0x702001
  | .lo => 0x703001
  | .dfe => 0x704001
  | .ch => 0x705001
  | .srch => 0x706001
  | .tb => 0x707001
  | .tp => 0x708001
  | .syn => 0x709001
  | .slc => 0x70A001
  | .plc => 0x70B001
  | .cfl => 0x711001

/-- COMMIT (R30 to R32). -/
def execCommit (m : Master) (b : CommitBlock) (s : State) : Host.Outcome State Fault Refusal :=
  done (s.busWrite m (commitReg b) 1)

/-- SHADOW_READ (R37). -/
def execShadowRead (m : Master) (gwa : Gwa) (s : State) : Host.Outcome State Fault Refusal :=
  done (s.masterRead m gwa.toNat)

/-- RC_READ (R12). -/
def execRcRead (m : Master) (gwa : Gwa) (s : State) : Host.Outcome State Fault Refusal :=
  done (s.masterRead m gwa.toNat)

/-- RESERVED_ACCESS (R39): a read gives 0, a write is dropped. -/
def execReservedAccess (m : Master) (gwa : Gwa) (w : Option Word) (s : State) : Host.Outcome State Fault Refusal :=
  match w with
  | none => done (s.masterRead m gwa.toNat)
  | some v => done (s.masterWrite m gwa.toNat v)

/-- TICK (R23 to R36). -/
def execTick (env : TickEnv) (s : State) : Host.Outcome State Fault Refusal := done (s.tick env)

end Sys2Proof.Machine
end

