-- ==== Sys2Proof/Machine/SearchCommands.lean ====
section
/-!
DEFINITION. The commands of chapter 07: the search engine.
-/

namespace Sys2Proof.Machine

/-- JOB_SUBMIT (R211): word 0 is written with STATE 1. -/
def execJobSubmit (m : Master) (j : Fin 6144) (w : Word) (s : State) : Host.Outcome State Fault Refusal :=
  done (s.busWrite m (0x650000 + j * 8) (putBits w 15 13 1))

/-- JOB_ENTRY_WRITE (R211). -/
def execJobEntryWrite (m : Master) (j : Fin 6144) (word : Fin 8) (w : Word) (s : State) :
    Host.Outcome State Fault Refusal :=
  done (s.busWrite m (0x650000 + j * 8 + word) w)

/-- JOB_DISPATCH (R212). -/
def execJobDispatch (s : State) : Host.Outcome State Fault Refusal := done s.jobDispatch

/-- JOB_COMPLETE (R218). -/
def execJobComplete (pipe : Fin 4) (u : List Upset) (s : State) : Host.Outcome State Fault Refusal :=
  done (s.jobComplete pipe u)

/-- CAPTURE_OVERWRITE (R215). -/
def execCaptureOverwrite (pipe : Fin 4) (s : State) : Host.Outcome State Fault Refusal := done (s.captureOverwrite pipe)

/-- SRCH_ABORT (R216). -/
def execSrchAbort (m : Master) (j : Fin 8192) (s : State) : Host.Outcome State Fault Refusal :=
  done (s.writeField m R.SRCH_ABORT_JOB j)

/-- RES_RD_WRITE (R218). -/
def execResRdWrite (m : Master) (rd : Word) (s : State) : Host.Outcome State Fault Refusal :=
  done (s.busWrite m 0x706012 rd)

/-- SNAP_DONE (R202). -/
def execSnapDone (s : State) : Host.Outcome State Fault Refusal := done s.snapDone

end Sys2Proof.Machine
end

