-- ==== Sys2Proof/Machine/Assist.lean ====
section
/-!
DEFINITION. The crypto assist at work: what an operation reads, computes and writes when it ends
(spec/17_lifecycle_otp_security.md R530).
-/

namespace Sys2Proof.Machine

/-- What accesses of the assist give: words and the state after them; a denied access, which ends the operation; or a wait
for the flash port. -/
inductive Fetched where
  | words (ws : List Word) (s : State)
  | denied (s : State)
  | wait

/-- The access tables deny master `m` an access of kind `k` to `a` (R458). -/
def State.denies (s : State) (m a : Nat) (k : AccKind) : Bool :=
  match (regionOf a).target with
  | some t => !s.allowed m t k
  | none => false

/-- The assist reads `n` words from `a` as master `m`, in order. -/
def State.assistReads (s : State) (m a : Nat) : Nat → Fetched
  | 0 => .words [] s
  | n + 1 =>
    match s.busRead? m (a % 2 ^ 24) with
    | none => .wait
    | some (w, t) =>
      if s.denies m (a % 2 ^ 24) .read then .denied t
      else match t.assistReads m (a + 1) n with
        | .words ws u => .words (w :: ws) u
        | r => r

/-- The assist writes words upward from `a` as master `m`. -/
def State.assistWrites (s : State) (m a : Nat) : List Word → Fetched
  | [] => .words [] s
  | w :: t =>
    let (ok, u) := s.busOffer m (a % 2 ^ 24) w {}
    if !ok then .wait
    else if s.denies m (a % 2 ^ 24) .write then .denied u
    else u.assistWrites m (a + 1) t

/-- The operation ends: DONE, and ERR if `err`. -/
def State.assistEnds (s : State) (err : Bool) : State :=
  let s := (s.putB R.LCS_CRYPTO_STAT_BUSY false).putB R.LCS_CRYPTO_STAT_DONE true
  let s := if err then s.putB R.LCS_CRYPTO_STAT_ERR true else s
  { s with lcs := { s.lcs with crypto := { s.lcs.crypto with op := 0 } } }

/-- The running hash becomes `x`. -/
def State.setHash (s : State) (x : Option (List Nat × Nat)) : State :=
  { s with lcs := { s.lcs with crypto := { s.lcs.crypto with ctx := x } } }

/-- The operation breaks a rule of its own: a LEN of START or CONT that is no multiple of 64, or CONT or FINAL without a
running hash. -/
def CryptoSt.breaks (c : CryptoSt) : Bool :=
  match c.op with
  | 2 => c.len % 64 != 0
  | 3 => c.len % 64 != 0 || c.ctx.isNone
  | 4 => c.ctx.isNone
  | _ => false

/-- The operation `c` on the words it has read: HASH and FINAL write their digest, START and CONT keep the running hash,
VERIFY sets OK. -/
def State.assistRuns (s : State) (c : CryptoSt) (ws : List Word) : State :=
  let bytes := (wordBytes ws).take c.len
  let (h, n) := if c.op = 3 ∨ c.op = 4 then c.ctx.getD (shaInit, 0) else (shaInit, 0)
  let digest : State :=
    match s.assistWrites c.master c.dst (bytesWords (shaFinish h bytes (n + c.len))) with
    | .words _ s => (s.setHash none).assistEnds false
    | .denied s => s.assistEnds true
    | .wait => s
  match c.op with
  | 1 => digest
  | 4 => digest
  | 5 => (s.putB R.LCS_CRYPTO_STAT_OK (verifyWords ws)).assistEnds false
  | _ => (s.setHash (some (shaBlocks (c.len / 64) h bytes, n + c.len))).assistEnds false

/-- CRYPTO_DONE: the operation that runs ends (R530). -/
def State.cryptoDone (s : State) : State :=
  if !s.isOn R.LCS_CRYPTO_STAT_BUSY then s
  else
    let c := s.lcs.crypto
    let s' := if c.op = 5 then s.putB R.LCS_CRYPTO_STAT_OK false else s
    if c.breaks then s'.assistEnds true
    else match s'.assistReads c.master c.src (if c.op = 5 then 80 else (c.len + 1) / 2) with
      | .words ws t => t.assistRuns c ws
      | .denied t => t.assistEnds true
      | .wait => s

end Sys2Proof.Machine
end

