-- ==== Sys2Proof/Machine/SecurityCommands.lean ====
section
/-!
DEFINITION. The commands of chapter 17: lifecycle, one-time-programmable store, tamper and the crypto assist.
-/

namespace Sys2Proof.Machine

/-- LIFECYCLE_TRANSITION (R513, R514). -/
def execLifecycleTransition (m : Master) (v : Word) (s : State) : Host.Outcome State Fault Refusal :=
  done (s.busWrite m 0x701004 v)

/-- OTP_PROGRAM (R518). -/
def execOtpProgram (m : Master) (v : Word) (s : State) : Host.Outcome State Fault Refusal :=
  done (s.busWrite m 0x701009 (v ||| 0x8000))

/-- KEY_REVOKE (R523). -/
def execKeyRevoke (m : Master) (v : Word) (s : State) : Host.Outcome State Fault Refusal :=
  done (s.busWrite m 0x701020 v)

/-- KEYS_OK (R528). -/
def execKeysOk (m : Master) (s : State) : Host.Outcome State Fault Refusal := done (s.writeField m R.LCS_CMD_KEYS_OK 1)

/-- TAMPER (R527). -/
def execTamper (src : Fin 4) (stays : Bool) (s : State) : Host.Outcome State Fault Refusal := done (s.tamper src stays)

/-- TAMPER_CLEAR (R527): sources become inactive, and LCS_TAMPER_STAT is written. -/
def execTamperClear (m : Master) (inactive : List (Fin 4)) (v : Word) (s : State) : Host.Outcome State Fault Refusal :=
  done ((inactive.foldl (fun s k => s.putB ⟨0x701006, 8 + k.val, 8 + k.val⟩ false) s).busWrite m 0x701006 v)

/-- HASH (R530). -/
def execHash (m : Master) (s : State) : Host.Outcome State Fault Refusal := done (s.writeField m R.LCS_CRYPTO_CMD_OP 1)

/-- HASH_START (R530). -/
def execHashStart (m : Master) (s : State) : Host.Outcome State Fault Refusal :=
  done (s.writeField m R.LCS_CRYPTO_CMD_OP 2)

/-- HASH_CONT (R530). -/
def execHashCont (m : Master) (s : State) : Host.Outcome State Fault Refusal :=
  done (s.writeField m R.LCS_CRYPTO_CMD_OP 3)

/-- HASH_FINAL (R530). -/
def execHashFinal (m : Master) (s : State) : Host.Outcome State Fault Refusal :=
  done (s.writeField m R.LCS_CRYPTO_CMD_OP 4)

/-- VERIFY (R530). -/
def execVerify (m : Master) (s : State) : Host.Outcome State Fault Refusal :=
  done (s.writeField m R.LCS_CRYPTO_CMD_OP 5)

/-- CRYPTO_DONE (R530). -/
def execCryptoDone (s : State) : Host.Outcome State Fault Refusal := done s.cryptoDone

/-- OTP_PROGRAM_DONE (R518). -/
def execOtpProgramDone (fail : List (Fin 16 × Word)) (s : State) : Host.Outcome State Fault Refusal :=
  done (s.otpDone (fail.map (fun e => (e.1.val, e.2))))

/-- LC_TRANSITION_DONE (R514). -/
def execLcTransitionDone (s : State) : Host.Outcome State Fault Refusal := done s.lcDone

end Sys2Proof.Machine
end

