-- ==== Sys2Proof/Machine/StartCommands.lean ====
section
/-!
DEFINITION. The commands of chapter 18 and of the supplies (chapter 02): power, reset, boot, whole-second step, sleep and
hitless update.
-/

namespace Sys2Proof.Machine

/-- POWER_UP (R59 to R61). -/
def execPowerUp (r : Rail) (v33 : Bool) (s : State) : Host.Outcome State Fault Refusal :=
  done (s.powerUp (railIndex r) v33)

/-- POR_TRIP (R64). -/
def execPorTrip (r : Rail) (s : State) : Host.Outcome State Fault Refusal := done (s.porTrip (railIndex r))

/-- RST_N_FALL (R65). -/
def execRstNFall (s : State) : Host.Outcome State Fault Refusal := done s.rstNFall

/-- RESET (R63, R535): RST_N has been low for long enough. -/
def execReset (s : State) : Host.Outcome State Fault Refusal := done (s.enterReset 1)

/-- RESET_END (R63). -/
def execResetEnd (mode : Fin 8) (n : Nat) (s : State) : Host.Outcome State Fault Refusal := done (s.resetEnd mode n)

/-- SYS_RESET_GO (R535). -/
def execSysResetGo (m : Master) (s : State) : Host.Outcome State Fault Refusal :=
  done (s.writeField m R.SYS_RESET_GO 1)

/-- BOOT (R539 to R542). -/
def execBoot (a b : Nat) (bad : List (Fin 32)) (lock : Bool) (s : State) : Host.Outcome State Fault Refusal :=
  done (s.boot a b (bad.map Fin.val) lock)

/-- REF_DETECT_RETRY (R540). -/
def execRefDetectRetry (a b : Nat) (s : State) : Host.Outcome State Fault Refusal := done (s.refRetry a b)

/-- HOST_BOOT_IMAGE (R543). -/
def execHostBootImage (s : State) : Host.Outcome State Fault Refusal := done s.hostBootImage

/-- BOOT_COMPLETE (R539 step 7). -/
def execBootComplete (env : TickEnv) (s : State) : Host.Outcome State Fault Refusal := done (s.bootComplete env)

/-- SECSTEP (R545). -/
def execSecstep (m : Master) (s : State) : Host.Outcome State Fault Refusal :=
  done (s.writeField m R.SYS_SECSTEP_CTL_GO 1)

/-- SLEEP_ARM (R547). -/
def execSleepArm (m : Master) (s : State) : Host.Outcome State Fault Refusal :=
  done (s.writeField m R.SYS_SLEEP_CMD_ARM 1)

/-- LPC_ARM_EDGE (R547). -/
def execLpcArmEdge (ofs : Nat) (s : State) : Host.Outcome State Fault Refusal := done (s.lpcArmEdge ofs)

/-- SNAP (R547). -/
def execSnap (m : Master) (s : State) : Host.Outcome State Fault Refusal := done (s.writeField m R.SYS_SLEEP_CMD_SNAP 1)

/-- LPC_SNAP_EDGE (R547). -/
def execLpcSnapEdge (n ofs : Nat) (s : State) : Host.Outcome State Fault Refusal := done (s.lpcSnapEdge n ofs)

/-- LPC_LOS (R547). -/
def execLpcLos (n : Nat) (s : State) : Host.Outcome State Fault Refusal := done (s.lpcLos n)

/-- LPC_OVERFLOW (R547). -/
def execLpcOverflow (s : State) : Host.Outcome State Fault Refusal := done s.lpcOverflow

/-- UPD_VERIFY (R551). -/
def execUpdVerify (m : Master) (s : State) : Host.Outcome State Fault Refusal :=
  done (s.writeField m R.SYS_UPD_CMD_CMD 1)

/-- UPD_VERIFY_DONE (R551). -/
def execUpdVerifyDone (s : State) : Host.Outcome State Fault Refusal := done s.updVerifyDone

/-- UPD_SWITCH (R552). -/
def execUpdSwitch (m : Master) (s : State) : Host.Outcome State Fault Refusal :=
  done (s.writeField m R.SYS_UPD_CMD_CMD 2)

/-- UPD_CANCEL (R552). -/
def execUpdCancel (m : Master) (s : State) : Host.Outcome State Fault Refusal :=
  done (s.writeField m R.SYS_UPD_CMD_CMD 3)

/-- SWITCH_EDGE (R553). -/
def execSwitchEdge (s : State) : Host.Outcome State Fault Refusal := done s.switchEdge

/-- UPD_COPY (R553, R555). -/
def execUpdCopy (bad : Bool) (s : State) : Host.Outcome State Fault Refusal := done (s.updCopy bad)

/-- VDD_RET_LOSS (R536). -/
def execVddRetLoss (s : State) : Host.Outcome State Fault Refusal := done s.retLoss

/-- TAP_INSTRUCTION (R52). -/
def execTapInstruction (on : Bool) (s : State) : Host.Outcome State Fault Refusal :=
  done ({ s with pwr := { s.pwr with tapHold := on } }.gateMute)

end Sys2Proof.Machine
end

