-- ==== Sys2Proof/Machine/SynthCommands.lean ====
section
/-!
DEFINITION. The commands of chapter 09: the timing synthesiser.
-/

namespace Sys2Proof.Machine

/-- SYN_ENABLE (R273): SYN_CTRL is written with EN at 1. -/
def execSynEnable (m : Master) (v : Word) (s : State) : Host.Outcome State Fault Refusal :=
  done (s.busWrite m 0x709003 (v ||| 0x8000))

/-- SYN_DISABLE (R583): SYN_CTRL is written with EN at 0. -/
def execSynDisable (m : Master) (v : Word) (s : State) : Host.Outcome State Fault Refusal :=
  done (s.busWrite m 0x709003 (v &&& 0x7FFF))

/-- SYN_LOCK (R276): the lock windows that end. -/
def execSynLock (wins : List LockWin) (s : State) : Host.Outcome State Fault Refusal :=
  done ((s.lkWindows wins).outsFollow)

/-- SYN_LOCK_LOST (R273): the lock windows that end. -/
def execSynLockLost (wins : List LockWin) (s : State) : Host.Outcome State Fault Refusal :=
  done ((s.lkWindows wins).outsFollow)

/-- SYNC_RELEASE (R280); during boot, steps 5 and 6 of R539 follow the release. -/
def execSyncRelease (s : State) : Host.Outcome State Fault Refusal :=
  let t := s.syncRelease
  done (if s.synHeld && !t.synHeld then t.bootLoad else t)

/-- LOCKED_AND_SETTLED (R275). -/
def execLockedAndSettled (s : State) : Host.Outcome State Fault Refusal := done s.synSettled

/-- ACQ_TIMEOUT (R281); during boot the boot ROM may move to the other input (R540). -/
def execAcqTimeout (s : State) : Host.Outcome State Fault Refusal := done (s.acqTimeout State.bootTimeout)

/-- REF_LOS (R277). -/
def execRefLos (i : Fin 2) (j : Int) (s : State) : Host.Outcome State Fault Refusal := done ((s.refLos i j).outsFollow)

/-- REF_RETURN (R283). -/
def execRefReturn (i : Fin 2) (s : State) : Host.Outcome State Fault Refusal := done (s.refReturn i)

/-- REF_VALID (R279): the input's validation windows that end. -/
def execRefValid (i : Fin 2) (j : Int) (freqs : List Nat) (s : State) : Host.Outcome State Fault Refusal :=
  done (s.valWindows i j freqs)

/-- REF_INVALID (R279): the input's validation windows that end. A J that they lead to all the same is free (log entry 13). -/
def execRefInvalid (i : Fin 2) (freqs : List Nat) (s : State) : Host.Outcome State Fault Refusal :=
  done ({ s with free := s.free + 1 }.valWindows i (signedOf 32 (Config.freeValue s.free)) freqs)

/-- REVAL_DONE (R283): the active input's validation windows that end. -/
def execRevalDone (j : Int) (freqs : List Nat) (s : State) : Host.Outcome State Fault Refusal :=
  done (s.valWindows s.synActive j freqs)

/-- REF_REVERT (R284). -/
def execRefRevert (j : Int) (s : State) : Host.Outcome State Fault Refusal := done (s.refRevert j)

/-- SWITCH (R285). -/
def execSwitch (m : Master) (j : Int) (s : State) : Host.Outcome State Fault Refusal :=
  done (s.busWrite m 0x709004 0x8000 { j := some j })

/-- ALIGN_NOW (R286). -/
def execAlignNow (m : Master) (s : State) : Host.Outcome State Fault Refusal :=
  done (s.writeField m R.SYN_CMD_ALIGN_NOW 1)

/-- FSTEP_ARM (R287). -/
def execFstepArm (m : Master) (hi : Word) (s : State) : Host.Outcome State Fault Refusal :=
  done (s.busWrite m 0x709019 hi)

/-- RAMP_START (R289): SYN_RAMP_CTRL is written with EN at 1. -/
def execRampStart (m : Master) (v : Word) (s : State) : Host.Outcome State Fault Refusal :=
  done (s.busWrite m 0x709024 (v ||| 0x8000))

/-- CLOCK_MONITOR_FAILURE (R296). -/
def execClockMonitorFailure (cause : Fin 5) (n : Nat) (s : State) : Host.Outcome State Fault Refusal :=
  done (s.clockFailure cause n)

end Sys2Proof.Machine
end

