-- ==== Sys2Proof/Machine/TimeCommands.lean ====
section
/-!
DEFINITION. The commands of chapter 08: time base, time pulses and events.
-/

namespace Sys2Proof.Machine

/-- DISCIPLINE_UPDATE (R231). -/
def execDisciplineUpdate (m : Master) (v : Word) (s : State) : Host.Outcome State Fault Refusal :=
  done (s.busWrite m 0x70700F v)

/-- COAST_ENTRY (R233). -/
def execCoastEntry (s : State) : Host.Outcome State Fault Refusal := done s.coastEntry

/-- PLANNED_COAST (R235). -/
def execPlannedCoast (m : Master) (n : Fin 32) (s : State) : Host.Outcome State Fault Refusal :=
  done (s.writeField m R.TB_CTRL_PCOAST n)

/-- PLANNED_COAST_EXPIRY (R235). -/
def execPlannedCoastExpiry (s : State) : Host.Outcome State Fault Refusal := done s.plannedCoastExpiry

/-- QUALIFYING_RUN (R242). -/
def execQualifyingRun (s : State) : Host.Outcome State Fault Refusal := done s.qualifyingRun

/-- APPROVE (R249). -/
def execApprove (m : Master) (slew : Bool) (s : State) : Host.Outcome State Fault Refusal :=
  done (s.writeField m ⟨0x707003, 11, 10⟩ (2 + b2n slew))

/-- STEP (R247). -/
def execStep (s : State) : Host.Outcome State Fault Refusal := done s.stepEvent

/-- LEAP_SECOND (R253). -/
def execLeapSecond (s : State) : Host.Outcome State Fault Refusal := done s.leapEvent

/-- FINE_CAL (R255). -/
def execFineCal (taps : Fin 128) (s : State) : Host.Outcome State Fault Refusal := done (s.fineCal taps)

/-- TIME_PULSE (R254 to R258). -/
def execTimePulse (n : Fin 4) (s : State) : Host.Outcome State Fault Refusal := done (s.timePulse n)

/-- TIME_PULSE_END (R254). -/
def execTimePulseEnd (n : Fin 5) (s : State) : Host.Outcome State Fault Refusal := done (s.timePulseEnd n)

/-- TOD_MESSAGE (R263, R264). -/
def execTodMessage (s : State) : Host.Outcome State Fault Refusal := done s.todMessage

/-- EVENT_CAPTURE (R265). -/
def execEventCapture (n : Fin 8) (falling : Bool) (ofs : Nat) (s : State) : Host.Outcome State Fault Refusal :=
  done (s.eventCapture n falling ofs)

/-- EVT_FIFO_READ (R584). -/
def execEvtFifoRead (m : Master) (s : State) : Host.Outcome State Fault Refusal := done (s.masterRead m 0x713008)

end Sys2Proof.Machine
end

