-- ==== Sys2Proof/Machine/Dispatch.lean ====
section
/-!
DEFINITION. The effect of every command on everything but the queue: one arm per row of spec/opcode_table.json.
-/

namespace Sys2Proof.Machine

/-- The effect of command `i` on the block in state `s`. -/
def exec (i : Instr) (s : State) : Host.Outcome State Fault Refusal :=
  match i with
  | .registerWrite m gwa v => Sys2Proof.Machine.execRegisterWrite m gwa v s
  | .commit m b => Sys2Proof.Machine.execCommit m b s
  | .shadowRead m gwa => Sys2Proof.Machine.execShadowRead m gwa s
  | .rcRead m gwa => Sys2Proof.Machine.execRcRead m gwa s
  | .reservedAccess m gwa w => Sys2Proof.Machine.execReservedAccess m gwa w s
  | .tick env => Sys2Proof.Machine.execTick env s
  | .powerUp r v33 => Sys2Proof.Machine.execPowerUp r v33 s
  | .porTrip r => Sys2Proof.Machine.execPorTrip r s
  | .rstNFall => Sys2Proof.Machine.execRstNFall s
  | .reset => Sys2Proof.Machine.execReset s
  | .resetEnd mode n => Sys2Proof.Machine.execResetEnd mode n s
  | .sysResetGo m => Sys2Proof.Machine.execSysResetGo m s
  | .boot a b bad lock => Sys2Proof.Machine.execBoot a b bad lock s
  | .refDetectRetry a b => Sys2Proof.Machine.execRefDetectRetry a b s
  | .hostBootImage => Sys2Proof.Machine.execHostBootImage s
  | .bootComplete env => Sys2Proof.Machine.execBootComplete env s
  | .feEnable m a => Sys2Proof.Machine.execFeEnable m a s
  | .feDisable m a => Sys2Proof.Machine.execFeDisable m a s
  | .pathDisable m a b => Sys2Proof.Machine.execPathDisable m a b s
  | .pathEnable m a b => Sys2Proof.Machine.execPathEnable m a b s
  | .clear m a => Sys2Proof.Machine.execClear m a s
  | .recal m a b => Sys2Proof.Machine.execRecal m a b s
  | .biasSettle a => Sys2Proof.Machine.execBiasSettle a s
  | .biasShort a => Sys2Proof.Machine.execBiasShort a s
  | .biasRetry a held => Sys2Proof.Machine.execBiasRetry a held s
  | .vinFault volt => Sys2Proof.Machine.execVinFault volt s
  | .vinRecover => Sys2Proof.Machine.execVinRecover s
  | .loCalDone ok bands => Sys2Proof.Machine.execLoCalDone ok bands s
  | .loLock b counts => Sys2Proof.Machine.execLoLock b counts s
  | .loLockLost b counts => Sys2Proof.Machine.execLoLockLost b counts s
  | .loLockTimeout a => Sys2Proof.Machine.execLoLockTimeout a s
  | .pathCalDone a cal => Sys2Proof.Machine.execPathCalDone a cal s
  | .agcWindow iss adc => Sys2Proof.Machine.execAgcWindow iss adc s
  | .spectrum badParity => Sys2Proof.Machine.execSpectrum badParity s
  | .notchTrack k up => Sys2Proof.Machine.execNotchTrack k up s
  | .start m c => Sys2Proof.Machine.execStart m c s
  | .track m c => Sys2Proof.Machine.execTrack m c s
  | .pull m c => Sys2Proof.Machine.execPull m c s
  | .stop m c => Sys2Proof.Machine.execStop m c s
  | .release m c => Sys2Proof.Machine.execRelease m c s
  | .descWrite m c word v => Sys2Proof.Machine.execDescWrite m c word v s
  | .staleLimit c => Sys2Proof.Machine.execStaleLimit c s
  | .periodEnd c badParity => Sys2Proof.Machine.execPeriodEnd c badParity s
  | .divDecision c a b => Sys2Proof.Machine.execDivDecision c a b s
  | .dphiLapse c => Sys2Proof.Machine.execDphiLapse c s
  | .dirSuspect g => Sys2Proof.Machine.execDirSuspect g s
  | .jobSubmit m j w => Sys2Proof.Machine.execJobSubmit m j w s
  | .jobEntryWrite m j word w => Sys2Proof.Machine.execJobEntryWrite m j word w s
  | .jobDispatch => Sys2Proof.Machine.execJobDispatch s
  | .jobComplete pipe u => Sys2Proof.Machine.execJobComplete pipe u s
  | .captureOverwrite pipe => Sys2Proof.Machine.execCaptureOverwrite pipe s
  | .srchAbort m j => Sys2Proof.Machine.execSrchAbort m j s
  | .resRdWrite m rd => Sys2Proof.Machine.execResRdWrite m rd s
  | .snapDone => Sys2Proof.Machine.execSnapDone s
  | .disciplineUpdate m v => Sys2Proof.Machine.execDisciplineUpdate m v s
  | .coastEntry => Sys2Proof.Machine.execCoastEntry s
  | .plannedCoast m n => Sys2Proof.Machine.execPlannedCoast m n s
  | .plannedCoastExpiry => Sys2Proof.Machine.execPlannedCoastExpiry s
  | .qualifyingRun => Sys2Proof.Machine.execQualifyingRun s
  | .approve m slew => Sys2Proof.Machine.execApprove m slew s
  | .step => Sys2Proof.Machine.execStep s
  | .leapSecond => Sys2Proof.Machine.execLeapSecond s
  | .fineCal taps => Sys2Proof.Machine.execFineCal taps s
  | .timePulse n => Sys2Proof.Machine.execTimePulse n s
  | .timePulseEnd n => Sys2Proof.Machine.execTimePulseEnd n s
  | .todMessage => Sys2Proof.Machine.execTodMessage s
  | .eventCapture n falling ofs => Sys2Proof.Machine.execEventCapture n falling ofs s
  | .evtFifoRead m => Sys2Proof.Machine.execEvtFifoRead m s
  | .synEnable m v => Sys2Proof.Machine.execSynEnable m v s
  | .synDisable m v => Sys2Proof.Machine.execSynDisable m v s
  | .synLock wins => Sys2Proof.Machine.execSynLock wins s
  | .synLockLost wins => Sys2Proof.Machine.execSynLockLost wins s
  | .syncRelease => Sys2Proof.Machine.execSyncRelease s
  | .lockedAndSettled => Sys2Proof.Machine.execLockedAndSettled s
  | .acqTimeout => Sys2Proof.Machine.execAcqTimeout s
  | .refLos iss j => Sys2Proof.Machine.execRefLos iss j s
  | .refReturn iss => Sys2Proof.Machine.execRefReturn iss s
  | .refValid iss j freqs => Sys2Proof.Machine.execRefValid iss j freqs s
  | .refInvalid iss freqs => Sys2Proof.Machine.execRefInvalid iss freqs s
  | .revalDone j freqs => Sys2Proof.Machine.execRevalDone j freqs s
  | .refRevert j => Sys2Proof.Machine.execRefRevert j s
  | .switch m j => Sys2Proof.Machine.execSwitch m j s
  | .alignNow m => Sys2Proof.Machine.execAlignNow m s
  | .fstepArm m hi => Sys2Proof.Machine.execFstepArm m hi s
  | .rampStart m v => Sys2Proof.Machine.execRampStart m v s
  | .clockMonitorFailure cause n => Sys2Proof.Machine.execClockMonitorFailure cause n s
  | .arm m n => Sys2Proof.Machine.execArm m n s
  | .disable m n => Sys2Proof.Machine.execDisable m n s
  | .closeNow m n => Sys2Proof.Machine.execCloseNow m n s
  | .gateBoundary n => Sys2Proof.Machine.execGateBoundary n s
  | .gateEdge n => Sys2Proof.Machine.execGateEdge n s
  | .gateTrip n => Sys2Proof.Machine.execGateTrip n s
  | .armTimeout n => Sys2Proof.Machine.execArmTimeout n s
  | .weirDecision p sens => Sys2Proof.Machine.execWeirDecision p sens s
  | .weirLower => Sys2Proof.Machine.execWeirLower s
  | .placement => Sys2Proof.Machine.execPlacement s
  | .taskEntry e => Sys2Proof.Machine.execTaskEntry e s
  | .spanOverrun e => Sys2Proof.Machine.execSpanOverrun e s
  | .unitPowerDown u => Sys2Proof.Machine.execUnitPowerDown u s
  | .unitWake => Sys2Proof.Machine.execUnitWake s
  | .restart m e => Sys2Proof.Machine.execRestart m e s
  | .brk m e => Sys2Proof.Machine.execBrk m e s
  | .asyncTrap e brk => Sys2Proof.Machine.execAsyncTrap e brk s
  | .semRead m n => Sys2Proof.Machine.execSemRead m n s
  | .semRelease m n => Sys2Proof.Machine.execSemRelease m n s
  | .nop iss => Sys2Proof.Machine.execNop iss s
  | .ret iss g => Sys2Proof.Machine.execRet iss g s
  | .rtt iss => Sys2Proof.Machine.execRtt iss s
  | .fence iss => Sys2Proof.Machine.execFence iss s
  | .swi iss code => Sys2Proof.Machine.execSwi iss code s
  | .brr iss k => Sys2Proof.Machine.execBrr iss k s
  | .callr iss k => Sys2Proof.Machine.execCallr iss k s
  | .lbrk iss level => Sys2Proof.Machine.execLbrk iss level s
  | .tend iss => Sys2Proof.Machine.execTend iss s
  | .mov iss f => Sys2Proof.Machine.execMov iss f s
  | .add iss f => Sys2Proof.Machine.execAdd iss f s
  | .addc iss f => Sys2Proof.Machine.execAddc iss f s
  | .sub iss f => Sys2Proof.Machine.execSub iss f s
  | .subb iss f => Sys2Proof.Machine.execSubb iss f s
  | .and iss f => Sys2Proof.Machine.execAnd iss f s
  | .or iss f => Sys2Proof.Machine.execOr iss f s
  | .xor iss f => Sys2Proof.Machine.execXor iss f s
  | .andn iss f => Sys2Proof.Machine.execAndn iss f s
  | .not iss f => Sys2Proof.Machine.execNot iss f s
  | .neg iss f => Sys2Proof.Machine.execNeg iss f s
  | .abs iss f => Sys2Proof.Machine.execAbs iss f s
  | .lsh iss f => Sys2Proof.Machine.execLsh iss f s
  | .ash iss f => Sys2Proof.Machine.execAsh iss f s
  | .min iss f => Sys2Proof.Machine.execMin iss f s
  | .max iss f => Sys2Proof.Machine.execMax iss f s
  | .swapb iss f => Sys2Proof.Machine.execSwapb iss f s
  | .sxb iss f => Sys2Proof.Machine.execSxb iss f s
  | .zxb iss f => Sys2Proof.Machine.execZxb iss f s
  | .normw iss f => Sys2Proof.Machine.execNormw iss f s
  | .movi iss f => Sys2Proof.Machine.execMovi iss f s
  | .addi iss f => Sys2Proof.Machine.execAddi iss f s
  | .lshi iss d imm => Sys2Proof.Machine.execLshi iss d imm s
  | .ashi iss d imm => Sys2Proof.Machine.execAshi iss d imm s
  | .bclr iss d imm => Sys2Proof.Machine.execBclr iss d imm s
  | .bset iss d imm => Sys2Proof.Machine.execBset iss d imm s
  | .btgl iss d imm => Sys2Proof.Machine.execBtgl iss d imm s
  | .andi iss g d imm => Sys2Proof.Machine.execAndi iss g d imm s
  | .ori iss g d imm => Sys2Proof.Machine.execOri iss g d imm s
  | .movx iss g high k imm => Sys2Proof.Machine.execMovx iss g high k imm s
  | .movm iss g k imm => Sys2Proof.Machine.execMovm iss g k imm s
  | .movl iss g k imm => Sys2Proof.Machine.execMovl iss g k imm s
  | .load iss f u => Sys2Proof.Machine.execLoad iss f u s
  | .store iss f other => Sys2Proof.Machine.execStore iss f other s
  | .eccWriteback => Sys2Proof.Machine.execEccWriteback s
  | .mpy iss f => Sys2Proof.Machine.execMpy iss f s
  | .mac iss f => Sys2Proof.Machine.execMac iss f s
  | .msu iss f => Sys2Proof.Machine.execMsu iss f s
  | .mpyw iss g d a b => Sys2Proof.Machine.execMpyw iss g d a b s
  | .dmac iss g f => Sys2Proof.Machine.execDmac iss g f s
  | .cmac iss g f => Sys2Proof.Machine.execCmac iss g f s
  | .cmacj iss g f => Sys2Proof.Machine.execCmacj iss g f s
  | .qmac iss g f => Sys2Proof.Machine.execQmac iss g f s
  | .bra iss ofs => Sys2Proof.Machine.execBra iss ofs s
  | .call iss f => Sys2Proof.Machine.execCall iss f s
  | .br iss g target => Sys2Proof.Machine.execBr iss g target s
  | .moveToRegister iss r w => Sys2Proof.Machine.execMoveToRegister iss r w s
  | .moveFromRegister iss r w => Sys2Proof.Machine.execMoveFromRegister iss r w s
  | .cmp iss g d cond a b => Sys2Proof.Machine.execCmp iss g d cond a b s
  | .cmpi iss g d cond a imm => Sys2Proof.Machine.execCmpi iss g d cond a imm s
  | .acmp iss g d cond a b => Sys2Proof.Machine.execAcmp iss g d cond a b s
  | .plog iss g d a b op => Sys2Proof.Machine.execPlog iss g d a b op s
  | .btst iss g d a bit inv => Sys2Proof.Machine.execBtst iss g d a bit inv s
  | .aadd iss g d a b => Sys2Proof.Machine.execAadd iss g d a b s
  | .asub iss g d a b => Sys2Proof.Machine.execAsub iss g d a b s
  | .aneg iss g d a => Sys2Proof.Machine.execAneg iss g d a s
  | .aabs iss g d a => Sys2Proof.Machine.execAabs iss g d a s
  | .ashiAcc iss g d a count log => Sys2Proof.Machine.execAshiAcc iss g d a count log s
  | .ashr iss g d a c log => Sys2Proof.Machine.execAshr iss g d a c log s
  | .amovw iss g d a => Sys2Proof.Machine.execAmovw iss g d a s
  | .narrow iss g d a => Sys2Proof.Machine.execNarrow iss g d a s
  | .asat iss g d a => Sys2Proof.Machine.execAsat iss g d a s
  | .norm iss g d a => Sys2Proof.Machine.execNorm iss g d a s
  | .ld2 iss g p xa ma xb mb u => Sys2Proof.Machine.execLd2 iss g p xa ma xb mb u s
  | .div iss g q r a b => Sys2Proof.Machine.execDiv iss g q r a b s
  | .lds iss g a r u => Sys2Proof.Machine.execLds iss g a r u s
  | .sts iss g a r => Sys2Proof.Machine.execSts iss g a r s
  | .tbl iss g d a k u => Sys2Proof.Machine.execTbl iss g d a k u s
  | .tbli iss g d a k u => Sys2Proof.Machine.execTbli iss g d a k u s
  | .loopi iss g level count len => Sys2Proof.Machine.execLoopi iss g level count len s
  | .loopr iss g level a len => Sys2Proof.Machine.execLoopr iss g level a len s
  | .userOpcode iss g slot body u badUc => Sys2Proof.Machine.execUserOpcode iss g slot body u badUc s
  | .scrub upset => Sys2Proof.Machine.execScrub upset s
  | .testSlice hold mismatch upset => Sys2Proof.Machine.execTestSlice hold mismatch upset s
  | .retain m => Sys2Proof.Machine.execRetain m s
  | .resume m => Sys2Proof.Machine.execResume m s
  | .bwReady => Sys2Proof.Machine.execBwReady s
  | .wipe m => Sys2Proof.Machine.execWipe m s
  | .wipeDone ok => Sys2Proof.Machine.execWipeDone ok s
  | .accLock m k bits => Sys2Proof.Machine.execAccLock m k bits s
  | .hostWriteFrame n off ws bits both => Sys2Proof.Machine.execHostWriteFrame n off ws bits both s
  | .hostReadFrame n off k late bits both => Sys2Proof.Machine.execHostReadFrame n off k late bits both s
  | .rawWriteFrame n res len ws bits both => Sys2Proof.Machine.execRawWriteFrame n res len ws bits both s
  | .rawReadFrame n res len k bits both => Sys2Proof.Machine.execRawReadFrame n res len k bits both s
  | .xipFetch m w => Sys2Proof.Machine.execXipFetch m w s
  | .gatherFlush => Sys2Proof.Machine.execGatherFlush s
  | .xipFlush m => Sys2Proof.Machine.execXipFlush m s
  | .progDone => Sys2Proof.Machine.execProgDone s
  | .progTimeout wel => Sys2Proof.Machine.execProgTimeout wel s
  | .cmdFrame m v rx change => Sys2Proof.Machine.execCmdFrame m v rx change s
  | .cmdFrameDone => Sys2Proof.Machine.execCmdFrameDone s
  | .cmdTimeout => Sys2Proof.Machine.execCmdTimeout s
  | .linkUp p chars => Sys2Proof.Machine.execLinkUp p chars s
  | .linkDown p chars => Sys2Proof.Machine.execLinkDown p chars s
  | .beaconTx => Sys2Proof.Machine.execBeaconTx s
  | .beaconRx p frame whole ofs => Sys2Proof.Machine.execBeaconRx p frame whole ofs s
  | .leaveRx p frame whole => Sys2Proof.Machine.execLeaveRx p frame whole s
  | .neighbourTimeout p => Sys2Proof.Machine.execNeighbourTimeout p s
  | .agreementLoss => Sys2Proof.Machine.execAgreementLoss s
  | .agreementRise => Sys2Proof.Machine.execAgreementRise s
  | .degraded => Sys2Proof.Machine.execDegraded s
  | .cflEnable m v => Sys2Proof.Machine.execCflEnable m v s
  | .cflDisable m v => Sys2Proof.Machine.execCflDisable m v s
  | .portDisable m v => Sys2Proof.Machine.execPortDisable m v s
  | .userTx m v => Sys2Proof.Machine.execUserTx m v s
  | .userRx p frame whole => Sys2Proof.Machine.execUserRx p frame whole s
  | .cflPpsOut => Sys2Proof.Machine.execCflPpsOut s
  | .cflPpsIn ofs => Sys2Proof.Machine.execCflPpsIn ofs s
  | .lifecycleTransition m v => Sys2Proof.Machine.execLifecycleTransition m v s
  | .otpProgram m v => Sys2Proof.Machine.execOtpProgram m v s
  | .keyRevoke m v => Sys2Proof.Machine.execKeyRevoke m v s
  | .keysOk m => Sys2Proof.Machine.execKeysOk m s
  | .tamper src stays => Sys2Proof.Machine.execTamper src stays s
  | .tamperClear m inactive v => Sys2Proof.Machine.execTamperClear m inactive v s
  | .hash m => Sys2Proof.Machine.execHash m s
  | .hashStart m => Sys2Proof.Machine.execHashStart m s
  | .hashCont m => Sys2Proof.Machine.execHashCont m s
  | .hashFinal m => Sys2Proof.Machine.execHashFinal m s
  | .verify m => Sys2Proof.Machine.execVerify m s
  | .cryptoDone => Sys2Proof.Machine.execCryptoDone s
  | .otpProgramDone fail => Sys2Proof.Machine.execOtpProgramDone fail s
  | .lcTransitionDone => Sys2Proof.Machine.execLcTransitionDone s
  | .secstep m => Sys2Proof.Machine.execSecstep m s
  | .sleepArm m => Sys2Proof.Machine.execSleepArm m s
  | .lpcArmEdge ofs => Sys2Proof.Machine.execLpcArmEdge ofs s
  | .snap m => Sys2Proof.Machine.execSnap m s
  | .lpcSnapEdge n ofs => Sys2Proof.Machine.execLpcSnapEdge n ofs s
  | .lpcLos n => Sys2Proof.Machine.execLpcLos n s
  | .lpcOverflow => Sys2Proof.Machine.execLpcOverflow s
  | .updVerify m => Sys2Proof.Machine.execUpdVerify m s
  | .updVerifyDone => Sys2Proof.Machine.execUpdVerifyDone s
  | .updSwitch m => Sys2Proof.Machine.execUpdSwitch m s
  | .updCancel m => Sys2Proof.Machine.execUpdCancel m s
  | .switchEdge => Sys2Proof.Machine.execSwitchEdge s
  | .updCopy bad => Sys2Proof.Machine.execUpdCopy bad s
  | .fltPop m v => Sys2Proof.Machine.execFltPop m v s
  | .fltSwGo m => Sys2Proof.Machine.execFltSwGo m s
  | .fltPendClear m iss v => Sys2Proof.Machine.execFltPendClear m iss v s
  | .vddRetLoss => Sys2Proof.Machine.execVddRetLoss s
  | .tapInstruction on => Sys2Proof.Machine.execTapInstruction on s

end Sys2Proof.Machine
end

