-- ==== Sys2Proof/Machine/Step.lean ====
section
/-!
DEFINITION. One step of the block: the command at the front of the queue, or one clock when no command waits.
-/

namespace Sys2Proof.Machine

/-- With no command waiting, one clock of the internal domains passes, unless it would end the tick, one entry of each write
buffer is performed, and once the record post is over (R28) nothing waits for it (DESIGN CHOICE, log entry 1). -/
def State.idle (s : State) : State :=
  if !s.live then s
  else
    let s := if s.inTick 1 then s.pass 1 else s
    let s := if s.postOver && s.clk.running then s.postBelow 192 else s
    forUp 8 (fun e s => (s.drainOne e).getD s) s

/-- Takes the command at the front of the queue and answers its outcome; an empty queue lets a clock pass. -/
def step (s : State) : Host.Outcome State Fault Refusal :=
  match s.pending with
  | [] => done s.idle
  | i :: rest => exec i { s with pending := rest }

/-- `s` with the command that word `w` of `nbits` bits spells at the front of its queue; no word of the table spells one
(log entry 2). -/
def State.withFetchWord (s : State) (nbits w : Nat) : State :=
  match decodeTableWord nbits w with
  | some i => { s with pending := i :: s.pending }
  | none => s

end Sys2Proof.Machine
end

