-- ==== Sys2Proof/Machine/Balls.lean ====
section
/-!
DEFINITION. The output balls and what each is at in every stage of power (spec/02_package_balls_supplies.md R54, R60, R61, R65 to
R67).
-/

namespace Sys2Proof.Machine

/-- What an output ball is at. For a differential pair `high` and `low` are its levels; for a bias ball `high` is VIN_ANT and
`highZ` an open switch. `frames` is a line whose level belongs to the symbols of a link that runs. -/
inductive Level where
  | highZ | low | high | frames
  deriving DecidableEq, Repr

/-- The output balls (R54). -/
inductive Ball where
  | gate (n : Fin 16)
  | clkOut (n : Fin 6)
  | clkSe (n : Fin 2)
  | tp (n : Fin 4)
  | todOut
  | cflTx (p : Fin 2)
  | cflPpsOut
  | hpIo (n : Fin 8)
  | hpDs
  | hpAttn
  | faultN
  | fpSck
  | fpSel
  | fpRstN
  | fpIo (n : Fin 8)
  | tdo
  | antBias (a : Fin 2)
  deriving DecidableEq, Repr

/-- The supply of a ball, as an index of `PwrSt.rails` (R54). -/
def Ball.rail : Ball → Nat
  | .gate _ | .clkSe _ | .tp _ | .todOut | .cflPpsOut => 6
  | .clkOut _ | .cflTx _ => 4
  | .antBias _ => 7
  | _ => 5

/-- A ball's supply is valid, and so is VDD_CORE (R61). -/
def State.ballValid (s : State) (b : Ball) : Bool := s.pwr.rails.getD b.rail false && s.pwr.rails.getD 0 false

/-- A level of a push-pull ball. -/
def levelOf (b : Bool) : Level := if b then .high else .low

/-- A valid ball in reset (R67). -/
def Ball.inReset : Ball → Level
  | .hpIo _ | .hpDs | .hpAttn | .fpIo _ | .tdo | .antBias _ => .highZ
  | .fpSel => .high
  | _ => .low

/-- A valid ball out of reset (R67). Frames of the host and flash ports and scans of the TAP are whole commands, so that their
lines stand between frames; a port of the link that is not enabled, and every port on the limp oscillator, is low (R493). -/
def State.ballLive (s : State) : Ball → Level
  | .gate n => levelOf (s.gateBall n)
  | .clkOut n => levelOf (s.clkBall n)
  | .clkSe n => levelOf (s.clkBall (6 + n))
  | .tp n => levelOf (s.tpBall n)
  | .todOut => levelOf s.todBall
  | .cflTx p => if s.portOn p && !s.clk.limp then .frames else .low
  | .cflPpsOut => levelOf s.ppsBall
  | .hpAttn => if s.attnLow then .low else .highZ
  | .faultN => levelOf (!s.faultN.getLsbD 15)
  | .fpSck => .low
  | .fpSel => .high
  | .fpRstN => levelOf (s.isOn R.FP_CTRL_RST_OUT)
  | .antBias a => if s.biasClosed a then .high else .highZ
  | .hpIo _ | .hpDs | .fpIo _ | .tdo => .highZ

/-- Ball `b`, by the stage of R67: high-Z until its bank and VDD_CORE are valid (R60, R61), then its reset state until reset
ends, then what drives it. -/
def State.ball (s : State) (b : Ball) : Level :=
  if !s.ballValid b then .highZ
  else if s.live then s.ballLive b
  else b.inReset

end Sys2Proof.Machine
end

