-- ==== Sys2Proof/Safety.lean ====
section
/-!
DEFINITION. What a safe state is, in the terms that claims use.
-/

namespace Sys2Proof.Safety

open Sys2Proof.Machine

/-- A fall of Transmit Permit has been seen (R307): the value last followed is the present one. -/
def PermitFollowed (s : State) : Prop := s.permitPrev = s.permit

/-- Every fault raised has been entered in the ring, or dropped with OVF (R563). -/
def FaultsEntered (s : State) : Prop := s.flt.now = []

/-- What holds after every command. -/
def Settled (s : State) : Prop := PermitFollowed s ∧ FaultsEntered s

/-- The memories are in canonical form: addresses strictly rising, no word listed that reads as an unlisted one does. -/
def MemoryCanonical (s : State) : Prop := wmWf (fun _ => 0) s.mem = true ∧ wmWf (fun _ => 0xFFFF) s.flash.cells = true

/-- The fault ring holds at most its 64 records (R562). -/
def RingBounded (s : State) : Prop := s.flt.depth ≤ 64 ∧ s.flt.rd < 64

/-- No GATE ball is driven high (R51, R52, R65). -/
def AllGatesLow (s : State) : Prop := ∀ n : Fin 16, s.gateBall n = false

/-! ### Engine instructions -/

/-- Instruction `i` with guard `c` executes on its engine: the engine issues, the parcels are whole, the guard is true. -/
def Runs (s : State) (i : Issue) (c : Guard) : Prop :=
  (s.eng i.e).issuing = true ∧ i.parity = false ∧ (s.eng i.e).guardOn c = true

/-- Wd of engine `e` holds `v`, and ST shows Z and N of it; C and V as given where they are written; SS set where `ss`. -/
def WordShown (t : State) (e : Fin 8) (d : Nat) (v : Word) (c ov : Option Bool) (ss : Bool) : Prop :=
  (t.eng e).wr d = v ∧ (t.eng e).st.getLsbD 3 = (v == 0) ∧ (t.eng e).st.getLsbD 2 = v.msb ∧
    (∀ b, c = some b → (t.eng e).st.getLsbD 1 = b) ∧ (∀ b, ov = some b → (t.eng e).st.getLsbD 0 = b) ∧
    (ss = true → (t.eng e).st.getLsbD 4 = true)

/-- The guard of a form; a short form always executes (R325). -/
def aluGuard : AluForm → Guard
  | .short .. => {}
  | .long g .. => g

/-- Wd of a form. -/
def aluDest : AluForm → Fin 16
  | .short d _ => d
  | .long _ d _ _ => d

/-- The left operand: Wd of the short form, Ws of the long (R361). -/
def aluLeft (g : Engine) : AluForm → Word
  | .short d _ => g.wr d
  | .long _ _ a _ => g.wr a

/-- The right operand: Ws of the short form, Wt of the long (R361). -/
def aluRight (g : Engine) : AluForm → Word
  | .short _ b => g.wr b
  | .long _ _ _ b => g.wr b

/-- The operand of a unary operation: Ws (R362). -/
def aluOnly (g : Engine) : AluForm → Word
  | .short _ b => g.wr b
  | .long _ _ a _ => g.wr a

/-- The Wt field of a unary operation's long form is 0 (R362). -/
def aluOne : AluForm → Prop
  | .short .. => True
  | .long _ _ _ b => b = 0

/-- Command `c` in state `s` answers a next state, of which `p` holds. -/
def Completes (c : Instr) (s : State) (p : State → Prop) : Prop := ∃ t, exec c s = .next t ∧ p t

/-- A result is out of a word's range (R338). -/
def outOfWord (x : Int) : Bool := decide (x < -32768) || decide (32767 < x)

/-- A result as a word holds it: out of range, it saturates with SAT at 1 and keeps its low 16 bits with SAT at 0 (R338). -/
def fitWord (sat : Bool) (x : Int) : Word :=
  if (sat && outOfWord x) = true then (if x < 0 then 0x8000 else 0x7FFF) else BitVec.ofInt 16 x

/-- Wd of engine `e` holds the exact result `x` placed in a word, with Z, N and V, with C as given, and with SS set by
saturation (R338). -/
def PlacedShown (t : State) (e : Fin 8) (d : Nat) (sat : Bool) (x : Int) (c : Option Bool) : Prop :=
  WordShown t e d (fitWord sat x) c (some (outOfWord x)) (sat && outOfWord x)

/-- LSH of `x` by count `n` (R382). -/
def LshShown (t : State) (e : Fin 8) (d : Nat) (x : Word) (n : Int) : Prop :=
  (n = 0 → WordShown t e d x none (some false) false) ∧
  (0 < n → n < 16 → WordShown t e d (x <<< n.toNat) (some (x.getLsbD (16 - n.toNat))) none false) ∧
  (n < 0 → -16 < n → WordShown t e d (x >>> n.natAbs) (some (x.getLsbD (n.natAbs - 1))) none false) ∧
  (16 ≤ n.natAbs → WordShown t e d 0 (some (n.natAbs == 16 && x.getLsbD 15)) none false)

/-- ASH of `x` by count `n` (R382). -/
def AshShown (t : State) (e : Fin 8) (d : Nat) (sat : Bool) (x : Word) (n : Int) : Prop :=
  (n = 0 → WordShown t e d x none (some false) false) ∧
  (n < 0 → -16 < n → WordShown t e d (x.sshiftRight n.natAbs) (some (x.getLsbD (n.natAbs - 1))) (some false) false) ∧
  (0 < n → n < 16 → PlacedShown t e d sat (x.toInt * 2 ^ n.toNat) (some (x.getLsbD (16 - n.toNat)))) ∧
  (n ≤ -16 → WordShown t e d (if x.msb then 0xFFFF else 0) (some (x.getLsbD 15)) (some false) false) ∧
  (16 ≤ n → x = 0 → WordShown t e d 0 (some false) (some false) false) ∧
  (16 ≤ n → x ≠ 0 → WordShown t e d (if sat then (if x.msb then 0x8000 else 0x7FFF) else 0)
    (some (n == 16 && x.getLsbD 0)) (some true) sat)

/-- A result at distance `d` of the instruction that led from `s` to `t` on engine `e` (R341): `read` gives `new` to an
instruction issued `d` cycles after it, and, with nothing in flight before it, gives the old value until then. -/
def ResultAt {α : Type} (s t : State) (e : Fin 8) (d : Nat) (read : Engine → α) (new : α) : Prop :=
  read ((t.eng e).advances (d - 1)) = new ∧
    ((s.eng e).fly = [] → ∀ k, k + 1 < d → read ((t.eng e).advances k) = read (s.eng e))

/-- Z, N and V. -/
def znv (g : Engine) : Bool × Bool × Bool := (g.st.getLsbD 3, g.st.getLsbD 2, g.st.getLsbD 0)

/-- A result out of an accumulator's range (R339). -/
def outOfAcc (x : Int) : Bool := decide (x < -2 ^ 39) || decide (2 ^ 39 ≤ x)

/-- A result as an accumulator holds it (R339). -/
def fitAcc (sat : Bool) (x : Int) : BitVec 40 :=
  if (sat && outOfAcc x) = true then (if x < 0 then 0x8000000000 else 0x7FFFFFFFFF) else BitVec.ofInt 40 x

/-- Bits 39 to 31 of an accumulator's value are not all equal (R339). -/
def guardUsed (v : BitVec 40) : Bool := decide (v.toInt < -2 ^ 31) || decide (2 ^ 31 ≤ v.toInt)

/-- Ad takes `v` at distance `dist`, with Z, N and V; AV and AG are set where `av` and `ag`. -/
def AccShown (s t : State) (e : Fin 8) (dist d : Nat) (v : BitVec 40) (ov av ag : Bool) : Prop :=
  ResultAt s t e dist (·.ar d) v ∧ ResultAt s t e dist znv (v == 0, v.msb, ov) ∧
    (av = true → ((t.eng e).advances (dist - 1)).st.getLsbD 7 = true) ∧
    (ag = true → ((t.eng e).advances (dist - 1)).st.getLsbD 6 = true)

/-- Ad takes the exact result `x` as R339 places it. -/
def AccPlaced (s t : State) (e : Fin 8) (dist d : Nat) (sat : Bool) (x : Int) : Prop :=
  AccShown s t e dist d (fitAcc sat x) (outOfAcc x) (outOfAcc x) (guardUsed (fitAcc sat x))

/-- Several accumulators take exact totals at distance 4, the first giving the flags (R375, R376). -/
def MacShown (s t : State) (e : Fin 8) (sat : Bool) (d : Nat) (x : Int) (more : List (Nat × Int)) : Prop :=
  (∀ p ∈ (d, x) :: more, ResultAt s t e 4 (·.ar p.1) (fitAcc sat p.2)) ∧
  ResultAt s t e 4 znv (fitAcc sat x == 0, (fitAcc sat x).msb, outOfAcc x) ∧
  (∀ p ∈ (d, x) :: more,
    (outOfAcc p.2 = true → ((t.eng e).advances 3).st.getLsbD 7 = true) ∧
    (guardUsed (fitAcc sat p.2) = true → ((t.eng e).advances 3).st.getLsbD 6 = true))

/-- The product of two words: an integer, or in fraction mode that shifted left by 1 (R337). -/
def productOf (st a b : Word) : Int := if st.getLsbD 13 then 2 * (a.toInt * b.toInt) else a.toInt * b.toInt

/-- A value rounded at bit 15 by RND 0, 1 or 2, as a count of 2¹⁶ (R321, R340). -/
def roundedAt (st : Word) (x : Int) : Int :=
  match (st.extractLsb' 11 2).toNat with
  | 1 => (x + 32768) / 65536
  | 2 => if x % 131072 = 32768 then x / 65536 else (x + 32768) / 65536
  | _ => x / 65536

/-- RND does not hold the reserved 3 (R322). -/
def RndLegal (st : Word) : Prop := st.extractLsb' 11 2 ≠ 3

/-- No multiply result is in flight to Ad (R344). -/
def Unchained (g : Engine) (d : Nat) : Prop := ∀ r ∈ g.fly, r.mac = true → r.dest ≠ .a d

/-- The guard of a load or store; a short form always executes. -/
def memGuard : MemForm → Guard
  | .short .. => {}
  | .long g .. => g

/-- The register that a load or store moves (R364, R370). -/
def memReg : MemForm → Nat
  | .short _ _ r => r
  | .long _ r _ => r

/-- The address of a load or store, and the write back of Xk, as the meaning computes them; `none` is reserved. -/
def memAddr (g : Engine) : MemForm → Option (Nat × Option (Nat × Nat))
  | .short m k _ => g.shortAddr m k
  | .long _ _ m => some (g.longAddr m)

/-- A read of the word at `a` by engine `e` gives `w` at once: a whole word of its local memory, or a word of the Pool that
it may read, that no write waits for and that holds no error. -/
def PlainRead (s : State) (e : Fin 8) (a : Nat) (w : Word) : Prop :=
  (a < 0x8000 ∧ (s.eng e).locBad.contains a = false ∧ w = wmGet 0 (s.eng e).loc a) ∨
  (0x100000 ≤ a ∧ a < 0x300000 ∧ s.live = true ∧ s.allowed e ((a - 0x100000) / 0x10000) .read = true ∧
    (s.eng e).wbuf = [] ∧ s.memSt.flips = [] ∧ s.memSt.borrowed = none ∧ w = s.memGet a)

/-- The write back of an addressing mode stands at distance 1. -/
def BackShown (s t : State) (e : Fin 8) : Option (Nat × Nat) → Prop
  | none => True
  | some (k, v) => ResultAt s t e 1 (·.xr k) (v % 2 ^ 24)

/-- The word that a named register holds after a write of `w` to it (R367). -/
def namedValue (r : RegName) (w : Word) : Nat :=
  match r.kind.val with
  | 0 => if r.part then w.toNat % 256 else w.toNat
  | 2 => if r.part then w.toNat % 256 else w.toNat
  | 4 => w.toNat % 256 ||| 1
  | 5 => w.toNat % 32768
  | 11 => ((w.setWidth 8).signExtend 16).toNat
  | _ => w.toNat

/-- A result out of 32 bits, and as 32 bits hold it (R340). -/
def outOf32 (x : Int) : Bool := decide (x < -2 ^ 31) || decide (2 ^ 31 ≤ x)
def fit32 (sat : Bool) (x : Int) : BitVec 32 :=
  if (sat && outOf32 x) = true then (if x < 0 then 0x80000000 else 0x7FFFFFFF) else BitVec.ofInt 32 x

/-- Nothing is in flight on the engine, and no branch or TEND waits for its delay slots. -/
def Quiet (g : Engine) : Prop := g.fly = [] ∧ g.jump = none ∧ g.tend = none

/-- No hardware loop is open. -/
def NoLoops (g : Engine) : Prop := ∀ k, g.loops.getD k none = none

/-- Engine `e`'s word at local address `b`. -/
def localWord (s : State) (e b : Nat) : Word := wmGet 0 (s.eng e).loc b

/-- Two states differ at most in engine `e`, in its program counter, delay slots, loops, cycle counts, the results in
flight, and the parts that `keep` copies from the later. -/
def OnlyEngine (s t : State) (e : Fin 8) (keep : Engine → Engine → Engine) : Prop :=
  t = s.setEng e (t.eng e) ∧
  t.eng e = keep (t.eng e) { s.eng e with
    lc := (t.eng e).lc, loops := (t.eng e).loops, jump := (t.eng e).jump, tend := (t.eng e).tend, pc := (t.eng e).pc,
    fly := (t.eng e).fly, cyc := (t.eng e).cyc, used := (t.eng e).used, asyncWait := (t.eng e).asyncWait }

/-- Synchronous trap `tc` has been taken on engine `e` (R347, R348). -/
def TrapTaken (s t : State) (e : Fin 8) (tc : Nat) : Prop :=
  (t.eng e).pc = 8 * tc ∧ (t.eng e).tm = true ∧ bitsOf (t.eng e).st.toNat 10 8 = tc ∧
  (t.eng e).lkT.toNat = (s.eng e).pc % 32768 + (if (s.eng e).inSlot then 32768 else 0) ∧
  t.get (R.SYS_ENG_STAT_LAST_TC e) = tc ∧ t.mem = s.mem ∧ (∀ k : Fin 8, k ≠ e → t.eng k = s.eng k)

/-! ### Registers, faults and accesses -/

/-- No earlier write of master `m` waits in an engine's write buffer (R44). -/
def NoneWaits (s : State) (m : Nat) : Prop := m < 8 → (s.eng m).wbuf = []

/-- Master `m` may write, or read, the register at `a` of a register block, the device is out of reset and no earlier write of
`m` waits (R44, R454, R455). -/
def CanWrite (s : State) (m a : Nat) : Prop :=
  s.live = true ∧ s.allowed m (40 + (a - 0x700000) / 0x1000) .write = true ∧ NoneWaits s m
def CanRead (s : State) (m a : Nat) : Prop :=
  s.live = true ∧ s.allowed m (40 + (a - 0x700000) / 0x1000) .read = true ∧ NoneWaits s m

/-- Two states differ at most in the registers at the addresses `l`. -/
def OnlyRegs (s t : State) (l : List Nat) : Prop := t = { s with regs := t.regs } ∧ ∀ a, a ∉ l → t.rg a = s.rg a

/-- Between two states every register outside `l` keeps its word. -/
def RegsKept (s t : State) (l : List Nat) : Prop := ∀ a, a ∉ l → t.rg a = s.rg a

/-- Of the faults, exactly `code` has been recorded, with its unit, argument and master, as it was raised in `s`. -/
def Recorded (s t : State) (code unit arg : Nat) (m : Option Nat) : Prop :=
  t.flt = { s.flt.enter (s.faultEvent code unit arg m) with now := [] }

/-- A write of the register at `a` has been rejected: its block's reject flag and offset, and nothing else (R17). -/
def Rejected (s t : State) (a : Nat) : Prop :=
  let base := a / 0x1000 * 0x1000
  OnlyRegs s t [base + 2] ∧ t.get ⟨base + 2, 15, 15⟩ = 1 ∧ t.get ⟨base + 2, 11, 0⟩ = a % 0x1000

/-- No tamper source is active (R525). -/
def NoTamper (s : State) : Prop := ∀ k < 4, s.isOn ⟨0x701006, 8 + k, 8 + k⟩ = false

/-- The device has entered reset (R52, R63, R316, R447, R535, R536): every GATE ball is low, the engines stand as after
reset, and of the memories and registers only those of the VDD_RET domain keep their words, and KEYS_VALID (log entry 106). -/
def EnteredReset (s t : State) : Prop :=
  t.live = false ∧ AllGatesLow t ∧ t.engs = State.reset.engs ∧ t.active = [] ∧ t.pending = s.pending ∧
    (∀ a, t.memGet a = if 0x600000 ≤ a ∧ a < 0x624000 then s.memGet a else 0) ∧
    (∀ a, a ∉ keptRegs.map (·.1) → t.rg a = resetWord a) ∧
    ∀ k ∈ keptRegs, (t.rg k.1).toNat &&& k.2 = (s.rg k.1).toNat &&& k.2

/-- The RW fields of the register at `a` hold values that it accepts (R17). -/
def Legal (s : State) (a : Nat) : Prop :=
  ∀ (g : RegGroup) (k : Nat), regAt a = some (g, k) → ∀ f ∈ g.fields, f.ty = .rw → f.accepts (s.rg a).toNat = true

/-- As `Recorded`, for a fault raised after clocks have passed: it is stamped with the clock of `t` (R561). -/
def RecordedNow (s t : State) (code unit arg : Nat) (m : Option Nat) : Prop :=
  t.flt = { s.flt.enter (t.faultEvent code unit arg m) with now := [] }

/-- The clocks run to `ClkSt.age` `x`, or have passed it, before the next tick edge, and no unit wakes meanwhile. -/
def Comes (s : State) (x : Nat) : Prop := s.clk.waking = [] ∧ (s.runAge x).isSome = true

/-- Internal master `m` may write every bank of the Pool: the access tables allow it, no staged image is frozen and no
slice is on loan to the test (R116, R190, R442, R551). -/
def PoolOpen (s : State) (m : Nat) : Prop :=
  s.start.frozen = none ∧ s.memSt.borrowed = none ∧ ∀ b < 32, s.allowed m b .write = true

/-- Internal master `m` may write no bank of the Pool (R117). -/
def PoolShut (s : State) (m : Nat) : Prop := ∀ b < 32, s.allowed m b .write = false

/-- Memory holds `ws` from `base` on, and elsewhere what it held in `s`. -/
def WordsPut (s t : State) (base : Nat) (ws : List Word) : Prop :=
  (∀ k < ws.length, t.memGet (base + k) = ws.getD k 0) ∧
    ∀ a, a < base ∨ base + ws.length ≤ a → t.memGet a = s.memGet a

end Sys2Proof.Safety
end

