-- ==== Sys2Proof/Certificates/Slice0/Obligations.lean ====
section
/-!
DEFINITION. The statements for the provers: what the rules of spec/ say the block does, as claims about the model.
-/

open Sys2Proof Sys2Proof.Machine Sys2Proof.Safety

/-- A step with commands waiting runs the command at the front of the queue on the state with the rest of the queue. -/
def Obligations.StepRunsFrontCommand : Prop :=
  ∀ (s : State) (c : Instr) (rest : List Instr), s.pending = c :: rest → step s = exec c { s with pending := rest }

/-- A step with no command waiting answers a next state; in reset it changes nothing, and otherwise a clock passes within the
tick (the model's choice: log entry 1). -/
def Obligations.IdleStep : Prop :=
  ∀ s : State, s.pending = [] →
    (Settled s → s.live = false → step s = .next s) ∧
    (s.live = true → Settled s → s.clk.running = true → s.clk.waking = [] → (∀ e : Fin 8, (s.eng e).wbuf = []) →
      (∀ n : Fin 16, (s.gate n).opened = none) → (∀ c : Fin 192, (s.chan c).buf = none) →
      ∃ t, step s = .next t ∧ t.pending = [] ∧ t.regs = s.regs ∧ t.mem = s.mem ∧ t.engs = s.engs ∧
        (s.clk.phase + 1 < s.clk.tickLen → t.clk.phase = s.clk.phase + 1 ∧ t.clk.acc = s.clk.acc + s.advanced 1) ∧
        (s.clk.tickLen ≤ s.clk.phase + 1 → t = s))

/-- R11, R13, R57, R319, R516, R561: what reset leaves where the spec states it, and where it states none the model's own values (log
entries 3 to 6): every register, shadow and active, at its reset word; nothing pending; the fault ring empty; the engines' words, accumulators and flags at their reset values; the
internal domains on the limp oscillator; every GATE ball low. And the invariants of the other statements hold there. -/
def Obligations.ResetHolds : Prop :=
  (
    let s := State.reset
    (∀ a, s.rg a = resetWord a ∧ s.actRg a = resetWord a) ∧ s.pending = [] ∧ s.stage = [] ∧ s.late = [] ∧
    s.flt.depth = 0 ∧ s.flt.pend = 0 ∧ s.clk.limp = true ∧ s.clk.running = false ∧ s.clk.tickCount = 0 ∧ AllGatesLow s ∧
    (∀ e : Fin 8, (∀ k, (s.eng e).wr k = 0 ∧ (s.eng e).ar k = 0 ∧ (s.eng e).xr k = 0) ∧ (s.eng e).st = 0x4000 ∧
      (s.eng e).pr 0 = true ∧ (∀ k, k ≠ 0 → (s.eng e).pr k = false) ∧ (s.eng e).pc = 0)) ∧
  (
    Settled State.reset ∧ RingBounded State.reset ∧ MemoryCanonical State.reset)

/-- R307, R563: after every step, whatever the command, a fall of Transmit Permit has been seen and every fault raised has been
entered in the ring or counted as lost. -/
def Obligations.StepsStaySettled : Prop := ∀ s t : State, step s = .next t → Settled t

/-- R361, R362: the word moves and the logic operations, in both forms, with Z and N of the result and V cleared. -/
def Obligations.WordLogic : Prop :=
  ∀ (s : State) (i : Issue) (f : AluForm), Runs s i (aluGuard f) →
    let a := aluLeft (s.eng i.e) f
    let b := aluRight (s.eng i.e) f
    let u := aluOnly (s.eng i.e) f
    let gives (c : Instr) (v : Word) := Completes c s (fun t => WordShown t i.e (aluDest f) v none (some false) false)
    gives (.and i f) (a &&& b) ∧ gives (.or i f) (a ||| b) ∧ gives (.xor i f) (a ^^^ b) ∧ gives (.andn i f) (a &&& ~~~b) ∧
    (aluOne f → gives (.mov i f) u ∧ gives (.not i f) (~~~u) ∧ gives (.swapb i f) (u.rotateLeft 8) ∧
      gives (.sxb i f) ((u.setWidth 8).signExtend 16) ∧ gives (.zxb i f) ((u.setWidth 8).setWidth 16))

/-- R338, R361, R381: sums, differences, NEG and ABS, exact and then placed in a word, with their carry. -/
def Obligations.WordSums : Prop :=
  ∀ (s : State) (i : Issue) (f : AluForm), Runs s i (aluGuard f) →
    let a := aluLeft (s.eng i.e) f
    let b := aluRight (s.eng i.e) f
    let u := aluOnly (s.eng i.e) f
    let sat := (s.eng i.e).st.getLsbD 14
    let cin := b2n ((s.eng i.e).st.getLsbD 1)
    let gives (c : Instr) (x : Int) (cf : Option Bool) := Completes c s (fun t => PlacedShown t i.e (aluDest f) sat x cf)
    gives (.add i f) (a.toInt + b.toInt) (some (decide (65536 ≤ a.toNat + b.toNat))) ∧
    gives (.addc i f) (a.toInt + b.toInt + cin) (some (decide (65536 ≤ a.toNat + b.toNat + cin))) ∧
    gives (.sub i f) (a.toInt - b.toInt) (some (decide (b.toNat ≤ a.toNat))) ∧
    gives (.subb i f) (a.toInt - b.toInt - (1 - cin)) (some (decide (b.toNat + (1 - cin) ≤ a.toNat))) ∧
    (aluOne f → gives (.neg i f) (0 - u.toInt) (some (u == 0)) ∧ gives (.abs i f) (u.toInt.natAbs : Int) none)

/-- R382: the word shifts, by a signed 6-bit count, in every case of the rule's table. -/
def Obligations.WordShifts : Prop :=
  ∀ (s : State) (i : Issue), let g := s.eng i.e
    let sat := g.st.getLsbD 14
    let carry (t : State) (n : Int) := n = 0 → g.fly = [] → (t.eng i.e).st.getLsbD 1 = g.st.getLsbD 1
    (∀ f : AluForm, Runs s i (aluGuard f) → let n := ((aluRight g f).setWidth 6).toInt
      Completes (.lsh i f) s (fun t => LshShown t i.e (aluDest f) (aluLeft g f) n ∧ carry t n) ∧
      Completes (.ash i f) s (fun t => AshShown t i.e (aluDest f) sat (aluLeft g f) n ∧ carry t n)) ∧
    (∀ (d : Fin 16) (imm : BitVec 6), Runs s i {} →
      Completes (.lshi i d imm) s (fun t => LshShown t i.e d (g.wr d) imm.toInt ∧ carry t imm.toInt) ∧
      Completes (.ashi i d imm) s (fun t => AshShown t i.e d sat (g.wr d) imm.toInt ∧ carry t imm.toInt))

/-- R361, R363, R371: minimum, maximum, redundant sign bits, the immediate forms and the bit operations. -/
def Obligations.WordSelectsAndImmediates : Prop :=
  ∀ (s : State) (i : Issue), let g := s.eng i.e
    let sat := g.st.getLsbD 14
    (∀ f : AluForm, Runs s i (aluGuard f) → let a := aluLeft g f
      let b := aluRight g f
      let plain (c : Instr) (v : Word) := Completes c s (fun t => WordShown t i.e (aluDest f) v none none false)
      plain (.min i f) (if a.toInt ≤ b.toInt then a else b) ∧ plain (.max i f) (if a.toInt ≤ b.toInt then b else a) ∧
      (aluOne f → ∃ v : Word, plain (.normw i f) v ∧ v.toNat ≤ 15 ∧
        let u := (aluOnly g f).toInt
        (u = 0 ∨ u = -1 → v = 15) ∧
        (u ≠ 0 → u ≠ -1 → (-32768 ≤ u * 2 ^ v.toNat ∧ u * 2 ^ v.toNat ≤ 32767) ∧
          ¬ (-32768 ≤ u * 2 ^ (v.toNat + 1) ∧ u * 2 ^ (v.toNat + 1) ≤ 32767)))) ∧
    (∀ (d : Fin 16) (imm : BitVec 6), Runs s i {} →
      Completes (.movi i (.short d imm)) s (fun t => WordShown t i.e d (imm.signExtend 16) none (some false) false) ∧
      Completes (.addi i (.short d imm)) s (fun t => PlacedShown t i.e d sat ((g.wr d).toInt + imm.toInt)
        (some (decide (65536 ≤ (g.wr d).toNat + (imm.signExtend 16).toNat)))) ∧
      (imm.toNat < 16 →
        Completes (.bclr i d imm) s (fun t => WordShown t i.e d (g.wr d &&& ~~~(1#16 <<< imm.toNat)) none none false) ∧
        Completes (.bset i d imm) s (fun t => WordShown t i.e d (g.wr d ||| 1#16 <<< imm.toNat) none none false) ∧
        Completes (.btgl i d imm) s (fun t => WordShown t i.e d (g.wr d ^^^ 1#16 <<< imm.toNat) none none false))) ∧
    (∀ (c : Guard) (d : Fin 16) (imm : Word), Runs s i c →
      Completes (.movi i (.long c d imm)) s (fun t => WordShown t i.e d imm none (some false) false) ∧
      Completes (.addi i (.long c d imm)) s (fun t => PlacedShown t i.e d sat ((g.wr d).toInt + imm.toInt)
        (some (decide (65536 ≤ (g.wr d).toNat + imm.toNat)))) ∧
      Completes (.andi i c d imm) s (fun t => WordShown t i.e d (g.wr d &&& imm) none (some false) false) ∧
      Completes (.ori i c d imm) s (fun t => WordShown t i.e d (g.wr d ||| imm) none (some false) false))

/-- R367, R371: immediates to X, M and L, and moves to and from every named register, each at its own distance. -/
def Obligations.RegisterMoves : Prop :=
  ∀ (s : State) (i : Issue), let g := s.eng i.e
    let e := i.e
    (∀ (c : Guard) (k : Fin 8) (imm : Word), Runs s i c →
      Completes (.movx i c false k imm) s (fun t => ResultAt s t e 2 (·.xr k) imm.toNat) ∧
      (imm.toNat < 256 → Completes (.movx i c true k imm) s (fun t =>
        ResultAt s t e 2 (fun h => h.xr k / 65536) imm.toNat ∧
        (g.fly = [] → ResultAt s t e 2 (fun h => h.xr k % 65536) (g.xr k % 65536)))) ∧
      Completes (.movm i c k imm) s (fun t => ResultAt s t e 2 (·.mr k) imm.toInt) ∧
      Completes (.movl i c k imm) s (fun t => ResultAt s t e 1 (·.lr k) imm.toNat)) ∧
    (∀ (n : Fin 16), Runs s i {} → let w := g.wr n
      let move (kind : Fin 16) (idx : Fin 8) (part : Bool) := Instr.moveToRegister i { kind := kind, idx := idx, part := part } n
      (∀ k : Fin 8,
        Completes (move 0 k false) s (fun t => ResultAt s t e 2 (fun h => h.xr k % 65536) w.toNat) ∧
        Completes (move 0 k true) s (fun t => ResultAt s t e 2 (fun h => h.xr k / 65536) (w.toNat % 256)) ∧
        Completes (move 1 k false) s (fun t => ResultAt s t e 2 (·.mr k) w.toInt) ∧
        Completes (move 2 k false) s (fun t => ResultAt s t e 2 (fun h => h.br k % 65536) w.toNat) ∧
        Completes (move 2 k true) s (fun t => ResultAt s t e 2 (fun h => h.br k / 65536) (w.toNat % 256)) ∧
        Completes (move 3 k false) s (fun t => ResultAt s t e 1 (·.lr k) w.toNat)) ∧
      Completes (move 4 0 false) s (fun t => ∀ j : Fin 8, ResultAt s t e 2 (·.pr j) (j == 0 || w.getLsbD j)) ∧
      Completes (move 5 0 false) s (fun t => ResultAt s t e 2 (·.lk) (w.setWidth 15)) ∧
      Completes (move 6 0 false) s (fun t => ResultAt s t e 2 (·.lkT) w) ∧
      (w.extractLsb' 11 2 ≠ 3 → Completes (move 7 0 false) s (fun t =>
        ResultAt s t e 1 (fun h => h.st.extractLsb' 0 4) (w.extractLsb' 0 4) ∧
        ResultAt s t e 3 (fun h => h.st &&& 0x78F0) (w &&& 0x78F0))) ∧
      (∀ k : Fin 8, k.val ≤ 1 → Completes (move 8 k false) s (fun t => ((t.eng e).advances 2).lcr k = w.toNat)) ∧
      (∀ k : Fin 8, k.val ≤ 3 →
        Completes (move 9 k false) s (fun t => ResultAt s t e 2 (fun h => (h.ar k).extractLsb' 0 16) w) ∧
        Completes (move 10 k false) s (fun t => ResultAt s t e 2 (fun h => (h.ar k).extractLsb' 16 16) w) ∧
        Completes (move 10 k true) s (fun t => ResultAt s t e 2 (fun h => (h.ar k).extractLsb' 16 24) (w.signExtend 24)) ∧
        Completes (move 11 k false) s (fun t => ResultAt s t e 2 (fun h => (h.ar k).extractLsb' 32 8) (w.setWidth 8)))) ∧
    (∀ (n : Fin 16), Runs s i {} →
      let gives (kind : Fin 16) (idx : Fin 8) (part : Bool) (v : Word) :=
        Completes (.moveFromRegister i { kind := kind, idx := idx, part := part } n) s (fun t => (t.eng e).wr n = v)
      (∀ k : Fin 8,
        gives 0 k false (BitVec.ofNat 16 (g.xr k)) ∧ gives 0 k true (BitVec.ofNat 16 (g.xr k / 65536)) ∧
        gives 1 k false (g.m.getD k 0) ∧
        gives 2 k false (BitVec.ofNat 16 (g.br k)) ∧ gives 2 k true (BitVec.ofNat 16 (g.br k / 65536)) ∧
        gives 3 k false (g.l.getD k 0)) ∧
      Completes (.moveFromRegister i { kind := 4, idx := 0, part := false } n) s (fun t =>
        ∀ j : Fin 16, ((t.eng e).wr n).getLsbD j = (decide (j.val < 8) && g.pr j)) ∧
      gives 5 0 false (g.lk.setWidth 16) ∧ gives 6 0 false g.lkT ∧ gives 7 0 false g.st ∧
      (∀ k : Fin 8, k.val ≤ 1 → gives 8 k false (g.lc.getD k 0)) ∧
      (∀ k : Fin 8, k.val ≤ 3 →
        gives 9 k false ((g.ar k).extractLsb' 0 16) ∧ gives 10 k false ((g.ar k).extractLsb' 16 16) ∧
        gives 11 k false (((g.ar k).extractLsb' 32 8).signExtend 16)))

/-- R372, R373: compares, predicate logic and bit tests, at distance 2; a result for P0 is discarded. -/
def Obligations.Predicates : Prop :=
  ∀ (s : State) (i : Issue) (c : Guard) (d : Fin 8), Runs s i c →
    let g := s.eng i.e
    let gives (x : Instr) (b : Bool) := Completes x s (fun t => ResultAt s t i.e 2 (·.pr d) (d == 0 || b))
    let signed (x y : Int) (k : Fin 16) (b : Bool) : Prop :=
      (k = 0 → b = decide (x = y)) ∧ (k = 1 → b = decide (x ≠ y)) ∧ (k = 2 → b = decide (x < y)) ∧
      (k = 3 → b = decide (y ≤ x)) ∧ (k = 4 → b = decide (x ≤ y)) ∧ (k = 5 → b = decide (y < x))
    let words (x y : Word) (k : Fin 16) (b : Bool) : Prop :=
      signed x.toInt y.toInt k b ∧
      (k = 6 → b = decide (x.toNat < y.toNat)) ∧ (k = 7 → b = decide (y.toNat ≤ x.toNat)) ∧
      (k = 8 → b = decide (x.toNat ≤ y.toNat)) ∧ (k = 9 → b = decide (y.toNat < x.toNat)) ∧
      (k = 10 → b = (x &&& y == 0)) ∧ (k = 11 → b = (x &&& y != 0))
    (∀ (k a b : Fin 16), k.val < 12 → ∃ p, words (g.wr a) (g.wr b) k p ∧ gives (.cmp i c d k a b) p) ∧
    (∀ (k a : Fin 16) (imm : BitVec 9), k.val < 12 →
      ∃ p, words (g.wr a) (imm.signExtend 16) k p ∧ gives (.cmpi i c d k a imm) p) ∧
    (∀ (k : Fin 16) (a b : Fin 4), k.val < 6 →
      ∃ p, signed (g.ar a).toInt (g.ar b).toInt k p ∧ gives (.acmp i c d k a b) p) ∧
    (∀ (a b : Fin 8), let p := g.pr a
      let q := g.pr b
      gives (.plog i c d a b 0) (p && q) ∧ gives (.plog i c d a b 1) (p || q) ∧ gives (.plog i c d a b 2) (p ^^ q) ∧
      gives (.plog i c d a b 3) (p && !q) ∧ gives (.plog i c d a b 4) (p || !q) ∧ gives (.plog i c d a 0 5) (!p) ∧
      gives (.plog i c d 0 0 6) true ∧ gives (.plog i c d 0 0 7) false) ∧
    (∀ (a n : Fin 16) (inv : Bool), gives (.btst i c d a n inv) ((g.wr a).getLsbD n ^^ inv))

/-- R339, R340, R374, R383: the accumulator group; exact results placed in 40 bits, in a word, or clamped. -/
def Obligations.Accumulators : Prop :=
  ∀ (s : State) (i : Issue) (c : Guard), Runs s i c →
    let g := s.eng i.e
    let sat := g.st.getLsbD 14
    let placed (x : Instr) (d : Fin 4) (v : Int) := Completes x s (fun t => AccPlaced s t i.e 2 d sat v)
    let shown (x : Instr) (d : Fin 4) (v : BitVec 40) := Completes x s (fun t => AccShown s t i.e 2 d v false false (guardUsed v))
    let shift (x : Instr) (d a : Fin 4) (n : Int) (log : Bool) :=
      (0 ≤ n → log = false → placed x d ((g.ar a).toInt * 2 ^ n.toNat)) ∧
      (0 ≤ n → log = true → shown x d (g.ar a <<< n.toNat)) ∧
      (n < 0 → log = false → shown x d ((g.ar a).sshiftRight n.natAbs)) ∧
      (n < 0 → log = true → shown x d (g.ar a >>> n.natAbs))
    (∀ d a b : Fin 4,
      placed (.aadd i c d a b) d ((g.ar a).toInt + (g.ar b).toInt) ∧
      placed (.asub i c d a b) d ((g.ar a).toInt - (g.ar b).toInt) ∧
      placed (.aneg i c d a) d (-(g.ar a).toInt) ∧ placed (.aabs i c d a) d (g.ar a).toInt.natAbs ∧
      (∀ (n : BitVec 7) (log : Bool), shift (.ashiAcc i c d a n log) d a n.toInt log) ∧
      (∀ (k : Fin 16) (log : Bool), shift (.ashr i c d a k log) d a ((g.wr k).setWidth 7).toInt log) ∧
      (let x := clampInt (-2 ^ 31) (2 ^ 31 - 1) (g.ar a).toInt;
        Completes (.asat i c d a) s (fun t =>
          AccShown s t i.e 2 d (BitVec.ofInt 40 x) (x != (g.ar a).toInt) false false ∧
          (x ≠ (g.ar a).toInt → ((t.eng i.e).advances 1).st.getLsbD 4 = true)))) ∧
    (∀ (d : Fin 4) (w : Fin 16),
      shown (.amovw i c d w) d (if g.st.getLsbD 13 then (g.wr w).signExtend 40 <<< 16 else (g.wr w).signExtend 40)) ∧
    (∀ (d : Fin 16) (a : Fin 4), let x := (g.ar a).toInt
      (RndLegal g.st → Completes (.narrow i c d a) s (fun t =>
        PlacedShown t i.e d sat (if g.st.getLsbD 13 then roundedAt g.st x else x) none)) ∧
      ∃ v : Word, Completes (.norm i c d a) s (fun t => WordShown t i.e d v none none false) ∧ v.toNat ≤ 39 ∧
        (x = 0 ∨ x = -1 → v = 39) ∧
        (x ≠ 0 → x ≠ -1 → (-2 ^ 39 ≤ x * 2 ^ v.toNat ∧ x * 2 ^ v.toNat < 2 ^ 39) ∧
          ¬ (-2 ^ 39 ≤ x * 2 ^ (v.toNat + 1) ∧ x * 2 ^ (v.toNat + 1) < 2 ^ 39)))

/-- R337, R344, R365, R375, R376: the multiply forms; exact totals placed once, at distance 4, and MPYW at distance 3; a
multiply-accumulate chained to one issued the cycle before sums both products. -/
def Obligations.Multiplies : Prop :=
  (
    ∀ (s : State) (i : Issue), let g := s.eng i.e
      let sat := g.st.getLsbD 14
      (∀ (c : Guard) (f : MulForm) (d : Fin 4) (a b : Fin 16),
        (f = .short d a b ∧ c = {}) ∨ f = .long c d a b → Runs s i c → let p := productOf g.st (g.wr a) (g.wr b)
        Completes (.mpy i f) s (fun t => MacShown s t i.e sat d p []) ∧
        (Unchained g d →
          Completes (.mac i f) s (fun t => MacShown s t i.e sat d ((g.ar d).toInt + p) []) ∧
          Completes (.msu i f) s (fun t => MacShown s t i.e sat d ((g.ar d).toInt - p) []))) ∧
      (∀ (c : Guard) (d a b : Fin 16), Runs s i c → RndLegal g.st →
        let p := productOf g.st (g.wr a) (g.wr b)
        let x := if g.st.getLsbD 13 then roundedAt g.st p else p
        Completes (.mpyw i c d a b) s (fun t => ResultAt s t i.e 3 (·.wr d) (fitWord sat x) ∧
          ResultAt s t i.e 3 znv (fitWord sat x == 0, (fitWord sat x).msb, outOfWord x) ∧
          ((sat && outOfWord x) = true → ((t.eng i.e).advances 2).st.getLsbD 4 = true))) ∧
      (∀ (c : Guard) (m : M2), Runs s i c → (∀ d : Fin 4, Unchained g d) →
        let w (n : Nat) := g.wr n
        let ac := productOf g.st (w (2 * m.p)) (w (2 * m.q))
        let ad := productOf g.st (w (2 * m.p)) (w (2 * m.q + 1))
        let bc := productOf g.st (w (2 * m.p + 1)) (w (2 * m.q))
        let bd := productOf g.st (w (2 * m.p + 1)) (w (2 * m.q + 1))
        let total (d : Nat) (x : Int) := (if m.clr then 0 else (g.ar d).toInt) + (if m.neg then -x else x)
        let d := m.d.val
        Completes (.dmac i c m) s (fun t => MacShown s t i.e sat d (total d (ac + bd)) []) ∧
        (d % 2 = 0 →
          Completes (.cmac i c m) s (fun t =>
            MacShown s t i.e sat d (total d (ac - bd)) [(d + 1, total (d + 1) (ad + bc))]) ∧
          Completes (.cmacj i c m) s (fun t =>
            MacShown s t i.e sat d (total d (ac + bd)) [(d + 1, total (d + 1) (bc - ad))])) ∧
        (d = 0 → Completes (.qmac i c m) s (fun t =>
          MacShown s t i.e sat 0 (total 0 ac) [(1, total 1 ad), (2, total 2 bc), (3, total 3 bd)])))) ∧
  (
    ∀ (s : State) (i : Issue) (d : Fin 4) (a b a' b' : Fin 16) (t : State),
      Runs s i {} → (s.eng i.e).fly = [] → (s.eng i.e).tend = none →
      exec (.mac i (.short d a b)) s = .next t →
      let g := s.eng i.e
      let x := (g.ar d).toInt + productOf g.st (g.wr a) (g.wr b)
      let y := productOf g.st (g.wr a') (g.wr b')
      outOfAcc x = false →
      Completes (.mac i (.short d a' b')) t (fun u =>
        ((u.eng i.e).advances 3).ar d = fitAcc (g.st.getLsbD 14) (x + y)))

/-- R378, R384: division in both modes, its corners and the divisor 0, at distance 18. -/
def Obligations.Division : Prop :=
  ∀ (s : State) (i : Issue) (c : Guard) (q r a b : Fin 16), Runs s i c → q ≠ r →
    let g := s.eng i.e
    let sat := g.st.getLsbD 14
    let n : Int := (g.wr a).toInt * (if g.st.getLsbD 13 then 32768 else 1)
    let m := (g.wr b).toInt
    Completes (.div i c q r a b) s (fun t =>
      (m ≠ 0 → ResultAt s t i.e 18 (·.wr q) (fitWord sat (n.tdiv m)) ∧
        ResultAt s t i.e 18 (·.wr r) (BitVec.ofInt 16 (n.tmod m)) ∧
        ResultAt s t i.e 18 znv (fitWord sat (n.tdiv m) == 0, (fitWord sat (n.tdiv m)).msb, outOfWord (n.tdiv m)) ∧
        ((sat && outOfWord (n.tdiv m)) = true → ((t.eng i.e).advances 17).st.getLsbD 4 = true)) ∧
      (m = 0 → let v : Word := if 0 ≤ n then 0x7FFF else 0x8000
        ResultAt s t i.e 18 (·.wr q) v ∧ ResultAt s t i.e 18 znv (false, v.msb, false) ∧
        ((t.eng i.e).advances 17).st.getLsbD 5 = true ∧
        (g.st.getLsbD 13 = false → ResultAt s t i.e 18 (·.wr r) (g.wr a))))

/-- R328, R329: the address and the write back of every addressing mode, linear and circular. -/
def Obligations.AddressingModes : Prop :=
  ∀ (g : Engine) (k j : Fin 8), let x : Int := g.xr k
    let b : Int := g.br k
    let n : Int := g.lr k
    let wrap (v : Int) : Nat := (v % 2 ^ 24).toNat
    let ring (v : Int) : Nat := if n = 0 then wrap v else wrap (b + (v - b) % n)
    (∀ o, g.longAddr (.offset k o) = (wrap (x + o.toInt), none)) ∧
    (∀ st, g.longAddr (.postImm k st) = (g.xr k, some (k.val, ring (x + st.toInt)))) ∧
    (g.longAddr (.postM k j) = (g.xr k, some (k.val, ring (x + g.mr j)))) ∧
    (∀ st : Fin 8, g.longAddr (.preImm k st) = (ring (x - (st.val + 1)), some (k.val, ring (x - (st.val + 1))))) ∧
    (g.longAddr (.preM k j) = (ring (x - g.mr j), some (k.val, ring (x - g.mr j)))) ∧
    (∀ (w : Fin 16) (sh : Fin 4), g.longAddr (.index k w sh) = (wrap (x + (g.wr w).toInt * 2 ^ sh.val), none)) ∧
    (∀ a, g.longAddr (.absolute a) = (a.toNat, none)) ∧
    (∀ r, memAddr g (.short 0 k r) = some (g.xr k, none) ∧
      memAddr g (.short 1 k r) = some (g.xr k, some (k.val, ring (x + 1))) ∧
      memAddr g (.short 2 k r) = some (ring (x - 1), some (k.val, ring (x - 1))) ∧ memAddr g (.short 3 k r) = none)

/-- R364, R370, R377, R379: loads of words, accumulator parts and whole accumulators, the dual load and the load of a
special register, each at its distance, with the write back of the address. -/
def Obligations.Loads : Prop :=
  ∀ (s : State) (i : Issue), let g := s.eng i.e
    let e := i.e
    (∀ (f : MemForm) (a : Nat) (back : Option (Nat × Nat)) (w : Word), Runs s i (memGuard f) →
      memAddr g f = some (a, back) → PlainRead s e a w → let r := memReg f
      (r < 28 → Completes (.load i f []) s (fun t =>
        (r < 16 → ResultAt s t e 3 (·.wr r) w) ∧
        (16 ≤ r → r < 20 → ResultAt s t e 3 (fun h => (h.ar (r - 16)).extractLsb' 0 16) w) ∧
        (20 ≤ r → r < 24 → ResultAt s t e 3 (fun h => (h.ar (r - 20)).extractLsb' 16 16) w) ∧
        (24 ≤ r → ResultAt s t e 3 (fun h => (h.ar (r - 24)).extractLsb' 32 8) (w.setWidth 8)) ∧
        BackShown s t e back)) ∧
      (28 ≤ r → ∀ v, PlainRead s e ((a + 1) % 2 ^ 24) v → Completes (.load i f []) s (fun t =>
        ResultAt s t e 3 (·.ar (r - 28)) ((v ++ w).signExtend 40) ∧ BackShown s t e back))) ∧
    (∀ (c : Guard) (p xa xb : Fin 8) (ma mb : Fin 4) (v w : Word), Runs s i c → xa ≠ xb →
      PlainRead s e (g.dualAddr ma xa).1 v → PlainRead s e (g.dualAddr mb xb).1 w →
      Completes (.ld2 i c p xa ma xb mb []) s (fun t =>
        ResultAt s t e 3 (·.wr (2 * p)) v ∧ ResultAt s t e 3 (·.wr (2 * p + 1)) w ∧
        BackShown s t e (g.dualAddr ma xa).2 ∧ BackShown s t e (g.dualAddr mb xb).2)) ∧
    (∀ (c : Guard) (m : SpecMode) (r : RegName) (a : Nat) (back : Option (Nat × Nat)) (w : Word), Runs s i c →
      g.specAddr m = some (a, back) → (regDest r).isSome = true → PlainRead s e a w →
      (r.kind = 7 → w.extractLsb' 11 2 ≠ 3) → Completes (.lds i c m r []) s (fun t =>
        (r.kind ≠ 7 → ((t.eng e).advances (if 9 ≤ r.kind.val then 2 else 3)).regRead
          { r with part := r.part && r.kind != 10 } = some (namedValue r w)) ∧
        (r.kind = 7 → ((t.eng e).advances 3).st &&& 0x78FF = w &&& 0x78FF)))

/-- R332, R334, R340, R370, R379: a store to local memory stands at once; a store elsewhere enters the write buffer; an
accumulator is narrowed to 32 bits; nothing else of the block changes. -/
def Obligations.Stores : Prop :=
  ∀ (s : State) (i : Issue), Settled s → Quiet (s.eng i.e) →
    let g := s.eng i.e
    let e := i.e
    let sat := g.st.getLsbD 14
    (∀ (f : MemForm) (a : Nat) (back : Option (Nat × Nat)), Runs s i (memGuard f) → memAddr g f = some (a, back) →
      let r := memReg f
      let w : Word :=
        if r < 16 then g.wr r else if r < 20 then (g.ar (r - 16)).extractLsb' 0 16
        else if r < 24 then (g.ar (r - 20)).extractLsb' 16 16
        else if r < 28 then ((g.ar (r - 24)).extractLsb' 32 8).signExtend 16
        else (fit32 sat (g.ar (r - 28)).toInt).extractLsb' 0 16
      let v := (fit32 sat (g.ar (r - 28)).toInt).extractLsb' 16 16
      let b := (a + 1) % 2 ^ 24
      (a < 0x8000 → (28 ≤ r → b < 0x8000) → Completes (.store i f none) s (fun t =>
        localWord t e a = w ∧ (28 ≤ r → localWord t e b = v) ∧
        (∀ k, k ≠ a → (28 ≤ r → k ≠ b) → localWord t e k = localWord s e k) ∧
        (28 ≤ r → outOf32 (g.ar (r - 28)).toInt = true →
          (t.eng e).st.getLsbD 0 = true ∧ (sat = true → (t.eng e).st.getLsbD 4 = true)) ∧
        BackShown s t e back ∧
        OnlyEngine s t e (fun h q => { q with loc := h.loc, locBad := h.locBad, x := h.x, st := h.st }))) ∧
      (0x8000 ≤ a → r < 28 → g.wbuf.length < 8 → Completes (.store i f none) s (fun t =>
        (t.eng e).wbuf = g.wbuf ++ [(a, w)] ∧ BackShown s t e back ∧
        OnlyEngine s t e (fun h q => { q with wbuf := h.wbuf, x := h.x })))) ∧
    (∀ (c : Guard) (m : SpecMode) (r : RegName) (a v : Nat) (back : Option (Nat × Nat)), Runs s i c →
      g.specAddr m = some (a, back) → g.regRead r = some v → stsBad r m.k = false → a < 0x8000 →
      Completes (.sts i c m r) s (fun t => localWord t e a = BitVec.ofNat 16 v ∧
        (∀ k, k ≠ a → localWord t e k = localWord s e k) ∧ BackShown s t e back ∧
        OnlyEngine s t e (fun h q => { q with loc := h.loc, locBad := h.locBad, x := h.x })))

/-- R390, R391: TBL reads the entry that the input selects, and TBLI interpolates between it and the next. -/
def Obligations.TableLookUp : Prop :=
  ∀ (s : State) (i : Issue) (c : Guard) (d a : Fin 16) (k : Fin 8) (w0 w1 w2 w3 y z : Word), Runs s i c →
    let g := s.eng i.e
    let x := g.xr k
    let at_ (n : Nat) : Nat := (w0.toNat + 65536 * (w1.toNat % 256) + n) % 2 ^ 24
    let bits := (w1.extractLsb' 8 4).toNat
    let u := (g.wr a + w2).toNat
    let n := u / 2 ^ (16 - bits)
    let f : Int := (u * 2 ^ bits % 65536 : Nat)
    let n' := if w1.msb then (n + 1) % 2 ^ bits else n + 1
    PlainRead s i.e (x % 2 ^ 24) w0 → PlainRead s i.e ((x + 1) % 2 ^ 24) w1 → PlainRead s i.e ((x + 2) % 2 ^ 24) w2 →
    PlainRead s i.e ((x + 3) % 2 ^ 24) w3 → PlainRead s i.e (at_ n) y →
    let gives (c : Instr) (v : Int) := Completes c s (fun t =>
      ResultAt s t i.e 3 (·.wr d) (BitVec.ofInt 16 v) ∧
      ResultAt s t i.e 3 (fun h => h.st.extractLsb' 2 2) (BitVec.ofBool (BitVec.ofInt 16 v == 0) ++ BitVec.ofBool (BitVec.ofInt 16 v).msb) ∧
      ((s.eng i.e).fly = [] → ResultAt s t i.e 3 (fun h => h.st.extractLsb' 0 2) (g.st.extractLsb' 0 2)))
    gives (.tbl i c d a k []) y.toInt ∧
    (PlainRead s i.e (at_ n') z → RndLegal g.st →
      gives (.tbli i c d a k []) (y.toInt + roundedAt g.st ((z.toInt - y.toInt) * f)))

/-- R345, R360, R366, R380: NOP goes on; a branch, call or return reaches its target after two delay slots; a call leaves in
LK the address after the second delay slot. -/
def Obligations.Branches : Prop :=
  ∀ (s : State) (i : Issue), let g := s.eng i.e
    let e := i.e
    let nop := Instr.nop { e := i.e }
    Settled s → g.jump = none → g.tend = none → NoLoops g →
    let link (len : Nat) := BitVec.ofNat 15 (g.pc + len + g.lengthAt (g.pc + len)
      + g.lengthAt (g.pc + len + g.lengthAt (g.pc + len)))
    let branches (c : Instr) (len target : Nat) := Completes c s (fun t => (t.eng e).pc = (g.pc + len) % 32768 ∧
      Completes nop t (fun u => (u.eng e).pc = (g.pc + len + 1) % 32768 ∧
        Completes nop u (fun v => (v.eng e).pc = target)))
    (Runs s i {} →
      Completes (.nop i) s (fun t => (t.eng e).pc = (g.pc + 1) % 32768 ∧ (g.fly = [] → OnlyEngine s t e (fun _ q => q))) ∧
      branches (.ret i none) 1 g.lk.toNat ∧
      (∀ k : Fin 8, branches (.brr i k) 1 (g.xr k % 32768) ∧ branches (.callr i k) 1 (g.xr k % 32768) ∧
        Completes (.callr i k) s (fun t => (t.eng e).lk = link 1)) ∧
      (∀ ofs : BitVec 12, branches (.bra i ofs) 1 ((g.pc + ofs.toInt) % 32768).toNat ∧
        branches (.call i (.inl ofs)) 1 ((g.pc + ofs.toInt) % 32768).toNat ∧
        Completes (.call i (.inl ofs)) s (fun t => (t.eng e).lk = link 1))) ∧
    (∀ c : Guard, Runs s i c →
      branches (.ret i (some c)) 2 g.lk.toNat ∧
      (∀ a : BitVec 15, branches (.br i c a) 2 a.toNat ∧ branches (.call i (.inr (c, a))) 2 a.toNat ∧
        Completes (.call i (.inr (c, a))) s (fun t => (t.eng e).lk = link 2)))

/-- R335, R346, R347, R351, R405: SWI traps, RTT returns from a trap, FENCE performs the writes that wait, and TEND ends the
task's run after its delay slots. -/
def Obligations.TrapsFencesAndTaskEnds : Prop :=
  ∀ (s : State) (i : Issue), let g := s.eng i.e
    let e := i.e
    let nop := Instr.nop { e := i.e }
    Runs s i {} →
    (∀ code, g.tm = false → Completes (.swi i code) s (fun t => TrapTaken s t e 6)) ∧
    (g.fly = [] → g.jump = none → g.tend = none → NoLoops g → Completes (.rtt i) s (fun t =>
      Completes nop t (fun u => Completes nop u (fun v =>
        (v.eng e).pc = g.lkT.toNat % 32768 ∧ (v.eng e).tm = false)))) ∧
    (∀ a v : Nat, 0x100000 ≤ a → a < 0x300000 → s.live = true → s.allowed e ((a - 0x100000) / 0x10000) .write = true →
      s.memSt.borrowed = none → s.frozenAt a = false → g.wbuf = [(a, BitVec.ofNat 16 v)] →
      Completes (.fence i) s (fun t => (t.eng e).wbuf = [] ∧
        ∀ b, t.memGet b = if b = a then BitVec.ofNat 16 v else s.memGet b)) ∧
    (∀ k : Fin 240, g.task = some k.val → g.jump = none → g.tend = none → NoLoops g → Completes (.tend i) s (fun t =>
      (t.eng e).issuing = true ∧ Completes nop t (fun u => (u.eng e).issuing = true ∧ Completes nop u (fun v =>
        (v.eng e).issuing = false ∧ (v.eng e).task = none ∧ (v.taskSt k).outcome = 1 ∧ (v.taskSt k).done = true ∧
        v.get (R.TASK_RUNS k) = (s.get (R.TASK_RUNS k) + 1) % 256 ∧ v.get (R.TASK_LAST_ENG k) = e.val))))

/-- R360, R385, R386, R387: a LOOP opens its level over the body that follows; at the end parcel the count decides; LBRK
closes the level. -/
def Obligations.HardwareLoops : Prop :=
  ∀ (s : State) (i : Issue), let g := s.eng i.e
    let e := i.e
    g.jump = none → g.tend = none → g.tm = false →
    (∀ (c : Guard) (k : Fin 2) (n : BitVec 10) (len : BitVec 6), Runs s i c → NoLoops g → n ≠ 0 →
      Completes (.loopi i c k n len) s (fun t => (t.eng e).pc = (g.pc + 2) % 32768 ∧
        (g.fly = [] → (t.eng e).lcr k = n.toNat) ∧
        (t.eng e).loops.getD k none = some { first := (g.pc + 2) % 32768, last := ((g.pc + 2) % 32768 + len.toNat) % 32768 })) ∧
    (∀ (c : Guard) (k : Fin 2) (a : Fin 16) (len : BitVec 12), Runs s i c → NoLoops g →
      (g.wr a ≠ 0 → Completes (.loopr i c k a len) s (fun t => (t.eng e).pc = (g.pc + 2) % 32768 ∧
        (g.fly = [] → (t.eng e).lcr k = (g.wr a).toNat) ∧
        (t.eng e).loops.getD k none = some { first := (g.pc + 2) % 32768, last := ((g.pc + 2) % 32768 + len.toNat) % 32768 })) ∧
      (g.wr a = 0 → Completes (.loopr i c k a len) s (fun t => NoLoops (t.eng e) ∧
        (t.eng e).pc = ((g.pc + 2) % 32768 + len.toNat + 1) % 32768))) ∧
    (∀ k : Fin 2, Runs s i {} → Completes (.lbrk i k) s (fun t =>
      (t.eng e).loops.getD k none = none ∧ ((t.eng e).advances 2).lcr k = 0)) ∧
    (∀ (k : Fin 2) (l : Loop), Runs s i {} → g.fly = [] → l.last = g.pc % 32768 →
      g.loops.getD k none = some l → (∀ j, j ≠ k.val → g.loops.getD j none = none) →
      Completes (.nop i) s (fun t =>
        (2 ≤ g.lcr k → (t.eng e).pc = l.first ∧ (t.eng e).lcr k = g.lcr k - 1 ∧ (t.eng e).loops.getD k none = some l) ∧
        (g.lcr k ≤ 1 → (t.eng e).pc = (g.pc + 1) % 32768 ∧ (t.eng e).lcr k = 0 ∧ (t.eng e).loops.getD k none = none)))

/-- R394 to R396: a user opcode with no microcode raises UXU, whatever its guard; one whose first micro-word is the last does
what that word's native instruction does, its nibbles taken from parcel 1 where the word says so. -/
def Obligations.UserOpcodes : Prop :=
  ∀ (s : State) (i : Issue) (c : Guard) (slot : Fin 64) (body : Word), (s.eng i.e).issuing = true → i.parity = false →
    let g := s.eng i.e
    let e := i.e
    let entry := wmGet 0 g.dtab slot
    g.ucBad = [] →
    (g.tm = false → entry.msb = false → Completes (.userOpcode i c slot body [] []) s (fun t => TrapTaken s t e 2)) ∧
    (∀ (k : Fin 8) (imm : Word), entry.msb = true → g.guardOn c = true →
      let n := entry.toNat % 256
      wmGet 0 g.ucode (3 * n + 1) = BitVec.ofNat 16 (0xE178 + k.val) → wmGet 0 g.ucode (3 * n) = imm →
      (wmGet 0 g.ucode (3 * n + 2) = 0x8000 →
        Completes (.userOpcode i c slot body [] []) s (fun t => ResultAt s t e 1 (·.lr k) imm.toNat)) ∧
      (wmGet 0 g.ucode (3 * n + 2) = 0x829C →
        Completes (.userOpcode i c slot body [] []) s (fun t => ResultAt s t e 1 (·.lr k) body.toNat)))

/-- R327, R346, R393: a form that is reserved raises ILL whatever its guard, and a parcel that fails parity raises IPAR. -/
def Obligations.ReservedFormsTrap : Prop :=
  ∀ (s : State) (i : Issue), (s.eng i.e).issuing = true → (s.eng i.e).tm = false →
    let e := i.e
    let traps (tc : Nat) (c : Instr) := Completes c s (fun t => TrapTaken s t e tc)
    (i.parity = true → traps 4 (.nop i) ∧ (∀ f, traps 4 (.add i f)) ∧ ∀ c slot body, traps 4 (.userOpcode i c slot body [] [])) ∧
    (i.parity = false →
      (∀ (k : Fin 8) (r : Fin 16) (u : List Upset), traps 1 (.load i (.short 3 k r) u)) ∧
      (∀ (k : Fin 8) (r : Fin 16), traps 1 (.store i (.short 3 k r) none)) ∧
      (∀ (c : Guard) (d a b : Fin 16), b ≠ 0 →
        traps 1 (.mov i (.long c d a b)) ∧ traps 1 (.not i (.long c d a b)) ∧ traps 1 (.neg i (.long c d a b)) ∧
        traps 1 (.abs i (.long c d a b)) ∧ traps 1 (.swapb i (.long c d a b)) ∧ traps 1 (.sxb i (.long c d a b)) ∧
        traps 1 (.zxb i (.long c d a b)) ∧ traps 1 (.normw i (.long c d a b))) ∧
      (∀ (d : Fin 16) (imm : BitVec 6), 16 ≤ imm.toNat →
        traps 1 (.bclr i d imm) ∧ traps 1 (.bset i d imm) ∧ traps 1 (.btgl i d imm)) ∧
      (∀ (c : Guard) (k : Fin 8) (imm : Word), 256 ≤ imm.toNat → traps 1 (.movx i c true k imm)) ∧
      (∀ (c : Guard) (d : Fin 8) (k a b : Fin 16) (imm : BitVec 9), 12 ≤ k.val →
        traps 1 (.cmp i c d k a b) ∧ traps 1 (.cmpi i c d k a imm)) ∧
      (∀ (c : Guard) (d : Fin 8) (k : Fin 16) (a b : Fin 4), 6 ≤ k.val → traps 1 (.acmp i c d k a b)) ∧
      (∀ (c : Guard) (m : M2), (m.d.val % 2 = 1 → traps 1 (.cmac i c m) ∧ traps 1 (.cmacj i c m)) ∧
        (m.d ≠ 0 → traps 1 (.qmac i c m))) ∧
      (∀ (c : Guard) (p x : Fin 8) (ma mb : Fin 4), traps 1 (.ld2 i c p x ma x mb [])) ∧
      (∀ (c : Guard) (q a b : Fin 16), traps 1 (.div i c q q a b)) ∧
      (∀ (c : Guard) (k : Fin 2) (len : BitVec 6), traps 1 (.loopi i c k 0 len)) ∧
      (∀ (d a b : Fin 16), traps 1 (.add i (.long { gp := 0, gn := true } d a b))) ∧
      (∀ (n : Fin 16), bitsOf ((s.eng e).wr n).toNat 12 11 = 3 → traps 1 (.moveToRegister i { kind := 7, idx := 0, part := false } n)) ∧
      ((s.eng e).inSlot = true → traps 1 (.ret i none) ∧ traps 1 (.rtt i) ∧ (∀ k, traps 1 (.brr i k) ∧ traps 1 (.callr i k)) ∧
        (∀ o, traps 1 (.bra i o) ∧ traps 1 (.call i (.inl o))) ∧ ∀ c a, traps 1 (.br i c a)))

/-- R327: a long instruction whose guard is false takes its cycle and writes no register, predicate, flag or memory. -/
def Obligations.GuardFalse : Prop :=
  ∀ (s : State) (i : Issue) (c : Guard), Settled s → (s.eng i.e).issuing = true → i.parity = false →
    guardBad c = false → (s.eng i.e).guardOn c = false → Quiet (s.eng i.e) → NoLoops (s.eng i.e) →
    let idle (x : Instr) := Completes x s (fun t => OnlyEngine s t i.e (fun _ q => q) ∧
      (t.eng i.e).pc = ((s.eng i.e).pc + 2) % 32768 ∧ (t.eng i.e).fly = [])
    (∀ (d a b : Fin 16), idle (.add i (.long c d a b)) ∧ idle (.mpyw i c d a b)) ∧
    (∀ (r : Fin 32) (m : LongMode) (u : List Upset), idle (.load i (.long c r m) u) ∧ idle (.store i (.long c r m) none)) ∧
    (∀ (d : Fin 4) (a b : Fin 16), idle (.mac i (.long c d a b))) ∧
    (∀ (d a b : Fin 4), idle (.aadd i c d a b)) ∧
    (∀ (d a : Fin 16) (k : Fin 8) (u : List Upset), idle (.tbl i c d a k u) ∧ idle (.tbli i c d a k u)) ∧
    (∀ a, idle (.br i c a) ∧ idle (.call i (.inr (c, a)))) ∧ idle (.ret i (some c)) ∧
    (∀ (k : Fin 2) (n : BitVec 10) (len : BitVec 6), n ≠ 0 → (s.eng i.e).tm = false → idle (.loopi i c k n len)) ∧
    (∀ (slot : Fin 64) (body : Word), (wmGet 0 (s.eng i.e).dtab slot).msb = true → (s.eng i.e).ucBad = [] →
      idle (.userOpcode i c slot body [] []))

/-- The frames of the engines' instructions. Word operations: Wd, the flags of the operation and the engine's flow change, and
nothing else. Accumulator, multiply, division and predicate instructions: until their results land only the engine's flow
changes, and what lands is the destination and the flags of the instruction. Loads and table look-ups that read whole words:
the write back of the address, the destination that lands, and nothing else. Moves to L
and ST, and control flow: the flow, LK of a call, the register moved to, and nothing else. -/
def Obligations.InstructionFrames : Prop :=
  (
    ∀ (s : State) (i : Issue), Settled s → Quiet (s.eng i.e) →
      let frame (c : Instr) (d : Fin 16) (flags : Word) := Completes c s (fun t =>
        OnlyEngine s t i.e (fun h q => { q with w := h.w, st := h.st }) ∧
        (∀ k, k ≠ d.val → (t.eng i.e).wr k = (s.eng i.e).wr k) ∧
        (t.eng i.e).st &&& ~~~flags = (s.eng i.e).st &&& ~~~flags)
      (∀ f : AluForm, Runs s i (aluGuard f) → let d := aluDest f
        frame (.and i f) d 0xD ∧ frame (.or i f) d 0xD ∧ frame (.xor i f) d 0xD ∧ frame (.andn i f) d 0xD ∧
        frame (.add i f) d 0x1F ∧ frame (.addc i f) d 0x1F ∧ frame (.sub i f) d 0x1F ∧ frame (.subb i f) d 0x1F ∧
        frame (.lsh i f) d 0xF ∧ frame (.ash i f) d 0x1F ∧ frame (.min i f) d 0xC ∧ frame (.max i f) d 0xC ∧
        (aluOne f → frame (.mov i f) d 0xD ∧ frame (.not i f) d 0xD ∧ frame (.neg i f) d 0x1F ∧ frame (.abs i f) d 0x1D ∧
          frame (.swapb i f) d 0xD ∧ frame (.sxb i f) d 0xD ∧ frame (.zxb i f) d 0xD ∧ frame (.normw i f) d 0xC)) ∧
      (∀ (d : Fin 16) (imm : BitVec 6), Runs s i {} →
        frame (.movi i (.short d imm)) d 0xD ∧ frame (.addi i (.short d imm)) d 0x1F ∧ frame (.lshi i d imm) d 0xF ∧
        frame (.ashi i d imm) d 0x1F ∧
        (imm.toNat < 16 → frame (.bclr i d imm) d 0xC ∧ frame (.bset i d imm) d 0xC ∧ frame (.btgl i d imm) d 0xC)) ∧
      (∀ (c : Guard) (d : Fin 16) (imm : Word), Runs s i c →
        frame (.movi i (.long c d imm)) d 0xD ∧ frame (.addi i (.long c d imm)) d 0x1F ∧
        frame (.andi i c d imm) d 0xD ∧ frame (.ori i c d imm) d 0xD) ∧
      (∀ (c : Guard) (d : Fin 16) (a : Fin 4), Runs s i c → frame (.narrow i c d a) d 0x1D ∧ frame (.norm i c d a) d 0xC) ∧
      (∀ (r : RegName) (d : Fin 16), Runs s i {} → ((s.eng i.e).regRead r).isSome = true → frame (.moveFromRegister i r d) d 0)) ∧
  (
    ∀ (s : State) (i : Issue) (c : Guard), Settled s → Quiet (s.eng i.e) → Runs s i c →
      let frame (x : Instr) (ds : List Dest) (flags : Nat) := Completes x s (fun t =>
        OnlyEngine s t i.e (fun _ q => q) ∧
        ∀ r ∈ (t.eng i.e).fly, r.dest ∈ ds ∨ ∃ m, r.dest = .st m ∧ m &&& flags = m)
      (∀ d a b : Fin 4, frame (.aadd i c d a b) [.a d] 0xCD ∧ frame (.asub i c d a b) [.a d] 0xCD ∧
        frame (.aneg i c d a) [.a d] 0xCD ∧ frame (.aabs i c d a) [.a d] 0xCD ∧ frame (.asat i c d a) [.a d] 0x1D ∧
        (∀ n log, frame (.ashiAcc i c d a n log) [.a d] 0xCD) ∧ (∀ k log, frame (.ashr i c d a k log) [.a d] 0xCD)) ∧
      (∀ (d : Fin 4) (a b : Fin 16), frame (.amovw i c d a) [.a d] 0xD ∧ frame (.mpy i (.long c d a b)) [.a d] 0xCD ∧
        frame (.mac i (.long c d a b)) [.a d] 0xCD ∧ frame (.msu i (.long c d a b)) [.a d] 0xCD) ∧
      (∀ (d a b : Fin 16), frame (.mpyw i c d a b) [.w d] 0x1D) ∧
      (∀ m : M2, frame (.dmac i c m) [.a m.d] 0xCD ∧
        (m.d.val % 2 = 0 → frame (.cmac i c m) [.a m.d, .a (m.d + 1)] 0xCD ∧ frame (.cmacj i c m) [.a m.d, .a (m.d + 1)] 0xCD) ∧
        (m.d = 0 → frame (.qmac i c m) [.a 0, .a 1, .a 2, .a 3] 0xCD)) ∧
      (∀ q r a b : Fin 16, q ≠ r → frame (.div i c q r a b) [.w q, .w r] 0x3D) ∧
      (∀ (d : Fin 8) (k a b : Fin 16) (imm : BitVec 9), k.val < 12 →
        frame (.cmp i c d k a b) [.pBit d] 0 ∧ frame (.cmpi i c d k a imm) [.pBit d] 0) ∧
      (∀ (d : Fin 8) (k : Fin 16) (a b : Fin 4), k.val < 6 → frame (.acmp i c d k a b) [.pBit d] 0) ∧
      (∀ (d a b op : Fin 8), plogBad a b op = false → frame (.plog i c d a b op) [.pBit d] 0) ∧
      (∀ (d : Fin 8) (a n : Fin 16) (inv : Bool), frame (.btst i c d a n inv) [.pBit d] 0) ∧
      (∀ (k : Fin 8) (imm : Word), frame (.movm i c k imm) [.m k] 0 ∧ frame (.movx i c false k imm) [.x k] 0 ∧
        (imm.toNat < 256 → frame (.movx i c true k imm) [.xH k] 0)) ∧
      (c = {} → ∀ (r : RegName) (n : Fin 16) (d : Dest) (k : Nat), r.kind ≠ 3 → r.kind ≠ 7 → regDest r = some (d, k) →
        frame (.moveToRegister i r n) [d] 0)) ∧
  (
    ∀ (s : State) (i : Issue), Settled s → Quiet (s.eng i.e) →
      let g := s.eng i.e
      let e := i.e
      let kept (t : State) (back : List (Option (Nat × Nat))) := OnlyEngine s t e (fun h q => { q with x := h.x }) ∧
        ∀ k : Nat, (∀ v, some (k, v) ∉ back) → (t.eng e).xr k = g.xr k
      (∀ (f : MemForm) (a : Nat) (back : Option (Nat × Nat)) (w : Word), Runs s i (memGuard f) → memReg f < 16 →
        memAddr g f = some (a, back) → PlainRead s e a w → Completes (.load i f []) s (fun t => kept t [back] ∧
          ∀ r ∈ (t.eng e).fly, r.dest = .w (memReg f))) ∧
      (∀ (c : Guard) (p xa xb : Fin 8) (ma mb : Fin 4) (v w : Word), Runs s i c → xa ≠ xb →
        PlainRead s e (g.dualAddr ma xa).1 v → PlainRead s e (g.dualAddr mb xb).1 w →
        Completes (.ld2 i c p xa ma xb mb []) s (fun t => kept t [(g.dualAddr ma xa).2, (g.dualAddr mb xb).2] ∧
          ∀ r ∈ (t.eng e).fly, r.dest = .w (2 * p) ∨ r.dest = .w (2 * p + 1)))) ∧
  (
    ∀ (s : State) (i : Issue), Settled s → Quiet (s.eng i.e) →
      let g := s.eng i.e
      let e := i.e
      let frame (c : Instr) (keep : Engine → Engine → Engine) (ds : List Dest) :=
        Completes c s (fun t => OnlyEngine s t e keep ∧ ∀ r ∈ (t.eng e).fly, r.dest ∈ ds)
      let flow (c : Instr) := frame c (fun _ q => q) []
      let linked (c : Instr) := frame c (fun h q => { q with lk := h.lk }) []
      (∀ c : Guard, Runs s i c →
        (NoLoops g → flow (.ret i (some c)) ∧ ∀ a, flow (.br i c a) ∧ linked (.call i (.inr (c, a)))) ∧
        (g.tm = false → ∀ (k : Fin 2) (n : BitVec 10) (len : BitVec 6) (a : Fin 16) (far : BitVec 12),
          (n ≠ 0 → flow (.loopi i c k n len)) ∧ flow (.loopr i c k a far)) ∧
        (∀ (k : Fin 8) (imm : Word), Completes (.movl i c k imm) s (fun t =>
          OnlyEngine s t e (fun h q => { q with l := h.l }) ∧ ∀ j, j ≠ k.val → (t.eng e).lr j = g.lr j)) ∧
        (∀ (d a : Fin 16) (k : Fin 8) (w0 w1 w2 w3 y z : Word), let x := g.xr k
          let at_ (n : Nat) : Nat := (w0.toNat + 65536 * (w1.toNat % 256) + n) % 2 ^ 24
          let bits := (w1.extractLsb' 8 4).toNat
          let n := (g.wr a + w2).toNat / 2 ^ (16 - bits)
          PlainRead s e (x % 2 ^ 24) w0 → PlainRead s e ((x + 1) % 2 ^ 24) w1 → PlainRead s e ((x + 2) % 2 ^ 24) w2 →
          PlainRead s e ((x + 3) % 2 ^ 24) w3 → PlainRead s e (at_ n) y →
          frame (.tbl i c d a k []) (fun _ q => q) [.w d, .st 0xC] ∧
          (PlainRead s e (at_ (if w1.msb then (n + 1) % 2 ^ bits else n + 1)) z →
            frame (.tbli i c d a k []) (fun _ q => q) [.w d, .st 0xC])) ∧
        (∀ (m : SpecMode) (r : RegName) (a : Nat) (back : Option (Nat × Nat)) (w : Word) (d : Dest) (n : Nat),
          g.specAddr m = some (a, back) → regDest r = some (d, n) → r.kind ≠ 7 → PlainRead s e a w →
          frame (.lds i c m r []) (fun h q => { q with x := h.x }) [d])) ∧
      (Runs s i {} → (g.wbuf = [] → flow (.fence i)) ∧ (g.tm = false → ∀ k : Fin 2, frame (.lbrk i k) (fun _ q => q) [.lc k]) ∧
        (NoLoops g → flow (.ret i none) ∧ flow (.tend i) ∧ (∀ k : Fin 8, flow (.brr i k) ∧ linked (.callr i k)) ∧
          ∀ ofs : BitVec 12, flow (.bra i ofs) ∧ linked (.call i (.inl ofs))) ∧
        (∀ (k : Fin 8) (n : Fin 16), Completes (.moveToRegister i { kind := 3, idx := k, part := false } n) s (fun t =>
          OnlyEngine s t e (fun h q => { q with l := h.l }) ∧ ∀ j, j ≠ k.val → (t.eng e).lr j = g.lr j)) ∧
        (∀ n : Fin 16, (g.wr n).extractLsb' 11 2 ≠ 3 →
          Completes (.moveToRegister i { kind := 7, idx := 0, part := false } n) s (fun t =>
            OnlyEngine s t e (fun h q => { q with st := h.st }) ∧ (t.eng e).st &&& 0xFFF0 = g.st &&& 0xFFF0 ∧
            ∀ r ∈ (t.eng e).fly, r.dest = .st 0x78F0))))

/-- R11, R12, R13, R17: a register write that is accepted, in the blocks whose registers only configure: RW fields take what was
written, W1C bits written 1 clear, every other bit and every other register stands. A write that holds a value its register
does not accept changes nothing but the block's reject flag and offset. -/
def Obligations.RegisterWrites : Prop :=
  (
    ∀ (s : State) (m : Master) (a : Gwa) (v : Word) (g : RegGroup) (k : Nat), Settled s → CanWrite s m a.toNat →
      a.toNat / 0x1000 ∈ [0x703, 0x708, 0x70C, 0x70F] → a.toNat % 0x1000 ≠ 1 → regAt a.toNat = some (g, k) →
      g.writable = true → g.accepts v.toNat = true → s.agrees a.toNat v.toNat = true →
      Completes (.registerWrite m a v) s (fun t => OnlyRegs s t [a.toNat] ∧
        (∀ f ∈ g.fields, f.ty = .rw → ∀ j, f.lo ≤ j → j ≤ f.hi → (t.rg a.toNat).getLsbD j = v.getLsbD j) ∧
        (∀ j, (∀ f ∈ g.fields, f.ty = .rw → j < f.lo ∨ f.hi < j) → (∃ f ∈ g.fields, f.ty = .w1c ∧ f.lo ≤ j ∧ j ≤ f.hi) →
          (t.rg a.toNat).getLsbD j = ((s.rg a.toNat).getLsbD j && !v.getLsbD j)) ∧
        (∀ j, (∀ f ∈ g.fields, f.ty = .rw ∨ f.ty = .w1c → j < f.lo ∨ f.hi < j) →
          (t.rg a.toNat).getLsbD j = (s.rg a.toNat).getLsbD j))) ∧
  (
    ∀ (s : State) (m : Master) (a : Gwa) (v : Word) (g : RegGroup) (k : Nat), Settled s → CanWrite s m a.toNat →
      0x700060 ≤ a.toNat → a.toNat < 0x714000 → regAt a.toNat = some (g, k) → s.lockedEntry a.toNat = none →
      g.writable = true → s.droppedWrite a.toNat = false → g.accepts v.toNat = false →
      let base := a.toNat / 0x1000 * 0x1000
      Completes (.registerWrite m a v) s (fun t => OnlyRegs s t [base + 2] ∧
        t.get ⟨base + 2, 15, 15⟩ = 1 ∧ t.get ⟨base + 2, 11, 0⟩ = a.toNat % 0x1000))

/-- R455, R458: an access that the tables do not allow has no effect of its own: ACC_VIOL names it, and fault 0x0C0A is
recorded for the first of its master and target in the tick. -/
def Obligations.DeniedAccess : Prop :=
  ∀ (s : State) (m : Master) (a : Gwa) (v : Word) (k : Nat), Settled s → s.live = true → NoneWaits s m →
    (regionOf a.toNat).target = some k → s.allowed m k .write = false →
    Completes (.registerWrite m a v) s (fun t =>
      RegsKept s t [0x70E004, 0x70E005, 0x70E006, 0x70E007] ∧ t.mem = s.mem ∧ t.active = s.active ∧ t.engs = s.engs ∧
      t.rg 0x70E004 = BitVec.ofNat 16 a.toNat ∧
      t.rg 0x70E005 = BitVec.ofNat 16 (0xA000 + m.val * 0x100 + a.toNat / 65536) ∧
      t.rg 0x70E006 = BitVec.ofNat 16 (k % 64) ∧
      t.rg 0x70E007 = (if s.rg 0x70E007 = 0xFFFF then 0xFFFF else s.rg 0x70E007 + 1) ∧
      (s.memSt.violSeen.contains (m.val, k) = false → Recorded s t 0x0C0A k a.toNat (some m.val)) ∧
      (s.memSt.violSeen.contains (m.val, k) = true → t.flt = s.flt))

/-- R30, R32: COMMIT copies the shadows of its block into the pending stage, or in the commit guard into the late stage, and
nothing becomes active. -/
def Obligations.CommitStages : Prop :=
  ∀ (s : State) (m : Master) (b : CommitBlock), Settled s → CanWrite s m (commitReg b) →
    let p := commitReg b / 0x1000
    Completes (.commit m b) s (fun t => t.regs = s.regs ∧ t.active = s.active ∧
      (s.inGuard = false → t.late = s.late ∧
        ∃ snap, t.pendingOf p = some snap ∧ ∀ a, a / 0x1000 = p → wmGet (resetWord a) snap a = s.rg a) ∧
      (s.inGuard = true → t.stage = s.stage ∧
        ∃ snap, (t.late.find? (fun e => e.1 == p)).map (·.2) = some snap ∧
          ∀ a, a / 0x1000 = p → wmGet (resetWord a) snap a = s.rg a))

/-- R12, R37, R39: a read of the low word of a count holds its high word for the reading master; a read of an RC count clears
it; a read of a reserved region gives 0 and a write there is dropped, with fault 0x1101. -/
def Obligations.Reads : Prop :=
  ∀ (s : State) (m : Master), Settled s →
    (CanRead s m 0x700010 → s.shadowOf m 0x700010 = none → Completes (.shadowRead m 0x700010#24) s (fun t =>
      t.readData = BitVec.ofNat 16 s.clk.tickCount ∧ t.regs = s.regs ∧
      ∀ u : State, Settled u → u.shadow = t.shadow → CanRead u m 0x700011 →
        Completes (.shadowRead m 0x700011#24) u (fun v =>
          v.readData = BitVec.ofNat 16 (s.clk.tickCount / 65536) ∧ v.shadow = u.shadow))) ∧
    (CanRead s m 0x712006 → s.host.open_ = false → s.shadowOf m 0x712006 = none → s.flt.lostCnt < 65536 →
      Completes (.rcRead m 0x712006#24) s (fun t =>
        t.readData = BitVec.ofNat 16 s.flt.lostCnt ∧ t.flt.lostCnt = 0 ∧ t.regs = s.regs)) ∧
    (∀ (a : Gwa), regionOf a.toNat = .reserved → s.live = true → NoneWaits s m →
      Completes (.reservedAccess m a none) s (fun t => t.readData = 0 ∧ t.regs = s.regs ∧ t.mem = s.mem ∧
        Recorded s t 0x1101 0xFF a.toNat (some m.val)) ∧
      ∀ v, Completes (.reservedAccess m a (some v)) s (fun t => t.readData = s.readData ∧ t.regs = s.regs ∧ t.mem = s.mem ∧
        Recorded s t 0x1101 0xFF a.toNat (some m.val)))

/-- R24, R27, R37: a tick counts one, begins at phase 0, and the tick that begins is nominal, or one coincidence period shorter
or longer where the edge is off the time base's millisecond by half a coincidence period or more; on the limp oscillator it
holds 200,000 cycles. -/
def Obligations.TickEdge : Prop :=
  ∀ (s : State) (env : TickEnv), s.clk.running = true → (∀ e : Fin 8, (s.eng e).wbuf = []) →
    Completes (.tick env) s (fun t =>
      t.clk.tickCount = (s.clk.tickCount + 1) % 2 ^ 32 ∧ t.clk.phase = 0 ∧ t.host.rejSeen = [false, false] ∧
      (t.clk.limp = true → t.clk.tickLen = 200000) ∧
      (t.clk.limp = false →
        let half := 6 * 400000 * 2 ^ 72
        let ms := 1000000 * accPerNs
        let x := t.clk.acc % ms
        (x < half ∨ ms - x < half → t.clk.tickLen = 491520) ∧
        (half ≤ x → 2 * x ≤ ms → t.clk.tickLen = 491508) ∧
        (2 * x > ms → half ≤ ms - x → t.clk.tickLen = 491532)))

/-- R77 to R80, R94 to R97, R103: the commands of the aerial front ends, and what the bias supply and VIN_ANT do to them. LO_CAL
and LO_SETTLE are passed in the command that enters LO_CAL where every LO is locked (the model's choice: log entry 30). -/
def Obligations.FrontEnds : Prop :=
  ∀ s : State, Settled s → let enters (k : Nat) := k = if s.losLocked then 4 else 2
    -- a condition of FAULT that lasts
    let high (a : Nat) := s.isOn R.FE_VIN_ANT_VIN_HIGH = true ∧ s.isOn (R.FE_CTRL_BIAS_EN a) = true
    let calm (a : Nat) := ¬high a ∧ ¬(s.get (R.FE_BIAS_I_BSTAT a) = 2 ∧ s.isOn (R.FE_CTRL_OPEN_ACT a) = true);
    (∀ (m : Master) (a : Fin 2), CanWrite s m (0x702004 + a) →
      let ignored (t : State) := OnlyRegs s t [0x702008 + a] ∧ t.isOn (R.FE_STAT_CMD_IGN a) = true ∧ t.fesm a = s.fesm a
      let cause := s.get (R.FE_STAT_CAUSE a)
      let own := [0x702004 + a.val, 0x702008 + a, 0x70200C + a]
      Completes (.feEnable m a) s (fun t => RegsKept s t own ∧ t.isOn (R.FE_CTRL_ENABLE a) = true ∧
        (calm a → s.fesm a ≠ 0 ∨ s.syn.firstLock = false → t.fesm a = s.fesm a) ∧
        (s.fesm a = 0 → s.syn.firstLock = true → (calm a → t.fesm a = 1) ∧
          (high a → t.fesm a = 6 ∧ t.get (R.FE_STAT_CAUSE a) = 7))) ∧
      Completes (.feDisable m a) s (fun t => RegsKept s t own ∧
        t.isOn (R.FE_CTRL_ENABLE a) = false ∧ (s.isOn (R.FE_CTRL_ENABLE a) = true → t.fesm a = 0 ∧ t.biasClosed a = false ∧
          ∀ b : Fin 3, t.get (pathFld a b) = 0 ∧ t.fe.deliver.getD (3 * a + b) false = false)) ∧
      (∀ b : Fin 3, s.fesm a = 5 → calm a →
        Completes (.pathDisable m a b) s (fun t => t = { s with regs := t.regs, fe := t.fe } ∧
          RegsKept s t [0x702004 + a, 0x70200C + a] ∧
          t.isOn (pathEnFld a b) = false ∧ (s.isOn (pathEnFld a b) = true →
            (t.pathTick (3 * a + b)).get (pathFld a b) = 0)) ∧
        Completes (.pathEnable m a b) s (fun t => RegsKept s t own ∧
          t.isOn (pathEnFld a b) = true ∧ (s.isOn (pathEnFld a b) = false → s.get (pathFld a b) = 0 →
            t.get (pathFld a b) = 3)) ∧
        Completes (.recal m a b) s (fun t =>
          (s.get (pathFld a b) = 2 → s.fe.toOff.getD (3 * a + b) false = false → RegsKept s t [] ∧
            (t.pathTick (3 * a + b)).get (pathFld a b) = 3) ∧
          (s.get (pathFld a b) ≠ 2 → ignored t))) ∧
      Completes (.clear m a) s (fun t =>
        (s.fesm a ≠ 6 ∨ cause = 6 ∧ s.clk.limp = true → ignored t) ∧
        (s.fesm a = 6 → ¬(cause = 6 ∧ s.clk.limp = true) → RegsKept s t [0x702008 + a, 0x70200C + a] ∧
          (high a → t.fesm a = 6 ∧ t.get (R.FE_STAT_CAUSE a) = 7) ∧
          (calm a → (cause ∈ [1, 2, 5, 7] → t.fesm a = 1) ∧ (cause ∈ [3, 4, 6] → enters (t.fesm a)))))) ∧
    (∀ a : Fin 2,
      let due := s.fe.fesmAt.getD a 0 + (if s.isOn (R.FE_CTRL_BIAS_EN a) then 2000 else 10) * agePerUs
      Completes (.biasSettle a) s (fun t => (s.fesm a ≠ 1 → t = s) ∧
        (s.fesm a = 1 → Comes s due → RegsKept s t [0x702008 + a, 0x70200C + a] ∧ due ≤ t.clk.age ∧ enters (t.fesm a))) ∧
      Completes (.biasShort a) s (fun t => (s.biasClosed a = false ∨ s.fesm a = 0 → t = s) ∧
        (s.biasClosed a = true → s.fesm a ≠ 0 → RegsKept s t [0x702008 + a, 0x70200C + a] ∧ t.fesm a = 6 ∧
          t.get (R.FE_STAT_CAUSE a) = 1 ∧ t.get (R.FE_BIAS_I_BSTAT a) = 3 ∧ t.biasClosed a = false ∧
          Recorded s t 0x0101 (feUnit a 3) (s.get (R.FE_BIAS_I_CURRENT a)) none)) ∧
      (∀ held : Bool, Completes (.biasRetry a held) s (fun t =>
        let ok := s.fesm a = 6 ∧ s.get (R.FE_STAT_CAUSE a) = 1 ∧ s.isOn (R.FE_CTRL_AUTO_RETRY a) = true
        let due := s.fe.fesmAt.getD a 0 + s.get (R.FE_BIAS_CFG_RETRY_INT a) * 10000 * agePerUs;
        (ok → Comes s due → due ≤ t.clk.age ∧
          (held = true → RegsKept s t [] ∧ t.fe = { s.fe with fesmAt := t.fe.fesmAt } ∧
            t.fe.fesmAt.getD a 0 = t.clk.age) ∧
          (held = false → RegsKept s t [0x702008 + a, 0x70200C + a] ∧ (calm a → t.fesm a = 1))) ∧
        (¬ok → t = s)))) ∧
    (∀ v : Nat, v < 2 ^ 32 → Completes (.vinFault v) s (fun t =>
      (290 ≤ v → v ≤ 580 → t = s) ∧
      (v < 290 → s.isOn R.FE_VIN_ANT_VIN_LOW = false → RegsKept s t [0x70200E] ∧ t.isOn R.FE_VIN_ANT_VIN_LOW = true ∧
        t.fe = s.fe ∧ Recorded s t 0x0107 3 v none) ∧
      (580 < v → t.fe.vinOk = 0 ∧ (s.isOn R.FE_VIN_ANT_VIN_HIGH = true → RegsKept s t [] ∧ t.flt = s.flt) ∧
        (s.isOn R.FE_VIN_ANT_VIN_HIGH = false → RegsKept s t [0x70200E, 0x702008, 0x702009, 0x70200C, 0x70200D] ∧
          t.isOn R.FE_VIN_ANT_VIN_HIGH = true ∧ Recorded s t 0x0107 3 v none ∧ ∀ a : Fin 2, t.biasClosed a = false ∧
            (s.isOn (R.FE_CTRL_BIAS_EN a) = true → s.fesm a ≠ 0 → t.fesm a = 6 ∧ t.get (R.FE_STAT_CAUSE a) = 7) ∧
            (s.isOn (R.FE_CTRL_BIAS_EN a) = false → t.fesm a = s.fesm a))))) ∧
    Completes .vinRecover s (fun t => (s.fe.vinOk < 10 → t = s) ∧
      (10 ≤ s.fe.vinOk → RegsKept s t [0x70200E, 0x702008, 0x702009, 0x70200C, 0x70200D] ∧
        t.isOn R.FE_VIN_ANT_VIN_HIGH = false ∧ ∀ a : Fin 2, s.get (R.FE_BIAS_I_BSTAT a) ≠ 2 →
          t.fesm a = if s.fesm a = 6 ∧ s.get (R.FE_STAT_CAUSE a) = 7 then 1 else s.fesm a))

/-- R81 to R83, R88 to R94, R97 to R99, R102: the band LOs, the calibration of the paths and the gain loop. -/
def Obligations.BandSynthesisers : Prop :=
  ∀ s : State, Settled s →
    (∀ (ok : Bool) (bands : List (Fin 64)), Completes (.loCalDone ok bands) s (fun t =>
      let inRun := s.fesm 0 = 5 ∨ s.fesm 1 = 5
      let found (b : Fin 3) := t.isOn (R.LO_STAT_CAL_DONE b) = true ∧ t.get (R.LO_STAT_VCO_BAND b) = (bands.map Fin.val).getD b 0
      let own := [0x70300C, 0x70300D, 0x70300E, 0x702008, 0x702009, 0x70200C, 0x70200D];
      (s.fe.loCalRunning = true → t.fe.loCalRunning = false ∧ RegsKept s t own ∧
        (ok = true → t.flt = s.flt ∧ (∀ b, found b) ∧
          ∀ a : Fin 2, t.fesm a = if s.fesm a = 2 then (if s.losLocked then 4 else 3) else s.fesm a) ∧
        (ok = false → (∀ a : Fin 2, t.fesm a = if s.fesm a = 2 then 6 else s.fesm a) ∧
          ∀ a k : Fin 2, k ≠ a → s.fesm a = 2 → t.get (R.FE_STAT_CAUSE a) = 3 ∧
            (s.fesm k ≠ 2 → Recorded s t 0x0103 (feUnit a 3) 0 none))) ∧
      (s.fe.loCalRunning = false → (s.losLocked = true ∨ s.clk.limp = true ∨ ¬inRun → t = s) ∧
        (s.losLocked = false → s.clk.limp = false → inRun → RegsKept s t own ∧
          (ok = true → t.flt = s.flt ∧ ∀ b : Fin 3, (s.isOn (R.LO_STAT_LOCK b) = false → found b) ∧
            (s.isOn (R.LO_STAT_LOCK b) = true → t.rg (0x70300C + b) = s.rg (0x70300C + b))) ∧
          (ok = false → ∀ a : Fin 2, s.fesm a = 5 → t.fesm a = 6 ∧ t.get (R.FE_STAT_CAUSE a) = 3))))) ∧
    (∀ (b : Fin 3) (n : Nat), let due := s.fe.loFrom.getD b 0 + s.loWindowAge
      let want := s.act (R.LO_BAND_CFG_LO_N b) * 2 ^ s.get R.LO_LOCK_CFG_LK_WIN
      let good := ((n : Int) - want).natAbs ≤ s.get R.LO_LOCK_CFG_LK_TOL
      let on := s.isOn (R.LO_STAT_LOCK b) = true
      let g := s.fe.loGood.getD b 0 + 1
      let w := s.fe.loBad.getD b 0 + 1
      let locks := ¬on ∧ good ∧ s.get R.LO_LOCK_CFG_LK_GOOD ≤ g ∨ ¬on ∧ ¬good ∧ s.get R.LO_LOCK_CFG_LK_GOOD = 0
      let loses := on ∧ ¬good ∧ s.get R.LO_LOCK_CFG_LK_BAD ≤ w ∨ on ∧ good ∧ s.get R.LO_LOCK_CFG_LK_BAD = 0
      let own := [0x70300C + b.val, 0x702008, 0x702009, 0x70200C, 0x70200D]
      let window (t : State) := (s.clk.limp = true → t = s) ∧
        (s.clk.limp = false → Comes s due → due ≤ t.clk.age ∧ t.fe.loFrom.getD b 0 = due ∧
          (good → t.fe.loGood.getD b 0 = g ∧ t.fe.loBad.getD b 0 = 0) ∧
          (¬good → t.fe.loGood.getD b 0 = 0 ∧ t.fe.loBad.getD b 0 = w) ∧
          (¬locks → ¬loses → RegsKept s t [] ∧ t.flt = s.flt) ∧
          (locks → RegsKept s t own ∧ t.isOn (R.LO_STAT_LOCK b) = true ∧ t.flt = s.flt ∧
            (∀ a : Fin 2, t.fesm a = if s.fesm a = 3 ∧ t.losLocked = true then 4 else s.fesm a) ∧
            ∀ a : Fin 2, s.fe.loHold.getD (3 * a + b) false = true → s.fesm a = 5 → s.get (pathFld a b) = 1 →
              s.fe.toOff.getD (3 * a + b) false = false → (t.pathTick (3 * a + b)).get (pathFld a b) = 2 ∧
                (t.pathTick (3 * a + b)).fe.deliver.getD (3 * a + b) false = true) ∧
          (loses → RegsKept s t own ∧ t.isOn (R.LO_STAT_LOCK b) = false ∧ t.isOn (R.LO_STAT_UNLOCK b) = true ∧
            (∀ a : Fin 2, t.fesm a = if s.fesm a = 4 then 3 else s.fesm a) ∧
            (∀ a : Fin 2, s.fesm a = 5 → (s.get (pathFld a b) = 2 ∨ s.get (pathFld a b) = 3) →
              t.get (pathFld a b) = 1 ∧ t.fe.deliver.getD (3 * a + b) false = false) ∧
            (s.fesm 0 = 5 ∨ s.fesm 1 = 5 → RecordedNow s t 0x0105 b 0 none) ∧
            (s.fesm 0 ≠ 5 → s.fesm 1 ≠ 5 → t.flt = s.flt)))
      Completes (.loLock b [n]) s window ∧ Completes (.loLockLost b [n]) s window ∧
      Completes (.loLock b []) s (fun t => t = s) ∧ Completes (.loLockLost b []) s (fun t => t = s)) ∧
    (∀ a : Fin 2, Completes (.loLockTimeout (some a)) s (fun t => let due := s.fe.fesmAt.getD a 0 + 20000 * agePerUs;
      (s.fesm a = 3 → s.losLocked = false → Comes s due → RegsKept s t [0x702008 + a, 0x70200C + a] ∧ due ≤ t.clk.age ∧
        t.fesm a = 6 ∧ t.get (R.FE_STAT_CAUSE a) = 4 ∧ RecordedNow s t 0x0104 (feUnit a 3) 0 none) ∧
      (s.fesm a ≠ 3 ∨ s.losLocked = true → t = s))) ∧
    Completes (.loLockTimeout none) s (fun t => (s.losLocked = true ∨ s.fe.lostAt = none → t = s) ∧
      ∀ x : Nat, s.fe.lostAt = some x → s.losLocked = false → Comes s (x + 20000 * agePerUs) →
        RegsKept s t [0x702008, 0x702009, 0x70200C, 0x70200D] ∧ t.flt = s.flt ∧ x + 20000 * agePerUs ≤ t.clk.age ∧
        ∀ a : Fin 2, (s.fesm a = 5 → t.fesm a = 6 ∧ t.get (R.FE_STAT_CAUSE a) = 4) ∧
          (s.fesm a ≠ 5 → t.fesm a = s.fesm a)) ∧
    (∀ (a : Fin 2) (cal : List PathCal), s.fesm a = 4 → let due := s.fe.fesmAt.getD a 0 + calAge
      let used := cal.filter (fun c => s.isOn (pathEnFld a c.band))
      let covered := ∀ b : Fin 3, s.isOn (pathEnFld a b) = true → ∃ c ∈ cal, c.band = b
      Completes (.pathCalDone a cal) s (fun t => (¬covered → t = s) ∧
        (covered → Comes s due → due ≤ t.clk.age ∧
          ((∀ c ∈ used, calPasses c = true) → t.fesm a = 4 ∧ t.flt = s.flt ∧ (t.fesmTick a).fesm a = 5 ∧
            ∀ b : Fin 3, s.isOn (pathEnFld a b) = true →
              (t.fesmTick a).get (pathFld a b) = if s.isOn (R.LO_STAT_LOCK b) then 2 else 1) ∧
          ((∃ c ∈ used, calPasses c = false) → t.fesm a = 6 ∧ t.get (R.FE_STAT_CAUSE a) = 5)))) ∧
    (∀ (a : Fin 2) (c : PathCal), let i := 3 * a.val + c.band.val
      let due := s.fe.pathAt.getD i 0 + calAge
      s.fesm a = 5 → s.get (pathFld a c.band) = 3 → s.fe.toOff.getD i false = false → Comes s due →
      Completes (.pathCalDone a [c]) s (fun t => due ≤ t.clk.age ∧ t.get (R.FE_AGC_GAIN_GAIN i) = c.agc ∧
        (calPasses c = true → t.flt = s.flt ∧
          (t.pathTick i).get (pathFld a c.band) = (if s.isOn (R.LO_STAT_LOCK c.band) then 2 else 1) ∧
          (s.isOn R.FE_CAL_CFG_COEF_SRC = false →
            t.getS (R.FE_IQ_DC_DC_I i) = c.dcI ∧ t.actS (R.FE_IQ_DC_DC_I i) = c.dcI ∧
            t.getS (R.FE_IQ_DC_DC_Q i) = c.dcQ ∧ t.actS (R.FE_IQ_DC_DC_Q i) = c.dcQ ∧
            t.getS (R.FE_IQ_GAIN_GAIN i) = c.gain ∧ t.actS (R.FE_IQ_GAIN_GAIN i) = c.gain ∧
            t.getS (R.FE_IQ_PHASE_PHASE i) = c.phase ∧ t.actS (R.FE_IQ_PHASE_PHASE i) = c.phase) ∧
          (s.isOn R.FE_CAL_CFG_COEF_SRC = true → t.active = s.active ∧ RegsKept s t [0x702020 + i])) ∧
        (calPasses c = false → t.get (pathFld a c.band) = 1 ∧ t.active = s.active ∧
          RegsKept s t [0x702020 + i, 0x702008 + a] ∧ RecordedNow s t 0x0106 (feUnit a c.band) 0 none))) ∧
    (∀ (i : Fin 6) (adc : List Adc), s.clk.waking = [] → let a := i.val / 3
      let u := s.takeSamples i adc
      let w := u.dfe.win.getD i []
      let path := s.get (pathFld a (i.val % 3))
      let cal := s.fesm a = 4 ∧ u.calAgc (s.fe.fesmAt.getD a 0) = true ∨
        s.fesm a = 5 ∧ path = 3 ∧ u.calAgc (s.fe.pathAt.getD i 0) = true
      let run := s.fesm a = 5 ∧ path = 2
      let g := s.get (R.FE_AGC_GAIN_GAIN i)
      let mode := s.get (R.FE_AGC_CFG_MODE i)
      -- Σ |x|² over the samples that were not blanked, and their number
      let level := s.windowLevel i (w.take 8192)
      let want := 2 * level.2 * s.get (R.FE_AGC_CFG_TARGET i) ^ 2
      Completes (.agcWindow i adc) s (fun t => OnlyRegs { s with clk := t.clk, dfe := t.dfe } t [0x702020 + i] ∧
        t.dfe.taken = u.dfe.taken ∧
        let g' := t.get (R.FE_AGC_GAIN_GAIN i)
        let moved (lim : Nat) := g ≤ 120 → g' ≤ 120 ∧ t.isOn (R.FE_AGC_GAIN_AT_MAX i) = decide (g' = 120) ∧
          t.isOn (R.FE_AGC_GAIN_AT_MIN i) = decide (g' = 0) ∧ (level.1 < want → g ≤ g' ∧ g' ≤ g + lim) ∧
          (level.1 = want → g' = g) ∧ (want < level.1 → g' ≤ g ∧ g ≤ g' + lim);
        (w.length < 8192 → t.regs = s.regs ∧ t.dfe = u.dfe) ∧
        (8192 ≤ w.length → t.dfe.win.getD i [] = w.drop 8192 ∧
          (4096 ≤ level.2 → cal → moved 8) ∧
          (4096 ≤ level.2 → run → mode = 0 → moved (2 ^ s.get (R.FE_AGC_CFG_STEP_MAX i))) ∧
          (level.2 < 4096 → cal ∨ run ∧ mode = 0 → t.regs = s.regs) ∧
          (run → mode = 1 → g' = s.get (R.FE_AGC_MAN_GAIN i)) ∧ (run → mode = 2 → t.regs = s.regs))))

/-- R106, R111 to R117: the spectra of a tick go to the Pool as master 8, or are dropped where the access tables deny it, and
the count of completed spectra goes on in both cases; what they assign are free AUTO notches; an assigned AUTO notch of a set
in use follows its tone by one unit. -/
def Obligations.Conditioning : Prop :=
  ∀ s : State, Settled s →
    ((∀ i < 6, (s.dfe.spectra.getD i []).length = 1024) → s.dfe.specBuf < 2 → Legal s 0x70404A →
      Completes (.spectrum []) s (fun t => (s.dfe.specReady = false → t = s) ∧
        let base := s.get R.DFE_SPEC_BASE_BASE * 0x1000 + s.dfe.specBuf * 0x1800;
        (s.dfe.specReady = true → PoolOpen s 8 ∨ PoolShut s 8 → t.dfe.specReady = false ∧
          t.dfe.specBuf = 1 - s.dfe.specBuf ∧ t.get R.DFE_SPEC_SEQ_BUF = s.dfe.specBuf ∧
          t.get R.DFE_SPEC_SEQ_SEQ = (s.get R.DFE_SPEC_SEQ_SEQ + 1) % 32768 ∧
          (∀ e ∈ t.dfe.assign, e ∈ s.dfe.assign ∨ e.1 < 48 ∧ s.notchAssigned e.1 = false ∧ s.notchManualAct e.1 = false ∧
            ¬(24 ≤ e.1 ∧ s.notchLink (e.1 / 8 % 3) = true)) ∧
          (PoolShut s 8 → t.mem = s.mem) ∧
          (PoolOpen s 8 → WordsPut s t base ((List.range 6).flatMap (fun i => s.dfe.spectra.getD i [])))))) ∧
    (∀ (k : Fin 48) (up : Bool), let p := k.val / 8
      let linked := s.notchLink (p % 3) = true
      let fed := s.fe.deliver.getD p false = true ∨ p < 3 ∧ linked ∧ s.fe.deliver.getD (p + 3) false = true
      let ok := s.notchAssigned k = true ∧ s.notchManualAct k = false ∧ ¬(3 ≤ p ∧ linked) ∧ fed
      Completes (.notchTrack k up) s (fun t => (¬ok → t = s) ∧
        (ok → t = { s with dfe := t.dfe } ∧
          t.dfe.track.getD k 0 = s.dfe.track.getD k 0 + (if up then 1 else -1) ∧
          (∀ j, j ≠ k.val → t.dfe.track.getD j 0 = s.dfe.track.getD j 0) ∧
          (s.notchManual k = false → t.regView (0x704050 + k) = BitVec.ofInt 16 (t.dfe.track.getD k 0)))))

/-- R149, R151, R152, R156, R158: the commands of a correlator channel; one that its channel does not take is rejected with
its fault; TRACK, PULL and STOP act at the next tick edge, in the commit guard at the one after. -/
def Obligations.ChannelCommands : Prop :=
  ∀ (s : State) (m : Master) (c : Fin 192), Settled s → CanWrite s m 0x705004 →
    let st := s.chState c
    let pair (d : Fin 192) := d = c ∨ s.followerOf c = some d.val
    let others (t : State) := ∀ d : Fin 192, ¬pair d → t.chan d = s.chan d ∧ t.chState d = s.chState d
    let rejected (cmd why : Nat) (t : State) := RegsKept s t [0x705005] ∧ t.ch = s.ch ∧
      t.isOn R.CH_CMD_STAT_REJ = true ∧ t.get R.CH_CMD_STAT_CMD = cmd ∧ t.get R.CH_CMD_STAT_WHY = why ∧
      t.get R.CH_CMD_STAT_CHAN = c ∧ Recorded s t (0x0300 + why) c cmd none
    let later (t : State) := RegsKept s t [] ∧ t.flt = s.flt ∧ others t
    let calm := s.clk.limp = false ∧ (s.chan c).stopNext = false ∧ (s.chan c).limitHit = false ∧ (s.chan c).shedNext = false
    let edge (t : State) := t.chEdge [] [] c
    let follower := s.isFollower c = true
    let halted := st = 0 ∨ st = 5
    let secLen := s.get (R.CH_SEC_LEN c)
    let bad := s.get (R.CH_AER c) = 0 ∨ s.codeLen c = 0 ∨ s.codeLen c ≤ s.getW (R.CH_CODE_CHIP_INIT c) ∨
      s.get (R.CH_GEN c) = 0 ∧ s.desc c 5 / 2048 = 0 ∨
      (s.get (R.CH_SUBC c) = 1 ∨ s.get (R.CH_SUBC c) = 2) ∧ s.get (R.CH_SUBC_RATIO c) = 0 ∨
      s.isOn (R.CH_SEC_EN c) = true ∧ (secLen = 0 ∨ secLen ≤ s.get (R.CH_SEC_PH_INIT c)) ∨
      ∃ f, s.followerOf c = some f ∧ (¬(s.chState f = 0 ∨ s.chState f = 5) ∨ s.get (R.CH_BAND f) ≠ s.get (R.CH_BAND c) ∨
        s.get (R.CH_PAIR_DEN f) = 0)
    let ahead := (s.get (R.CH_START_TICK c) + 65536 - s.clk.tickCount % 65536) % 65536
    let late := s.isOn (R.CH_START_NOW c) = false ∧ ¬(1 ≤ ahead ∧ ahead ≤ 32767)
    Completes (.start m c) s (fun t => (follower ∨ ¬halted → rejected 1 1 t) ∧ (¬follower → halted → bad → rejected 1 2 t) ∧
      (¬follower → halted → ¬bad → late → rejected 1 5 t) ∧
      (¬follower → halted → ¬bad → ¬late → others t ∧ t.flt = s.flt ∧ t.mem = s.mem ∧
        ∀ d, pair d → t.chState d = 1 ∧ t.isOn (R.CH_HO d) = false)) ∧
    Completes (.track m c) s (fun t =>
      let ok := ¬follower ∧ (st = 2 ∨ st = 4 ∧ s.get (R.CH_PREV c) = 0);
      (¬ok → rejected 2 1 t) ∧ (ok → later t) ∧
      (ok → s.inGuard = true → (t.chan c).modeLate = 2 ∧ (t.chan c).modeNext = (s.chan c).modeNext) ∧
      (ok → s.inGuard = false → calm → (st = 2 → (edge t).chState c = 3) ∧
        (st = 4 → (edge t).chState c = 4 ∧ (edge t).get (R.CH_PREV c) = 1))) ∧
    Completes (.pull m c) s (fun t =>
      let ok := ¬follower ∧ (st = 3 ∨ st = 4 ∧ s.get (R.CH_PREV c) = 1);
      (¬ok → rejected 3 1 t) ∧ (ok → later t) ∧
      (ok → s.inGuard = true → (t.chan c).modeLate = 3 ∧ (t.chan c).modeNext = (s.chan c).modeNext) ∧
      (ok → s.inGuard = false → calm → (st = 3 → (edge t).chState c = 2) ∧
        (st = 4 → (edge t).chState c = 4 ∧ (edge t).get (R.CH_PREV c) = 0))) ∧
    Completes (.stop m c) s (fun t =>
      let ok := ¬follower ∧ 1 ≤ st ∧ st ≤ 4;
      (¬ok → rejected 4 1 t) ∧ (ok → later t) ∧
      (ok → s.inGuard = true → (t.chan c).stopLate = true ∧ (t.chan c).stopNext = (s.chan c).stopNext) ∧
      (ok → s.inGuard = false → s.clk.limp = false → (edge t).chState c = 5 ∧ (edge t).get (R.CH_CAUSE c) = 1 ∧
        (2 ≤ st → ∃ p, ((edge t).chan c).buf = some p ∧ p.stopped = true ∧ p.partialPer = true))) ∧
    Completes (.release m c) s (fun t =>
      (follower ∨ st ≠ 5 → rejected 5 1 t) ∧
      (¬follower → st = 5 → others t ∧ t.ch = s.ch ∧ t.flt = s.flt ∧ ∀ d, pair d → t.chState d = 0))

/-- R17, R93, R144 to R146, R154, R159, R166, R174, R177, R180, R187, R190 to R192: writes of descriptor words, and what ends a
channel's period, its run in STALE, its decision window and its inter-aerial phase; the record of a period in the Pool. -/
def Obligations.ChannelEvents : Prop :=
  ∀ s : State, Settled s →
    (∀ (m : Master) (c : Fin 192) (w : Fin 64) (v : Word), s.live = true → s.allowed m 35 .write = true → NoneWaits s m →
      let a := 0x640000 + c.val * 64 + w.val
      let write := Completes (.descWrite m c w v) s
      let rejected (t : State) := OnlyRegs s t [0x705003] ∧ t.isOn R.CH_DESC_REJ_REJ = true ∧
        t.get R.CH_DESC_REJ_CHAN = c ∧ t.get R.CH_DESC_REJ_WORD = w
      let low := (wmGet 0 s.latch (a - 2)).toNat + 65536 * (wmGet 0 s.latch (a - 1)).toNat
      let x := low + 2 ^ 32 * v.toNat
      -- bits that the generator of the channel leaves reserved are dropped
      let u := v.toNat &&& s.genMask c w;
      (regAt a = none → write (fun t => t = s)) ∧
      (∀ (g : RegGroup) (k : Nat), regAt a = some (g, k) →
        let free := s.chState c = 0 ∨ s.chState c = 5 ∨ g.changesStopped (s.rg a).toNat u = false;
        (¬free → write rejected) ∧
        (w = 0 → c.val % 2 = 0 → v.getLsbD 4 = true → write rejected) ∧
        (w.val ∈ [0x22, 0x23, 0x25, 0x26] → write (fun t => t = { s with latch := t.latch } ∧ wmGet 0 t.latch a = v)) ∧
        (w = 0x24 → (0x400000000000 < x → write rejected) ∧
          (x ≤ 0x400000000000 → write (fun t => OnlyRegs s t [a - 2, a - 1, a] ∧ t.getW (R.CH_CODE_RATE c) = x))) ∧
        (w = 0x27 → (0x600000000000 < (signedOf 48 x).natAbs → write rejected) ∧
          ((signedOf 48 x).natAbs ≤ 0x600000000000 →
            write (fun t => OnlyRegs s t [a - 2, a - 1, a] ∧ t.getW (R.CH_CARR_RATE c) = x))) ∧
        (w.val ∉ [0x22, 0x23, 0x24, 0x25, 0x26, 0x27] → free → ¬(w = 0 ∧ c.val % 2 = 0 ∧ v.getLsbD 4 = true) →
          (g.accepts u = false → write rejected) ∧
          (g.accepts u = true → write (fun t => RegsKept s t [a] ∧ t.flt = s.flt ∧
            (∀ d : Fin 192, t.chState d = s.chState d) ∧
            ∀ f ∈ g.fields, f.ty = .rw → ∀ j, f.lo ≤ j → j ≤ f.hi → (t.rg a).getLsbD j = u.testBit j))))) ∧
    (∀ c : Fin 192, let h := s.chan c
      let others (t : State) := ∀ d : Fin 192, d ≠ c → t.chan d = s.chan d
      Completes (.periodEnd c []) s (fun t => ∀ d : Fin 192, d ≤ c ∨ 12288 ≤ s.clk.phase → (t.chan d).buf = none) ∧
      (s.clk.phase < 12288 → (∀ d : Fin 192, d < c → (s.chan d).buf = none) → let base := s.recordBase c h.seq;
        (h.buf = none → Completes (.periodEnd c []) s (fun t => t = s)) ∧
        ∀ p, h.buf = some p → 0x100 ≤ s.act R.CH_REC_BASE_BASE → s.act R.CH_REC_BASE_BASE ≤ 0x2DB →
          let posted (t : State) := others t ∧ (t.chan c).buf = none ∧ (t.chan c).seq = (h.seq + 1) % 65536 ∧
            (t.rg (0x705038 + c / 16)).getLsbD (c % 16) = true;
          (PoolShut s 8 → Completes (.periodEnd c []) s (fun t => posted t ∧ t.mem = s.mem)) ∧
          (PoolOpen s 8 → Completes (.periodEnd c []) s (fun t => posted t ∧
            t.flt = s.flt ∧ RegsKept s t [0x705038 + c / 16] ∧ WordsPut s t base (recordWords p h.seq) ∧
            t.memGet base = BitVec.ofNat 16 h.seq ∧ t.memGet (base + 1) = BitVec.ofNat 16 p.start.tick))) ∧
      (let d := s.masterOf c
        let lim := s.get R.CH_STALE_LIM_LIMIT
        let ok := lim ≠ 0 ∧ s.chState d = 4 ∧ lim ≤ s.get (R.CH_STALE_RUN d);
        (¬ok → Completes (.staleLimit c) s (fun t => t = s)) ∧
        (ok → Completes (.staleLimit c) s (fun t => t = { s with ch := t.ch } ∧ (t.chan d).limitHit = true ∧
          (s.clk.limp = false → (s.chan d).stopNext = false → (t.chEdge [] [] d).chState d = 5 ∧
            (t.chEdge [] [] d).get (R.CH_CAUSE d) = 2 ∧
            ∃ e ∈ (t.chEdge [] [] d).flt.now, e.code = 0x0303 ∧ e.unit = d)))) ∧
      (let ok := (2 ≤ s.chState c ∧ s.chState c ≤ 4) ∧ max 1 (s.act (R.CH_DPHI_LAPSE c)) ≤ h.dphiLapse;
        (¬ok → Completes (.dphiLapse c) s (fun t => t = s)) ∧
        (ok → Completes (.dphiLapse c) s (fun t => t = { s with ch := t.ch } ∧ others t ∧
          t.chan c = ({ h with dphiV := false, dphiInit := false, dphiGood := 0 } : Chan)))) ∧
      (s.clk.waking = [] → ∀ a b : List Adc, Completes (.divDecision c a b) s (fun t =>
        t = { s with ch := t.ch, clk := t.clk, dfe := t.dfe } ∧ others t ∧
        (¬(2 ≤ s.chState c ∧ s.chState c ≤ 4) → t.ch = s.ch) ∧ (t.chan c).prim = h.prim ∧ (t.chan c).dphi = h.dphi ∧
        (t.chan c = h ∨ (t.chan c).winEnded = true ∧ (t.chan c).decBefore = some (h.decBefore.getD h.decision)) ∧
        ∀ o, (t.chan c).decision = some o → h.decision = some o ∨ o ≠ h.prim ∧ h.dphiV = true)) ∧
      (h.winVoid = true ∨ s.bothAer c = false → (s.windowEnd c h).decision = h.decision) ∧
      (h.winVoid = false → h.tickZero = false → s.bothAer c = true →
        h.winE.getD (1 - h.prim) 0 ≤ h.winE.getD h.prim 0 → (s.windowEnd c h).decision = none)) ∧
    (∀ g : Fin 8,
      let ok := s.atEdge = true ∧ s.isOn (R.CH_DIR_CONC_SUSPECT g) = false ∧
        100 * s.get R.CH_DIR_CFG_DIR_PERSIST ≤ s.ch.dirHold.getD g 0;
      (¬ok → Completes (.dirSuspect g) s (fun t => t = s)) ∧
      (ok → Completes (.dirSuspect g) s (fun t => RegsKept s t [0x705050 + g] ∧ t.ch = s.ch ∧
        t.isOn (R.CH_DIR_CONC_SUSPECT g) = true ∧ Recorded s t 0x0307 g 0 none)))

/-- R208, R211, R216: entries of the Search Job Table: one that is READY or RUN takes no write, nor does a STATE of 2 to 7 come
from a write; STATE 1 submits; an abort ends a READY job without a record and a RUN job with one, and is else ignored. -/
def Obligations.SearchJobs : Prop :=
  ∀ (s : State) (m : Master), Settled s →
    (∀ (j : Fin 6144), s.live = true → s.allowed m 36 .write = true → NoneWaits s m → let a := 0x650000 + j.val * 8
      let st := s.get (R.JOB_STATE j)
      let dropped (w : Nat) (t : State) := t = { s with flt := t.flt } ∧ Recorded s t 0x0401 0xFF (a + w) (some m.val);
      (∀ w : Word, Completes (.jobSubmit m j w) s (fun t => (st = 1 ∨ st = 2 → dropped 0 t) ∧
        (st ≠ 1 → st ≠ 2 → OnlyRegs s t [a] ∧ t.get (R.JOB_STATE j) = 1 ∧
          ∀ k, k ≤ 3 ∨ 7 ≤ k ∧ k ≤ 12 → (t.rg a).getLsbD k = w.getLsbD k))) ∧
      (∀ (k : Fin 8) (w : Word), Completes (.jobEntryWrite m j k w) s (fun t =>
        let barred := st = 1 ∨ st = 2 ∨ k = 0 ∧ 2 ≤ w.toNat / 8192;
        (barred → dropped k t) ∧
        (¬barred → OnlyRegs s t [a + k] ∧ ∀ g i, regAt (a + k) = some (g, i) →
          ∀ f ∈ g.fields, ∀ b, f.lo ≤ b → b ≤ f.hi → (t.rg (a + k)).getLsbD b = w.getLsbD b)))) ∧
    (CanWrite s m 0x70600D → ∀ j : Fin 8192, Completes (.srchAbort m j) s (fun t =>
      let st := s.get (R.JOB_STATE j);
      (6144 ≤ j.val → Rejected s t 0x70600D) ∧
      (j.val < 6144 → st = 1 → OnlyRegs s t [0x650000 + j.val * 8] ∧ t.get (R.JOB_STATE j) = 6) ∧
      (j.val < 6144 → st ≠ 1 → st ≠ 2 → OnlyRegs s t [0x70600E] ∧ t.isOn R.SRCH_STAT_ABORT_IGN = true) ∧
      (∀ k : Fin 4, j.val < 6144 → st = 2 → (s.pipe k).job = some j.val → (∀ i < k.val, (s.pipe i).job ≠ some j.val) →
        (s.listFull = false → t.get (R.JOB_STATE j) = 6 ∧ t.pipe k = {} ∧
          t.get R.SRCH_RES_WR_WR = (s.get R.SRCH_RES_WR_WR + 1) % 512) ∧
        (s.listFull = true → t.get (R.JOB_STATE j) = 2 ∧ ∃ f, (t.pipe k).fin = some f ∧ f.outcome = 4 ∧ f.peaks = [])))) ∧
    (CanWrite s m 0x706012 → ∀ v : Word, let rd := s.get R.SRCH_RES_RD_RD
      let held := (s.get R.SRCH_RES_WR_WR + 512 - rd) % 512
      let moved := (v.toNat % 512 + 512 - rd) % 512
      Completes (.resRdWrite m v) s (fun t => (held < moved → Rejected s t 0x706012) ∧
        (moved ≤ held → t.get R.SRCH_RES_RD_RD = v.toNat % 512) ∧
        (moved ≤ held → (∀ k : Fin 4, (s.pipe k).fin = none) → OnlyRegs s t [0x706012]) ∧
        (∀ (k : Fin 4) (j : Fin 6144) (f : Finish), 0 < moved → moved ≤ held → (s.pipe k).job = some j.val →
          (s.pipe k).fin = some f → f.outcome ≠ 1 → f.newState < 8 → (∀ i : Fin 4, i ≠ k → (s.pipe i).fin = none) →
          t.get (R.JOB_STATE j) = f.newState ∧ t.pipe k = {} ∧
          t.get R.SRCH_RES_WR_WR = (s.get R.SRCH_RES_WR_WR + 1) % 512)))

/-- R199, R200, R202, R204, R206, R207, R212 to R215, R217 to R222: dispatch takes the best READY job; a job that a check fails
ends in ERROR; a finished job writes its record and its STATE, a BUILD job the spectrum of its code; the first peak of a search is
the largest of the cells that its blocks and spectra give, with a fit within half a sample, and claims its channel where every
test passes. The order of the cells is the model's: log entry 107. -/
def Obligations.SearchRuns : Prop :=
  ∀ s : State, Settled s →
    let base := s.get R.SRCH_RES_BASE_BASE * 0x2000 + s.get R.SRCH_RES_WR_WR * 16
    let room := s.listFull = false ∧ (s.get R.SRCH_RES_WR_WR + 2) % 512 ≠ s.get R.SRCH_RES_RD_RD
    let open_ := PoolOpen s 9 ∧ Legal s 0x706010
    let readable := s.live = true ∧ s.memSt.flips = [] ∧ s.memSt.borrowed = none ∧ ∀ b < 32, s.allowed 9 b .read = true
    let ended (k : Fin 4) (j : Fin 6144) (st : Nat) (t : State) := t.pipe k = {} ∧ t.get (R.JOB_STATE j) = st ∧
      t.get R.SRCH_RES_WR_WR = (s.get R.SRCH_RES_WR_WR + 1) % 512
    let failed (k : Fin 4) (j : Fin 6144) (err noise : Nat) (t : State) := ended k j 5 t ∧
      RecordedNow s t (0x0400 + err) k (j.val + noise * 65536) none ∧ t.memGet base = BitVec.ofNat 16 (0x6000 + j.val) ∧
      (t.memGet (base + 1)).toNat / 256 = err ∧ (err = 2 → t.memGet (base + 3) = BitVec.ofNat 16 noise) ∧
      ∀ a, a < base ∨ base + 16 ≤ a → t.memGet a = s.memGet a
    let ready := s.readyJobs.filter (fun j => s.searchAllowed (s.get (R.JOB_CLASS j)))
    let idle (k : Nat) := s.pipeOn k = true ∧ k < s.get R.SRCH_CFG_PIPE_MAX ∧ (s.pipe k).job = none
    let on := s.isOn R.SRCH_CFG_EN = true ∧ s.clk.limp = false;
    (¬on ∨ ready = [] ∨ (∀ k < 4, ¬idle k) → Completes .jobDispatch s (fun t => t = s)) ∧
    (∀ (k : Fin 4) (j : Fin 6144), on → idle k → (∀ i < k.val, ¬idle i) → j.val ∈ ready →
      (∀ i ∈ ready, i ≠ j.val → s.jobBefore j i = true) →
      let runs (t : State) := OnlyRegs { s with srch := t.srch } t [0x650000 + j.val * 8] ∧ t.get (R.JOB_STATE j) = 2 ∧
        (t.pipe k).job = some j.val ∧ (t.pipe k).fin = none ∧ ∀ i : Fin 4, i ≠ k → t.pipe i = s.pipe i;
      (∀ n, s.jobCheck j = some n → room → open_ → Completes .jobDispatch s (failed k j 2 n)) ∧
      (s.jobCheck j = none → s.jobBuild j = true → Completes .jobDispatch s (fun t => runs t ∧
        (t.pipe k).due = s.clk.total + 2 * s.jobN j + 384)) ∧
      (s.jobCheck j = none → s.jobBuild j = false →
        (s.spanStart j = none → room → open_ → Completes .jobDispatch s (failed k j 2 10)) ∧
        ∀ a age, s.spanStart j = some (a, age) → readable → Completes .jobDispatch s (fun t => runs t ∧
          (t.pipe k).pos = some a ∧ (t.pipe k).gen = (s.get R.SRCH_CAP_GEN_GEN + 256 - age) % 256 ∧
          (t.pipe k).spec = s.memGets (0x100000 + s.get (R.JOB_SPEC_PTR j) * 1024) (s.jobCodes j * s.jobN j)))) ∧
    (∀ k : Fin 4, let p := s.pipe k
      let run := Instr.jobComplete k [];
      (p.job = none ∨ p.fin ≠ none → Completes run s (fun t => t = s)) ∧
      (∀ j : Fin 6144, p.job = some j.val → p.fin = none → room → open_ → s.clk.waking = [] →
        p.due ≤ s.clk.total ∨ s.inTick (p.due - s.clk.total) = true →
        (s.jobBuild j = true → s.get (R.JOB_SPEC_PTR j) * 1024 + s.jobN j ≤ 0x200000 →
          let at_ := 0x100000 + s.get (R.JOB_SPEC_PTR j) * 1024
          let w := s.jobWord j
          let out := codeSpectrum (s.jobN j) ((List.range (s.jobN j)).map
            (s.buildSample (w 1 + 65536 * (w 2 % 4)) (w 4 + 65536 * (w 2 / 4 % 16)) (w 2 / 1024) (w 5 + 65536 * w 6)))
          base + 16 ≤ at_ ∨ at_ + s.jobN j ≤ base → Completes run s (fun t =>
            ended k j 3 t ∧ (∀ i < s.jobN j, t.memGet (at_ + i) = out.1.getD i 0) ∧
            t.memGet (base + 3) = BitVec.ofInt 16 out.2 ∧ t.memGet base = BitVec.ofNat 16 (0x2000 + j.val))) ∧
        (∀ x, s.jobBuild j = false → p.pos = some x → let n := s.jobN j
          let total := s.jobNc j * n;
          (s.spanLost p j = true → Completes run s (failed k j 3 0)) ∧
          (s.spanLost p j = false → (s.pipeGen p).written < x + total → Completes run s (fun t => t = { s with clk := t.clk })) ∧
          (s.spanLost p j = false → x + total ≤ (s.pipeGen p).written →
            (∃ e ∈ s.memSt.flips, e.2.parityBad = true ∧ ∃ i < total, e.1 = 0x300000 + (x + i) % max 1 (s.pipeGen p).ring) →
              Completes run s (failed k j 6 0)) ∧
          (s.spanLost p j = false → x + total ≤ (s.pipeGen p).written → s.memSt.flips = [] → Completes run s (fun t =>
            let cells := s.jobCells p j
            let dops := s.get (R.JOB_DOP_N_M1 j) + 1
            let span := n / 2 ^ s.get (R.JOB_KPER j)
            let count := s.jobCodes j * dops * n
            let c := s.get (R.JOB_HO_CHAN j)
            let ratio := (t.memGet (base + 6)).toNat % 4096
            let claimed := (t.memGet (base + 6)).toNat / 4096
            let may := s.isOn R.SRCH_CFG_HO_EN = true ∧ s.isOn (R.JOB_HO_EN j) = true ∧ s.jobFlags p j = (false, false) ∧
              s.chState c = 0 ∧ s.isOn (R.CH_HO_OK c) = true ∧ s.get (R.CH_BAND c) = s.act R.DFE_DEC_CFG_SRC % 3 ∧
              s.isFollower c = false ∧ s.startBad c = false
            ended k j 3 t ∧ t.memGet base = BitVec.ofNat 16 (0x2000 + j.val) ∧
            (cells.length = count → count ≤ cells.sum →
              t.memGet (base + 3) = BitVec.ofNat 16 (min 65535 (dbFree cells.sum count))) ∧
            (∀ i : Nat, cells.length = count → count ≤ 2 ^ 24 → i < count → i % n < span →
              (∀ l < count, l % n < span → cells.getD l 0 < cells.getD i 0 ∨ (cells.getD l 0 = cells.getD i 0 ∧ i ≤ l)) →
              (t.memGet (base + 4)).toNat / 16 = i / (n * dops) * 256 + i / n % dops ∧
              (0 < cells.getD i 0 → cells.sum ≤ cells.getD i 0 * count → ratio = dbSixteenth (cells.getD i 0 * count) cells.sum % 4096) ∧
              (∃ d : Int, -8 ≤ d ∧ d ≤ 8 ∧ (((t.memGet (base + 4)).toNat % 16 * 65536 + (t.memGet (base + 5)).toNat : Nat) : Int) =
                (16 * (i % n) + d) % (16 * span)) ∧
              (s.jobCodes j = 1 → c < 192 → may → 4 * s.get (R.JOB_HO_TH j) ≤ ratio → ratio ≠ 0 → claimed = 1 ∧
                t.chState c = 1 ∧ t.isOn (R.CH_HO c) = true ∧ t.getW (R.CH_CARR_PH_INIT c) = 0)) ∧
            (s.jobCodes j = 1 → c < 192 → ¬may → s.chState c ≠ 1 →
              t.ch = s.ch ∧ t.active = s.active ∧ t.chState c = s.chState c)))))) ∧
    (∀ k : Fin 4, let p := s.pipe k;
      (p.job = none ∨ p.pos = none ∨ p.fin ≠ none → Completes (.captureOverwrite k) s (fun t => t = s)) ∧
      ∀ (j : Fin 6144) (x : Nat), p.job = some j.val → p.pos = some x → p.fin = none →
        let now := s.get R.SRCH_CAP_GEN_GEN;
        (p.gen = now → s.srch.cur.written ≤ x + s.srch.cur.ring → Completes (.captureOverwrite k) s (fun t => t = s)) ∧
        (p.gen = now ∧ x + s.srch.cur.ring < s.srch.cur.written ∨ p.gen ≠ now ∧ (p.gen + 1) % 256 ≠ now → room → open_ →
          Completes (.captureOverwrite k) s (failed k j 3 0))) ∧
    (let ok := s.srch.cur.snap = true ∧ s.isOn R.SRCH_CAP_GEN_ACTIVE = true ∧ s.srch.cur.ring ≤ s.srch.cur.written;
      (¬ok → Completes .snapDone s (fun t => t = s)) ∧
      (ok → Completes .snapDone s (fun t => OnlyRegs s t [0x706007] ∧ t.isOn R.SRCH_CAP_GEN_SNAP_DONE = true ∧
        t.isOn R.SRCH_CAP_GEN_ACTIVE = false)))

/-- R492 to R494, R499, R500, R502 to R505, R511: the ports of the Confluence link come up and go down; what their loss, a
LEAVE, silence and writes of CFL_CTRL do; and the agreement signal, whose fall takes Transmit Permit with it. -/
def Obligations.ConfluenceLinks : Prop :=
  ∀ s : State, Settled s → let stat := R.CFL_STAT.gwa
    let lost (t : State) := t.agreed = false ∧ t.permit = false ∧ t.isOn R.CFL_STAT_AG_DROP = true ∧
      (s.permit = true → t.isOn R.SLC_PERMIT_STAT_DROP = true);
    (∀ p : Fin 2, let ps := s.pstate p
      let port := R.CFL_PORT_STAT p
      let others (t : State) := ∀ q : Fin 2, q ≠ p → t.cflPort q = s.cflPort q ∧ t.pstate q = s.pstate q
      let dropped (t : State) := (t.cflPort p).last = none ∧ others t
      let counted (t : State) (c : CflPort) := t = { s with cfl := t.cfl } ∧ t.cflPort p = c ∧ others t;
      (∀ chars : List LinkChar, let up := CflPort.over CflPort.seek CflPort.found (s.cflPort p) chars
        let down := CflPort.over CflPort.watch CflPort.lost (s.cflPort p) chars
        let run := 64 ≤ chars.length ∧ (∀ x ∈ chars, x.good = true) ∧ ∃ x ∈ chars, x.comma = true
        let broken := chars.length ≤ 1024 ∧ 4 ≤ chars.countP (fun x => !x.good)
        let silent := 1024 ≤ chars.length ∧ ∀ x ∈ chars, x.good = true → x.comma = false;
        (s.portOn p = true → ps = 0 → up.found = true ∨ run → Completes (.linkUp p chars) s (fun t =>
          RegsKept s t [port.gwa] ∧ t.pstate p = 1 ∧ t.flt = s.flt ∧ dropped t)) ∧
        (s.portOn p = true → ps = 0 → up.found = false → Completes (.linkUp p chars) s (fun t => counted t up)) ∧
        (s.portOn p = false ∨ ps ≠ 0 → Completes (.linkUp p chars) s (fun t => t = s)) ∧
        (ps ≠ 0 → down.lost = true ∨ broken ∨ silent → Completes (.linkDown p chars) s (fun t =>
          RegsKept s t [port.gwa] ∧ t.pstate p = 0 ∧ dropped t ∧ Recorded s t 0x0F08 p 0 none)) ∧
        (ps ≠ 0 → down.lost = false → Completes (.linkDown p chars) s (fun t => counted t down)) ∧
        (ps = 0 → Completes (.linkDown p chars) s (fun t => t = s))) ∧
      (ps = 2 → 4 ≤ (s.cflPort p).quiet → Completes (.neighbourTimeout p) s (fun t =>
        RegsKept s t [port.gwa] ∧ t.pstate p = 1 ∧ t.flt = s.flt ∧ dropped t)) ∧
      (¬(ps = 2 ∧ 4 ≤ (s.cflPort p).quiet) → Completes (.neighbourTimeout p) s (fun t => t = s)) ∧
      (∀ b : List Nat, cflBody (cflFrame b) true = some b) ∧
      ∀ (frame : List (BitVec 8)) (whole : Bool), let body := cflBody (frame.map BitVec.toNat) whole
        let heard := s.portOn p = true ∧ ps ≠ 0
        let leave := body = some [3, (body.getD []).getD 1 0, (body.getD []).getD 2 0];
        (heard → leave → Completes (.leaveRx p frame whole) s (fun t => (t.cflPort p).left = true ∧ t.flt = s.flt ∧
          (ps = 2 → t.pstate p = 1 ∧ RegsKept s t [port.gwa] ∧ dropped t) ∧ (ps ≠ 2 → t.regs = s.regs))) ∧
        (heard → body = none ∨ (body.getD []).head? = some 3 → ¬leave → Completes (.leaveRx p frame whole) s (fun t =>
          t.get (R.CFL_PORT_STAT_CRC_ERR p) = min 255 (s.get (R.CFL_PORT_STAT_CRC_ERR p) + 1) ∧
          t.pstate p = ps ∧ RegsKept s t [port.gwa] ∧ ((s.cflPort p).crcSeen = true → t.flt = s.flt) ∧
          ((s.cflPort p).crcSeen = false → Recorded s t 0x0F03 p 0 none))) ∧
        (¬heard ∨ body ≠ none ∧ (body.getD []).head? ≠ some 3 → Completes (.leaveRx p frame whole) s (fun t => t = s))) ∧
    (let ok := s.atEdge = true ∧ s.cflState = 3 ∧ s.act R.CFL_AG_CFG_LOSS_N ≤ s.cfl.noOfs ∧ s.agreed = true;
      (ok → Completes .agreementLoss s (fun t => lost t ∧ RegsKept s t [stat, R.SLC_PERMIT_STAT_DROP.gwa] ∧ t.cflState = 3 ∧
        (s.permit = false → Recorded s t 0x0F05 0xFF 0 none))) ∧
      (¬ok → Completes .agreementLoss s (fun t => t = s))) ∧
    (let ok := s.cflState = 3 ∧ s.cfl.ofsSeen = true ∧ s.act R.CFL_AG_CFG_AG_GOOD ≤ s.cfl.good;
      (ok → Completes .agreementRise s (fun t =>
        RegsKept s t [stat] ∧ t.agreed = true ∧ t.permit = (s.settled && s.trusted) ∧ t.flt = s.flt)) ∧
      (¬ok → Completes .agreementRise s (fun t => t = s))) ∧
    (let ok := s.atEdge = true ∧ s.cflState = 3 ∧ s.get R.CFL_TIMING_DIG_GRACE ≤ s.cfl.mism;
      (ok → Completes .degraded s (fun t => RegsKept s t [stat, R.SLC_PERMIT_STAT_DROP.gwa] ∧ t.cflState = 4 ∧
        t.agreed = false ∧ t.permit = false ∧ (s.agreed = true → lost t) ∧
        (s.permit = false → Recorded s t 0x0F06 0xFF 0 none))) ∧
      (¬ok → Completes .degraded s (fun t => t = s))) ∧
    (∀ (m : Master) (v : Word), CanWrite s m 0x711003 → let was := s.isOn R.CFL_CTRL_EN
      let sameId := v.getLsbD 14 = s.isOn R.CFL_CTRL_CAND ∧ bitsOf v.toNat 13 11 = s.get R.CFL_CTRL_ID
      let locked := was = true ∧ ¬sameId ∧ s.get R.CFL_CTRL_PORT_EN ≠ 0
      let taken (t : State) := t.isOn R.CFL_CTRL_CAND = v.getLsbD 14 ∧ t.get R.CFL_CTRL_ID = bitsOf v.toNat 13 11 ∧
        t.get R.CFL_CTRL_PORT_EN = bitsOf v.toNat 10 9
      let idle (n : Nat) (t : State) := t.cflState = n ∧ t.get R.CFL_STAT_LEAD = 0 ∧ t.get R.CFL_STAT_HOPS = 0 ∧
        t.agreed = false ∧ t.permit = false
      let high := m.val = 14 ∨ m.val = 15;
      (¬locked → Completes (.cflEnable m v) s (fun t => t.isOn R.CFL_CTRL_EN = true ∧ taken t ∧ (was = false → idle 1 t) ∧
        (was = true → t.cflState = s.cflState ∧ t.agreed = s.agreed))) ∧
      (locked → Completes (.cflEnable m v) s (fun t => Rejected s t 0x711003)) ∧
      (high → ¬locked → Completes (.cflDisable m v) s (fun t => t.isOn R.CFL_CTRL_EN = false ∧ taken t ∧
        (was = true → idle 0 t ∧ ∀ p : Fin 2, t.pstate p = 0))) ∧
      (¬high ∨ locked → Completes (.cflDisable m v) s (fun t => Rejected s t 0x711003)) ∧
      (v.getLsbD 15 = true → was = true → sameId → Completes (.portDisable m v) s (fun t =>
        t.isOn R.CFL_CTRL_EN = true ∧ taken t ∧ t.cflState = s.cflState ∧ t.flt = s.flt ∧ ∀ p : Fin 2,
          let cut := bitOf (s.get R.CFL_CTRL_PORT_EN) p = true ∧ v.getLsbD (9 + p) = false;
          (cut → t.pstate p = 0 ∧ (t.cflPort p).last = none ∧ (s.pstate p ≠ 0 → s.clk.limp = false →
            (t.cflPort p).out = cflFrame [3, 1, s.get R.CFL_CTRL_ID * 32])) ∧
          (¬cut → t.pstate p = s.pstate p ∧ t.cflPort p = s.cflPort p))))

/-- R494 to R499, R503, R506 to R508: beacons sent and taken, the two-way measurement they complete and the offset it gives;
USER messages sent, taken once, delivered to the receive ring and passed on; CFL_PPS_OUT and CFL_PPS_IN. -/
def Obligations.ConfluenceMessages : Prop :=
  ∀ s : State, Settled s →
    (s.clk.limp = true ∨ s.perClk = 0 ∨ s.runTo s.beaconDue = none → Completes .beaconTx s (fun t => t = s)) ∧
    (s.clk.limp = false → accPerSub ≤ s.perClk → s.clk.waking = [] → (s.runTo s.beaconDue).isSome = true →
      Completes .beaconTx s (fun t => s.beaconDue ≤ t.clk.acc ∧ t.clk.acc < s.beaconDue + s.perClk + accPerSub ∧ t.regs = s.regs ∧ t.mem = s.mem ∧ t.flt = s.flt ∧
        t.cfl.beaconAt = some t.clk.total ∧ ∀ p : Fin 2, let c := s.cflPort p;
          (s.portOn p = false ∨ s.pstate p = 0 → t.cflPort p = c) ∧
          (s.portOn p = true → s.pstate p ≠ 0 → (t.cflPort p).txSeq = (c.txSeq + 1) % 256 ∧
            (t.cflPort p).out = cflFrame ((t.cflPort p).out.take 42) ∧ (t.cflPort p).out.length = 46 ∧
            (t.cflPort p).out.headD 0 = 1 ∧ let b := parseBeacon (t.cflPort p).out;
            (t.clk.acc < 2 ^ 47 * accPerSec → (((b.tx * (10 * accPerSub) : Nat) : Int) - (t.clk.acc * 10 + 24 * accPerNs : Nat)).natAbs
              < 10 * accPerSub) ∧
            b.version = 1 ∧ b.src = s.get R.CFL_CTRL_ID ∧ b.cand = s.isOn R.CFL_CTRL_CAND ∧ b.state = s.cflState ∧
              b.lead = s.get R.CFL_STAT_LEAD ∧ b.hops = s.get R.CFL_STAT_HOPS ∧ b.clkq = !s.synLocked ∧ b.seq = c.txSeq ∧
              b.trust = s.trust ∧ b.agree = s.agreed ∧ b.rxV = c.last.isSome ∧ b.ldig = wordsValue s.rg 0x711015 2 ∧
              (s.cflState = 2 → b.cumV = true ∧ b.cum = 0 ∧ b.lseq = c.txSeq) ∧
              (s.cflState < 2 → b.cumV = false) ∧ ∀ x, c.last = some x → b.rxSeq = x.1.seq))) ∧
    (∀ (p : Fin 2) (frame : List (BitVec 8)) (whole : Bool) (ofs : Nat), let got := cflBody (frame.map BitVec.toNat) whole
      let body := got.getD []
      let b := parseBeacon body
      let c := s.cflPort p
      let heard := s.portOn p = true ∧ s.pstate p ≠ 0
      let port := R.CFL_PORT_STAT p;
      (heard → got = none ∨ body.head? = some 1 ∧ body.length ≠ 42 → Completes (.beaconRx p frame whole ofs) s (fun t =>
        t.get (R.CFL_PORT_STAT_CRC_ERR p) = min 255 (s.get (R.CFL_PORT_STAT_CRC_ERR p) + 1) ∧
        t.pstate p = s.pstate p ∧ (t.cflPort p).whole = false ∧ RegsKept s t [port.gwa] ∧
        (c.crcSeen = true → t.flt = s.flt) ∧ (c.crcSeen = false → Recorded s t 0x0F03 p 0 none))) ∧
      (¬heard ∨ got ≠ none ∧ (body.head? ≠ some 1 ∨ body.length = 42 ∧ c.left = true) →
        Completes (.beaconRx p frame whole ofs) s (fun t => t = s)) ∧
      (heard → got ≠ none → body.head? = some 1 → body.length = 42 → c.left = false →
        Completes (.beaconRx p frame whole ofs) s (fun t =>
          (b.version ≠ 1 ∨ b.src = s.get R.CFL_CTRL_ID → t.pstate p = 3 ∧ (t.cflPort p).last = none ∧
            RegsKept s t [port.gwa] ∧ (s.pstate p = 3 → t.flt = s.flt) ∧
            (s.pstate p ≠ 3 → Recorded s t (if b.version ≠ 1 then 0x0F01 else 0x0F02) p 0 none)) ∧
          (b.version = 1 → b.src ≠ s.get R.CFL_CTRL_ID → t.pstate p = 2 ∧
            t.get (R.CFL_PORT_STAT_NEIGH p) = b.src ∧ t.isOn (R.CFL_PORT_STAT_CLKQ p) = b.clkq ∧
            (t.cflPort p).quiet = 0 ∧ (∃ x, (t.cflPort p).last = some (b, x)) ∧
            ∀ th d, s.cflMeasure p b = some (th, d) → s.pstate p = 2 →
              wordsValue t.rg (0x71100D + 2 * p) 2 = unsignedOf 32 d ∧
              let offset := s.cflFollows = true ∧ s.get R.CFL_STAT_UPPORT = p ∧ b.cumV = true;
              (¬offset → t.agreed = s.agreed ∧ t.flt = s.flt) ∧
              (offset → t.cfl.ofsSeen = true ∧ wordsValue t.rg 0x71100A 3 = unsignedOf 48 (b.cum + th) ∧
                (s.cflState = 3 → s.timeTol < (b.cum + th).natAbs → t.agreed = false ∧ t.cfl.good = 0 ∧
                  (s.agreed = true → s.permit = false → Recorded s t 0x0F04 0xFF 0 none)) ∧
                ((b.cum + th).natAbs ≤ s.timeTol → t.agreed = s.agreed ∧ t.flt = s.flt)))))) ∧
    (∀ (m : Master) (v : Word), CanWrite s m 0x711028 → s.live = true → s.memSt.flips = [] → s.memSt.borrowed = none →
      s.allowed 12 30 .read = true → s.allowed 12 31 .read = true →
      (bitsOf v.toNat 12 9 ≤ 7 ∨ bitsOf v.toNat 12 9 = 15) → 1 ≤ bitsOf v.toNat 6 0 → bitsOf v.toNat 6 0 ≤ 64 →
      let len := bitsOf v.toNat 6 0
      let words := (List.range len).map (fun i => (s.memGet (0x2E0000 + s.get R.CFL_TX_PTR_PTR * 64 + i)).toNat)
      let toPort (p : Nat) := v.getLsbD (13 + p) = true ∧ s.portOn p = true ∧ s.pstate p = 2
      let msg := [2, 1, s.get R.CFL_CTRL_ID * 32, bitsOf v.toNat 12 9, 0, s.cfl.mseq, len] ++ words.flatMap (leBytes 2);
      (s.cflBusy = false → s.clk.limp = false → toPort 0 ∨ toPort 1 → Completes (.userTx m v) s (fun t =>
        t.mem = s.mem ∧ t.flt = s.flt ∧ t.cfl.mseq = (s.cfl.mseq + 1) % 256 ∧
        s.clk.total + 10 * (13 + 2 * len) ≤ t.cfl.busyTo ∧ ∀ p : Fin 2, (toPort p → (t.cflPort p).out = cflFrame msg) ∧
          (¬toPort p → t.cflPort p = s.cflPort p))) ∧
      (s.cflBusy = true → Completes (.userTx m v) s (fun t =>
        t.mem = s.mem ∧ t.flt = s.flt ∧ t.isOn R.CFL_TX_STAT_IGN = true ∧ t.cfl = s.cfl)) ∧
      (s.cflBusy = false → s.clk.limp = true ∨ ¬toPort 0 ∧ ¬toPort 1 → Completes (.userTx m v) s (fun t =>
        t.mem = s.mem ∧ t.flt = s.flt ∧ t.cfl = s.cfl))) ∧
    (∀ (p : Fin 2) (frame : List (BitVec 8)) (whole : Bool), let got := cflBody (frame.map BitVec.toNat) whole
      let body := got.getD []
      let at_ (i : Nat) := body.getD i 0
      let q := 1 - p.val
      let heard := s.portOn p = true ∧ s.pstate p ≠ 0
      let good := body.length = 7 + 2 * at_ 6 ∧ 1 ≤ at_ 6 ∧ at_ 6 ≤ 64
      let src := at_ 2 / 32
      let again := ∃ e ∈ s.cfl.taken, e.1 = src ∧ e.2.1 = at_ 5 ∧ (s.clk.tickCount + 2 ^ 32 - e.2.2) % 2 ^ 32 < 256
      let me := at_ 3 = s.get R.CFL_CTRL_ID
      let forward := ¬me ∧ at_ 4 < 6 ∧ s.pstate q = 2 ∧ s.portOn q = true ∧ s.get (R.CFL_PORT_STAT_NEIGH q) ≠ src ∧
        s.clk.limp = false
      let size := (s.get R.CFL_RX_CFG_SIZE + 1) * 1024
      let wr := s.get R.CFL_RX_WR_V
      let room := (s.get R.CFL_RX_RD_V + 2 * size - wr % size - 1) % size
      let base := 0x2E0000 + s.get R.CFL_RX_CFG_BASE * 1024
      let record := BitVec.ofNat 16 (src * 256 + at_ 6) ::
        (List.range (at_ 6)).map (fun i => BitVec.ofNat 16 (at_ (7 + 2 * i) + 256 * at_ (8 + 2 * i)))
      let deliver := (me ∨ at_ 3 = 15) ∧ s.isOn R.CFL_RX_CFG_EN = true
      let user := heard ∧ got ≠ none ∧ at_ 0 = 2;
      (heard → got = none ∨ at_ 0 = 2 ∧ ¬good → Completes (.userRx p frame whole) s (fun t =>
        t.get (R.CFL_PORT_STAT_CRC_ERR p) = min 255 (s.get (R.CFL_PORT_STAT_CRC_ERR p) + 1) ∧
        t.mem = s.mem ∧ RegsKept s t [0x711007 + p] ∧ ((s.cflPort p).crcSeen = true → t.flt = s.flt) ∧
        ((s.cflPort p).crcSeen = false → Recorded s t 0x0F03 p 0 none))) ∧
      (¬heard ∨ got ≠ none ∧ (at_ 0 ≠ 2 ∨ good ∧ s.pstate p ≠ 2) → Completes (.userRx p frame whole) s (fun t => t = s)) ∧
      (user → good → s.pstate p = 2 → again → Completes (.userRx p frame whole) s (fun t =>
        t.mem = s.mem ∧ t.regs = s.regs ∧ t.flt = s.flt ∧ t.cflPort q = s.cflPort q)) ∧
      (user → good → s.pstate p = 2 → ¬again → Completes (.userRx p frame whole) s (fun t =>
          (src, at_ 5, s.clk.tickCount) ∈ t.cfl.taken ∧
          (forward → (t.cflPort q).out = cflFrame (listPut body 4 (at_ 4 + 1))) ∧
          (¬forward → t.cflPort q = s.cflPort q) ∧ (¬deliver → t.mem = s.mem ∧ t.regs = s.regs) ∧
          (deliver → at_ 6 + 1 ≤ room → PoolOpen s 12 → base + size ≤ 0x300000 → wr < size →
            t.get R.CFL_RX_WR_V = (wr + at_ 6 + 1) % size ∧ RegsKept s t [0x71102C] ∧
            (∀ k < at_ 6 + 1, t.memGet (base + (wr + k) % size) = record.getD k 0) ∧
            ∀ a, a < base ∨ base + size ≤ a → t.memGet a = s.memGet a) ∧
          (deliver → room < at_ 6 + 1 → t.mem = s.mem ∧ t.get R.CFL_RX_WR_V = wr ∧ t.cfl.full = true ∧
            t.get R.CFL_RX_STAT_DROP = min 255 (s.get R.CFL_RX_STAT_DROP + 1) ∧
            (s.cfl.full = false → Recorded s t 0x0F09 p 0 none))))) ∧
    (let o := s.tpOut 4
      let target := s.tpPlace 4 o.next;
      (s.isOn R.CFL_PPS_CFG_OUT_EN = true → s.clk.limp = false → s.clk.tbRun = true → s.tp.stopped = false →
        s.clk.waking = [] → accPerSub ≤ s.perClk → ((s.clk.acc * 1000 : Nat) : Int) ≤ target → (s.runBefore target 1000).isSome = true →
        o.active = false → o.lead = none → o.skips = 0 → Completes .cflPpsOut s (fun t =>
          (t.tpOut 4).next = o.next + 1 ∧ (t.tpOut 4).active = true ∧ (t.tpOut 4).lead = some t.clk.age ∧ t.flt = s.flt ∧
          ((t.clk.acc * 1000 : Nat) : Int) ≤ target ∧ target < ((t.clk.acc + s.perClk + accPerSub) * 1000 : Nat) ∧
          (s.pwr.stage = .running → t.ppsBall = true))) ∧
      (s.isOn R.CFL_PPS_CFG_OUT_EN = false → Completes .cflPpsOut s (fun t => t = s))) ∧
    (∀ ofs : Nat, let x := s.clk.acc / accPerSub + ofs;
      (s.isOn R.CFL_PPS_CFG_IN_EN = true → Completes (.cflPpsIn ofs) s (fun t =>
        OnlyRegs s t ((List.range 6).map (0x711021 + ·)) ∧
        wordsValue t.rg 0x711021 1 = x % 65536 ∧ wordsValue t.rg 0x711022 2 = x / 65536 % 1000000000 ∧
        wordsValue t.rg 0x711024 3 = x / 65536 / 1000000000 % 2 ^ 48)) ∧
      (s.isOn R.CFL_PPS_CFG_IN_EN = false → Completes (.cflPpsIn ofs) s (fun t => t = s)))

/-- R447, R512 to R518, R522, R523, R525, R527, R528: transitions of the lifecycle, which wipe the secure store first; rows of
the OTP programmed once; key slots revoked, but never the last; and tamper, which wipes and latches and changes nothing else.
That bit 15 of the secure store's tables is cleared is the model's reading (log entry 105). -/
def Obligations.Lifecycle : Prop :=
  ∀ s : State, Settled s → let lc := s.lc
    let secure (a : Nat) := 0x620000 ≤ a ∧ a < 0x624000
    let wiped (t : State) := t.isOn R.MEM_SS_STAT_WIPING = true ∧
      ∀ a, t.memGet a = if secure a ∧ s.isOn R.MEM_SS_STAT_WIPING = false then 0 else s.memGet a;
    (∀ (m : Master) (v : Word), CanWrite s m 0x701004 → let b := v.toNat % 8
      let confirmed := v.toNat / 256 = 0xA5 ∧ 1 ≤ b ∧ b ≤ 4
      let ok := (m.val ≤ 7 ∨ m.val = 14) ∧ s.isOn R.LCS_STAT_LC_BUSY = false ∧
        (lc = 0 ∧ b = 1 ∧ s.anyKey = true ∨ lc = 1 ∧ b = 2 ∧ s.anyKey = true ∨ (lc = 1 ∨ lc = 2) ∧ b = 3 ∨ lc ≠ 4 ∧ b = 4);
      (confirmed → ok → Completes (.lifecycleTransition m v) s (fun t => t.isOn R.LCS_STAT_LC_BUSY = true ∧ t.lc = lc ∧
        t.lcs.target = b ∧ wiped t ∧ t.flt = s.flt ∧ RegsKept s t [0x701003, 0x70D034])) ∧
      (¬confirmed → Completes (.lifecycleTransition m v) s (fun t => Rejected s t 0x701004)) ∧
      (confirmed → ¬ok → Completes (.lifecycleTransition m v) s (fun t =>
        RegsKept s t [] ∧ t.mem = s.mem ∧ t.lcs = s.lcs ∧ Recorded s t 0x1008 0xFF b none))) ∧
    (let due := s.isOn R.LCS_STAT_LC_BUSY = true ∧ s.lcs.burning = true
      let b := s.lcs.target;
      (¬due → Completes .lcTransitionDone s (fun t => t = s)) ∧
      (due → 1 ≤ b → b ≤ 4 → Completes .lcTransitionDone s (fun t => t.lc = b ∧ t.fuse 0 (b - 1) = true ∧
        (∀ k < 4, s.fuse 0 k = true → t.fuse 0 k = true) ∧ t.isOn R.LCS_STAT_LC_BUSY = false ∧ t.mem = s.mem ∧
        (b = 4 → t.lcs.scrapNext = true) ∧ ∀ k ∈ accTargets,
          t.allowed 15 k .write = (decide (b = 1 ∨ b = 3) && k != 34) ∧
          t.allowed 15 k .image = (decide (b = 1 ∨ b = 3) && k != 34) ∧
          t.allowed 15 k .read = (decide (b = 1 ∨ b = 3 ∨ b = 2 ∧ s.cfgWord 3 % 4 = 1) && k != 34) ∧
          ∀ m < 15, ∀ kind, t.allowed m k kind = s.allowed m k kind))) ∧
    (∀ (m : Master) (v : Word), CanWrite s m 0x701009 → let r := v.toNat % 128
      let ok := s.rowBlank r = true ∧ (27 ≤ r ∧ r ≤ 34 ∧ lc ≤ 1 ∨ 35 ≤ r ∧ r ≤ 98 ∧ lc ≤ 2) ∧
        s.isOn R.LCS_OTP_STAT_BUSY = false ∧ s.isOn R.LCS_STAT_LC_BUSY = false ∧ s.pwr.rails.getD 4 false = true;
      (ok → Completes (.otpProgram m v) s (fun t => RegsKept s t [0x70100A] ∧ t.isOn R.LCS_OTP_STAT_BUSY = true ∧
        t.lcs.row = some r ∧ t.lcs.otp = s.lcs.otp ∧ t.flt = s.flt)) ∧
      (r = 0 → Completes (.otpProgram m v) s (fun t => Rejected s t 0x701009)) ∧
      (r ≠ 0 → ¬ok → Completes (.otpProgram m v) s (fun t => RegsKept s t [0x70100A] ∧
        t.isOn R.LCS_OTP_STAT_ERR = true ∧ t.lcs = s.lcs ∧ Recorded s t 0x1006 0xFF r none))) ∧
    (s.lcs.row = none → ∀ fail, Completes (.otpProgramDone fail) s (fun t => t = s)) ∧
    (∀ r : Nat, s.lcs.row = some r →
      let data (k : Nat) := if k < 15 then s.rg (0x701010 + k)
        else BitVec.ofNat 16 (crc16 (wordBytes ((List.range 15).map (fun k => s.rg (0x701010 + k)))))
      let ended (t : State) := t.lcs.row = none ∧ t.isOn R.LCS_OTP_STAT_BUSY = false ∧
        ∀ q k, q ≠ r → k < 16 → t.otpWord q k = s.otpWord q k
      Completes (.otpProgramDone []) s (fun t => ended t ∧ (∀ k < 16, t.otpWord r k = data k) ∧ t.flt = s.flt ∧
        RegsKept s t [0x70100A] ∧ (rowGen r ≠ 0 → t.genValid (rowGen r) = true → s.get R.LCS_STAT_CFG_GEN < rowGen r →
          t.lcs.genNext = some (rowGen r))) ∧
      (∀ (i : Fin 16) (w : Word), w ≠ data i → Completes (.otpProgramDone [(i, w)]) s (fun t => ended t ∧
        t.otpWord r i = w ∧ (∀ k < 16, k ≠ i.val → t.otpWord r k = data k) ∧ t.isOn R.LCS_OTP_STAT_ERR = true ∧
        Recorded s t 0x1006 0xFF r none))) ∧
    (∀ (m : Master) (v : Word), CanWrite s m 0x701020 → let k := v.toNat % 4
      let rest := ∃ j, j < 4 ∧ j ≠ k ∧ s.slotValid j = true ∧ s.slotRevoked j = false;
      (v.toNat / 256 = 0x5A → rest → Completes (.keyRevoke m v) s (fun t => RegsKept s t [] ∧ t.flt = s.flt ∧
        t.slotRevoked k = true ∧ (∀ j < 4, j ≠ k → t.slotRevoked j = s.slotRevoked j) ∧ ∀ j < 4, t.fuse 0 j = s.fuse 0 j)) ∧
      (v.toNat / 256 ≠ 0x5A → Completes (.keyRevoke m v) s (fun t => Rejected s t 0x701020)) ∧
      (v.toNat / 256 = 0x5A → ¬rest → Completes (.keyRevoke m v) s (fun t =>
        RegsKept s t [] ∧ t.lcs = s.lcs ∧ Recorded s t 0x1007 0xFF 0 none))) ∧
    (∀ m : Master, CanWrite s m 0x701005 → let latched := s.get R.LCS_TAMPER_STAT_LATCH ≠ 0
      let kept (t : State) := RegsKept s t [0x701003] ∧ t.mem = s.mem ∧ t.flt = s.flt;
      (¬latched → Completes (.keysOk m) s (fun t => kept t ∧ t.isOn R.LCS_STAT_KEYS_VALID = true)) ∧
      (latched → Completes (.keysOk m) s (fun t =>
        kept t ∧ t.isOn R.LCS_STAT_KEYS_VALID = s.isOn R.LCS_STAT_KEYS_VALID))) ∧
    (∀ (k : Fin 4) (stays : Bool), let fires := s.isOn ⟨0x701006, 8 + k, 8 + k⟩ = false ∧ bitOf s.lcs.armed k = true
      let quiet (t : State) := t.isOn ⟨0x701006, 8 + k, 8 + k⟩ = stays ∧ t.clk = s.clk ∧ t.tb = s.tb ∧
        t.syn = s.syn ∧ t.slc = s.slc ∧ t.tp = s.tp ∧ t.permit = s.permit ∧ t.flt = s.flt;
      (fires → Completes (.tamper k stays) s (fun t => quiet t ∧ t.isOn ⟨0x701006, 12 + k, 12 + k⟩ = true ∧
        t.isOn R.LCS_STAT_KEYS_VALID = false ∧ wiped t ∧ t.memSt.wipeCause = 1 ∧
        t.get R.LCS_TAMPER_STAT_COUNT = min 255 (s.get R.LCS_TAMPER_STAT_COUNT + 1) ∧
        bitOf t.lcs.trigNew k = true ∧ RegsKept s t [0x701003, 0x701006, 0x70D034])) ∧
      (¬fires → Completes (.tamper k stays) s (fun t => quiet t ∧ OnlyRegs s t [0x701006] ∧
        t.get R.LCS_TAMPER_STAT_LATCH = s.get R.LCS_TAMPER_STAT_LATCH))) ∧
    (∀ (m : Master) (inactive : List (Fin 4)) (v : Word), CanWrite s m 0x701006 →
      Completes (.tamperClear m inactive v) s (fun t => RegsKept s t [0x701006] ∧ t.mem = s.mem ∧
        (∀ k : Fin 4, let now := s.isOn ⟨0x701006, 8 + k, 8 + k⟩ && !inactive.contains k
          t.isOn ⟨0x701006, 8 + k, 8 + k⟩ = now ∧
          t.isOn ⟨0x701006, 12 + k, 12 + k⟩ = (s.isOn ⟨0x701006, 12 + k, 12 + k⟩ && !(v.getLsbD (12 + k) && !now))) ∧
        t.get R.LCS_TAMPER_STAT_COUNT = s.get R.LCS_TAMPER_STAT_COUNT ∧
        (t.get R.LCS_TAMPER_STAT_LATCH = 0 → t.slc.stopped = false ∧ t.syn.stopped = false ∧ t.tp.stopped = false)))

/-- R530: the crypto assist takes one operation at a time, under the master that wrote it; what each operation reads, writes
and keeps when it ends. -/
def Obligations.CryptoAssist : Prop :=
  ∀ s : State, Settled s → let c := s.lcs.crypto
    let busy := s.isOn R.LCS_CRYPTO_STAT_BUSY;
    (∀ m : Master, CanWrite s m 0x701021 →
      let job (op : Nat) : CryptoSt :=
        { c with
          op := op
          master := m
          src := wordsValue s.rg 0x701022 2 % 2 ^ 24
          dst := wordsValue s.rg 0x701024 2 % 2 ^ 24
          len := s.get R.LCS_CRYPTO_LEN_LEN }
      let takes (op : Nat) (t : State) := RegsKept s t [0x701027] ∧ t.mem = s.mem ∧ t.flt = s.flt ∧
        t.isOn R.LCS_CRYPTO_STAT_BUSY = true ∧ t.lcs.crypto = job op
      let ignored (t : State) := RegsKept s t [0x701027] ∧ t.mem = s.mem ∧ t.isOn R.LCS_CRYPTO_STAT_CMD_IGN = true ∧ t.lcs = s.lcs;
      (busy = false → Completes (.hash m) s (takes 1) ∧ Completes (.hashStart m) s (takes 2) ∧
        Completes (.hashCont m) s (takes 3) ∧ Completes (.hashFinal m) s (takes 4) ∧ Completes (.verify m) s (takes 5)) ∧
      (busy = true → Completes (.hash m) s ignored ∧ Completes (.hashStart m) s ignored ∧
        Completes (.hashCont m) s ignored ∧ Completes (.hashFinal m) s ignored ∧ Completes (.verify m) s ignored)) ∧
    (busy = false → Completes .cryptoDone s (fun t => t = s)) ∧
    (busy = true → let ended (t : State) := t.isOn R.LCS_CRYPTO_STAT_BUSY = false ∧ t.isOn R.LCS_CRYPTO_STAT_DONE = true
      let failed (t : State) := ended t ∧ t.isOn R.LCS_CRYPTO_STAT_ERR = true ∧ t.mem = s.mem
      let fine (t : State) := ended t ∧ t.isOn R.LCS_CRYPTO_STAT_ERR = s.isOn R.LCS_CRYPTO_STAT_ERR
      let n := if c.op = 5 then 80 else (c.len + 1) / 2
      let ws := (List.range n).map (fun i => s.memGet (c.src + i))
      let bytes := (wordBytes ws).take c.len
      let start := if c.op = 3 ∨ c.op = 4 then c.ctx.getD (shaInit, 0) else (shaInit, 0)
      let readable := s.live = true ∧ s.memSt.flips = [] ∧ PoolOpen s c.master ∧ (∀ b < 32, s.allowed c.master b .read = true) ∧
        0x100000 ≤ c.src ∧ c.src + n ≤ 0x300000;
      ((c.op = 2 ∨ c.op = 3) ∧ c.len % 64 ≠ 0 ∨ (c.op = 3 ∨ c.op = 4) ∧ c.ctx = none →
        Completes .cryptoDone s failed) ∧
      (c.breaks = false → s.live = true → 1 ≤ n → c.src < 2 ^ 24 → s.denies c.master c.src .read = true →
        Completes .cryptoDone s failed) ∧
      (readable → (c.op = 2 ∨ c.op = 3 ∧ c.ctx ≠ none) → c.len % 64 = 0 → Completes .cryptoDone s (fun t => fine t ∧
        t.mem = s.mem ∧ t.lcs.crypto.ctx = some (shaBlocks (c.len / 64) start.1 bytes, start.2 + c.len))) ∧
      (readable → c.op = 5 → Completes .cryptoDone s (fun t => fine t ∧ t.mem = s.mem ∧
        t.isOn R.LCS_CRYPTO_STAT_OK = verifyWords ws ∧ t.lcs.crypto.ctx = c.ctx)) ∧
      (readable → (c.op = 1 ∨ c.op = 4 ∧ c.ctx ≠ none) → 0x100000 ≤ c.dst → c.dst + 16 ≤ 0x300000 →
        let digest := bytesWords (shaFinish start.1 bytes (start.2 + c.len))
        digest.length = 16 → Completes .cryptoDone s (fun t => fine t ∧ WordsPut s t c.dst digest ∧
          t.lcs.crypto.ctx = none)))

/-- R52, R59 to R61, R63 to R67, R316, R448, R535, R536: balls are high-Z until their bank's rail and VDD_CORE are valid; a rail that becomes valid; a fall of RST_N and a TAP instruction, which hold
every GATE ball low; the end of reset, which samples BOOT_MODE and shows the cause; the loss of VDD_RET, after which its domain
holds nothing (that its memory then reads 0 is the model's choice, log entry 5). What puts the device in reset: a monitored
rail below its threshold, RST_N, and SYS_RESET.GO written by debug; GO written by another master is rejected.
That KEYS_VALID is among what reset keeps is the model's reading (log entry 106). -/
def Obligations.Supplies : Prop :=
  (
    ∀ s : State, Settled s → NoTamper s →
      (∀ b : Ball, (s.pwr.rails.getD b.rail false = false ∨ s.pwr.rails.getD 0 false = false → s.ball b = .highZ) ∧
        (s.pwr.rails.getD b.rail false = true → s.pwr.rails.getD 0 false = true →
          (s.live = false → s.ball b = b.inReset) ∧
          (∀ n, b = .gate n → s.pwr.stage ≠ .running → s.ball b = .low))) ∧
      (∀ (r : Rail) (v33 : Bool),
        (s.pwr.rails.getD (railIndex r) false = false → Completes (.powerUp r v33) s (fun t => t.regs = s.regs ∧ t.mem = s.mem ∧
          t.pwr.rails.getD (railIndex r) false = true ∧
          (∀ q, q ≠ r → t.pwr.rails.getD (railIndex q) false = s.pwr.rails.getD (railIndex q) false) ∧
          t.pwr.io33A = (if r = .ioA then v33 else s.pwr.io33A) ∧ t.pwr.io33B = (if r = .ioB then v33 else s.pwr.io33B) ∧
          t.pwr.stage = (if r = .core ∧ s.pwr.stage = .unpowered then .inReset else s.pwr.stage))) ∧
        (s.pwr.rails.getD (railIndex r) false = true → Completes (.powerUp r v33) s (fun t => t = s))) ∧
      (s.flash.prog = none → s.flash.cmd = none → Completes .rstNFall s (fun t => AllGatesLow t ∧
        t = { s with slc := t.slc } ∧ ∀ n, (t.gate n).opened = (s.gate n).opened)) ∧
      (∀ (mode : Fin 8) (n c : Nat), s.pwr.stage = .inReset → s.railsValid = true → s.pwr.sources = [c] → c < 3 →
        Completes (.resetEnd mode n) s (fun t => t.pwr.stage = .boot ∧ t.pwr.bootMode = mode.val ∧
          t.get R.SYS_BOOT_STAT_CAUSE = c ∧ t = { s with regs := t.regs, pwr := t.pwr } ∧
          RegsKept s t [0x700071, 0x700082, 0x70008F, 0x700090, 0x700091] ∧
          (s.lpcCounts = true → s.lpcCount + n < 2 ^ 48 → t.lpcCount = s.lpcCount + n))) ∧
      (∀ (mode : Fin 8) (n : Nat), s.pwr.stage ≠ .inReset ∨ s.railsValid = false →
        Completes (.resetEnd mode n) s (fun t => t = s)) ∧
      (Completes .vddRetLoss s (fun t => t.pwr.rails.getD 2 true = false ∧ t.engs = s.engs ∧ t.flash = s.flash ∧
        ∀ a, t.memGet a = if 0x600000 ≤ a ∧ a < 0x624000 then 0 else s.memGet a)) ∧
      (∀ on : Bool, Completes (.tapInstruction on) s (fun t => t.pwr.tapHold = on ∧ (on = true → AllGatesLow t) ∧
        t = { s with slc := t.slc, pwr := t.pwr } ∧ t.pwr = { s.pwr with tapHold := on }))) ∧
  (
    ∀ s : State, Settled s → NoTamper s →
      (∀ r : Rail,
        (r ≠ .a10 → r ≠ .vin → Completes (.porTrip r) s (fun t => EnteredReset s t ∧
          t.pwr.rails.getD (railIndex r) true = false ∧ 0 ∈ t.pwr.sources ∧
          t.pwr.stage = (if t.pwr.rails.getD 0 false then .inReset else .unpowered))) ∧
        (r = .a10 ∨ r = .vin → Completes (.porTrip r) s (fun t => t = s))) ∧
      Completes .reset s (fun t => EnteredReset s t ∧ t.pwr.rstLow = true ∧ 1 ∈ t.pwr.sources) ∧
      (∀ m : Master, CanWrite s m 0x700070 →
        (m.val = 15 → Completes (.sysResetGo m) s (fun t => EnteredReset s t ∧ 2 ∈ t.pwr.sources)) ∧
        (m.val ≠ 15 → Completes (.sysResetGo m) s (fun t => Rejected s t 0x700070))))

/-- R37, R346, R450, R537, R540, R542, R543, R539: the boot: what a count of edges finds; the sort of boot; an image from the
host; and the release, at which the tick count is 0, time has reached a whole millisecond and every engine starts unless a
Pool bank is BAD. -/
def Obligations.Boot : Prop :=
  ∀ s : State, Settled s → NoTamper s → s.pwr.stage = .boot →
    let st := s.get R.SYN_STAT_STATE
    let detected (a b : Nat) (t : State) :=
      (refMatch a = 0 → refMatch b = 0 → t.start.phase = .detect ∧ t.get R.SYN_STAT_STATE = s.get R.SYN_STAT_STATE) ∧
      (∀ i : Nat, (i = 0 ∧ refMatch a ≠ 0 ∨ i = 1 ∧ refMatch a = 0 ∧ refMatch b ≠ 0) → t.get R.SYS_BOOT_STAT_KIND ≠ 2 →
        t.start.phase = .acquire ∧ t.isOn R.SYN_CTRL_EN = true ∧ t.get R.SYN_CTRL_PREF = i ∧ t.get R.SYS_BOOT_STAT_REF = i ∧
        t.fRef i = (if i = 0 then refMatch a else refMatch b) ∧
        (s.get R.SYN_STAT_STATE = 0 → t.get R.SYN_STAT_STATE = 1 ∧ t.get R.SYN_STAT_ACTIVE = i))
    (∀ (a b : Nat) (bad : List (Fin 32)), s.start.phase = .none →
      Completes (.boot a b bad false) s (fun t => detected a b t ∧ t.get R.SYS_BOOT_STAT_MODE = s.pwr.bootMode % 8 ∧
        t.get R.SYS_BOOT_STAT_KIND = (if s.isOn R.SYS_SLEEP_STAT_RET_OK = false then 0
          else if s.isOn R.SYS_SLEEP_STAT_ARMED = true ∧ s.isOn R.SYS_SLEEP_STAT_LOS = false ∧
            s.isOn R.SYS_SLEEP_STAT_OVF = false ∧ s.sleepRecord = true then 2 else 1) ∧
        t.isOn R.SYS_SLEEP_STAT_RET_OK = true ∧ t.isOn R.SYS_BOOT_STAT_REC_OK = s.sleepRecord ∧
        (∀ x : Nat, x < 0x600000 ∨ 0x624000 ≤ x ∨ s.isOn R.SYS_SLEEP_STAT_RET_OK = false → t.memGet x = 0) ∧
        ∀ k ∈ bad, t.isOn (R.MEM_BANK_STAT_BAD k.val) = true)) ∧
    (∀ (a b : Nat) (bad : List (Fin 32)), s.start.phase = .none → st = 0 → s.synHeld = true → refMatch a ≠ 0 ∨ refMatch b ≠ 0 →
      Completes (.boot a b bad true) s (fun t => t.get R.SYN_STAT_STATE = 2 ∧ t.synHeld = false ∧ t.clk.limp = false ∧
        t.clk.tbRun = true ∧ t.start.phase ≠ .acquire ∧ t.get R.SYS_BOOT_STAT_MODE = s.pwr.bootMode % 8)) ∧
    (∀ (a b : Nat) (bad : List (Fin 32)) (lock : Bool), s.start.phase ≠ .none → Completes (.boot a b bad lock) s (fun t => t = s)) ∧
    (∀ a b : Nat, s.start.phase ≠ .detect → Completes (.refDetectRetry a b) s (fun t => t = s)) ∧
    (∀ a b : Nat, s.start.phase = .detect → let due := s.start.detectAt + 10000 * agePerUs
      (s.runAge due = none → Completes (.refDetectRetry a b) s (fun t => t = s)) ∧
      (Comes s due → Completes (.refDetectRetry a b) s (fun t => detected a b t ∧ due ≤ t.clk.age ∧ t.start.detectAt = t.clk.age ∧
        (refMatch a = 0 → refMatch b = 0 → RecordedNow s t 0x1109 0xFF 0 none)))) ∧
    (∀ c : Nat, s.start.phase = .host → 128 ≤ s.start.hostPos → 128 + imageLength (s.memImage 0x100000) ≤ s.start.hostPos →
      (s.checkImage (s.memImage 0x100000) 0x1E0000 (s.allowed 14 0 .image)).1 = c →
      (c = 0 → Completes .hostBootImage s (fun t => t.start.hostPos = 0 ∧ t.start.phase = .passed ∧
        t.isOn R.SYS_BOOT_STAT_HOST = true)) ∧
      (c ≠ 0 → Completes .hostBootImage s (fun t => t.start.hostPos = 0 ∧ t.start.phase = .host))) ∧
    (s.start.phase ≠ .host ∨ s.start.hostPos < 128 + imageLength (s.memImage 0x100000) →
      Completes .hostBootImage s (fun t => t = s)) ∧
    (∀ env : TickEnv,
      (s.start.phase = .passed → s.clk.running = false → s.clk.tbRun = true → accPerSub ≤ s.perClk → s.clk.waking = [] →
        Completes (.bootComplete env) s (fun t => t.pwr.stage = .running ∧ t.start.phase = .complete ∧ t.clk.running = true ∧
          t.clk.phase = 0 ∧ t.clk.tickCount = 0 ∧
          (s.clk.limp = false → s.clk.relAt ≤ s.clk.total → (t.clk.total - s.clk.relAt) % 12 = 0) ∧
          (∃ n : Nat, let x := n * (1000000 * accPerNs)
            s.clk.acc ≤ x ∧ x ≤ t.clk.acc ∧ t.clk.acc < x + 12 * (s.perClk + accPerSub)) ∧
          (t.anyBankBad = false → ∀ e : Fin 8, (t.eng e).issuing = true ∧ (t.eng e).pc = 0 ∧ (t.eng e).task = none ∧
            (t.eng e).fly = [] ∧ t.isOn (R.SYS_ENG_STAT_HALTED e) = false))) ∧
      (s.start.phase ≠ .passed → Completes (.bootComplete env) s (fun t => t = s)))

/-- R545, R547, R549: the whole-second step and the low-power counter. -/
def Obligations.StepAndSleep : Prop :=
  ∀ s : State, Settled s →
    (∀ m : Master, CanWrite s m 0x700072 →
      (s.trust < 2 ∨ 4 < s.trust → s.isOn R.SYS_SECSTEP_CTL_PEND = false → Completes (.secstep m) s (fun t =>
        t.isOn R.SYS_SECSTEP_CTL_PEND = true ∧ t = { s with regs := t.regs, tb := t.tb } ∧ RegsKept s t [0x700072] ∧
        t.tb.sec = signedOf 48 (wordsValue s.rg 0x700073 3) ∧ t.tb.secAt = s.clk.age)) ∧
      ((2 ≤ s.trust ∧ s.trust ≤ 4) ∨ s.isOn R.SYS_SECSTEP_CTL_PEND = true →
        Completes (.secstep m) s (fun t => Rejected s t 0x700072))) ∧
    (∀ m : Master, CanWrite s m 0x700081 → let idle := s.synLocked = true ∧ s.get R.SYS_UPD_STAT_STATE = 0
      let ok := s.isOn R.SYS_SLEEP_STAT_ARMED = true ∧ s.synLocked = true ∧ s.synActive = s.get R.SYS_SLEEP_STAT_INPUT
      let ignored (t : State) := t.isOn R.SYS_SLEEP_STAT_CMD_IGN = true ∧ OnlyRegs s t [0x700082];
      (idle → Completes (.sleepArm m) s (fun t => t.start.armAt = some s.clk.age ∧ RegsKept s t [])) ∧
      (¬idle → Completes (.sleepArm m) s ignored) ∧
      (ok → Completes (.snap m) s (fun t => t.start.snapAt = some s.clk.age ∧ RegsKept s t [])) ∧
      (¬ok → Completes (.snap m) s ignored)) ∧
    (let passed (x : Nat) (t : State) := x + agePerUs ≤ t.clk.age ∧ t.clk.age < max s.clk.age (x + agePerUs) + s.ageStep;
      (∀ x ofs : Nat, s.start.armAt = some x → Comes s (x + agePerUs) →
        Completes (.lpcArmEdge ofs) s (fun t => t.start.armAt = none ∧ passed x t ∧
          t.isOn R.SYS_SLEEP_STAT_ARMED = true ∧ t.isOn R.SYS_SLEEP_STAT_SNAPPED = false ∧ t.isOn R.SYS_SLEEP_STAT_LOS = false ∧
          t.isOn R.SYS_SLEEP_STAT_OVF = false ∧ t.get R.SYS_SLEEP_STAT_INPUT = s.synActive ∧ t.lpcCount = 0 ∧
          wordsValue t.rg 0x700083 1 = (t.clk.acc / accPerSub + ofs) % 65536 ∧
          wordsValue t.rg 0x700084 2 = (t.clk.acc / accPerSub + ofs) / 65536 % 1000000000)) ∧
      (∀ x n ofs : Nat, s.start.snapAt = some x → Comes s (x + agePerUs) → s.lpcCounts = true → s.lpcCount + n < 2 ^ 48 →
        Completes (.lpcSnapEdge n ofs) s (fun t => t.start.snapAt = none ∧ passed x t ∧ t.isOn R.SYS_SLEEP_STAT_ARMED = false ∧
          t.isOn R.SYS_SLEEP_STAT_SNAPPED = true ∧ t.lpcCount = s.lpcCount + n ∧
          wordsValue t.rg 0x700089 1 = (t.clk.acc / accPerSub + ofs) % 65536 ∧
          wordsValue t.rg 0x70008A 2 = (t.clk.acc / accPerSub + ofs) / 65536 % 1000000000))) ∧
    (∀ n ofs : Nat, (s.start.armAt = none → Completes (.lpcArmEdge ofs) s (fun t => t = s)) ∧
      (s.start.snapAt = none → Completes (.lpcSnapEdge n ofs) s (fun t => t = s))) ∧
    (∀ n : Nat, s.lpcCounts = true → s.lpcCount + n < 2 ^ 48 → Completes (.lpcLos n) s (fun t =>
      t.isOn R.SYS_SLEEP_STAT_LOS = true ∧ t.lpcCount = s.lpcCount + n ∧
      OnlyRegs s t [0x700082, 0x70008F, 0x700090, 0x700091])) ∧
    (s.lpcCounts = true → Completes .lpcOverflow s (fun t => t.lpcCount = 0 ∧ t.isOn R.SYS_SLEEP_STAT_OVF = true ∧
      OnlyRegs s t [0x700082, 0x70008F, 0x700090, 0x700091])) ∧
    (s.lpcCounts = false → Completes .lpcOverflow s (fun t => t = s) ∧ ∀ n, Completes (.lpcLos n) s (fun t => t = s))

/-- R551 to R553, R555: hitless update: VERIFY freezes the staged image and its checks decide; SWITCH names a tick and acts at
its edge; CANCEL goes back; the copy loads the image, or records fault 0x1107. -/
def Obligations.HitlessUpdate : Prop :=
  ∀ s : State, Settled s → let st := s.get R.SYS_UPD_STAT_STATE
    let awake := s.isOn R.SYS_SLEEP_STAT_ARMED = false
    let ignored (t : State) := OnlyRegs s t [0x700077] ∧ t.isOn R.SYS_UPD_STAT_CMD_IGN = true ∧ t.get R.SYS_UPD_STAT_STATE = st;
    (∀ m : Master, CanWrite s m 0x700076 →
      let start := awake ∧ (st = 0 ∨ st = 2 ∨ st = 5)
      let d := (s.get R.SYS_UPD_TICK_V + 65536 - s.clk.tickCount % 65536) % 65536
      let ok := awake ∧ st = 2 ∧ 2 ≤ d ∧ d ≤ 32767
      let back := awake ∧ (st = 1 ∨ st = 2 ∨ st = 3 ∨ st = 5);
      (start → Completes (.updVerify m) s (fun t => t.get R.SYS_UPD_STAT_STATE = 1 ∧ t.get R.SYS_UPD_STAT_CHECK = 0 ∧
        RegsKept s t [0x700077] ∧ t.mem = s.mem ∧ let base := wordsValue s.rg 0x700078 2 % 2 ^ 24
        t.start.frozen = some (base, min (128 + imageLength (s.memImage base)) 0x1E0000))) ∧
      (¬start → Completes (.updVerify m) s ignored) ∧
      (ok → Completes (.updSwitch m) s (fun t => t.get R.SYS_UPD_STAT_STATE = 3 ∧ OnlyRegs s t [0x700077])) ∧
      (¬ok → Completes (.updSwitch m) s ignored) ∧
      (back → Completes (.updCancel m) s (fun t =>
        t.get R.SYS_UPD_STAT_STATE = 0 ∧ t.start.frozen = none ∧ RegsKept s t [0x700077])) ∧
      (¬back → Completes (.updCancel m) s ignored)) ∧
    (∀ base n c : Nat, st = 1 → s.start.frozen = some (base, n) → 0x100000 ≤ base → base < 0x2E0000 →
      (∀ b < 30, s.allowed s.start.master b .image = true) →
      (s.checkImage (s.memImage base) (0x2E0000 - base) true).1 = c → c < 16 →
      let kept (t : State) := RegsKept s t [0x700077] ∧ t.mem = s.mem ∧ t.engs = s.engs;
      (c = 0 → Completes .updVerifyDone s (fun t => kept t ∧ t.get R.SYS_UPD_STAT_STATE = 2 ∧ t.flt = s.flt)) ∧
      (c ≠ 0 → Completes .updVerifyDone s (fun t => kept t ∧
        t.get R.SYS_UPD_STAT_STATE = 5 ∧ t.get R.SYS_UPD_STAT_CHECK = c ∧ Recorded s t 0x1002 2 c none))) ∧
    (st ≠ 1 → Completes .updVerifyDone s (fun t => t = s)) ∧
    (st ≠ 3 ∨ s.clk.tickCount % 65536 ≠ s.get R.SYS_UPD_TICK_V ∨ s.atEdge = false → Completes .switchEdge s (fun t => t = s)) ∧
    (st = 3 → s.atEdge = true → s.clk.tickCount % 65536 = s.get R.SYS_UPD_TICK_V → Completes .switchEdge s (fun t =>
      t.get R.SYS_UPD_STAT_STATE = 4 ∧ (∀ e : Fin 8, (t.eng e).issuing = false ∧ (t.eng e).task = none ∧ (t.eng e).queue = []) ∧
      t.start.switchAt = s.clk.total ∧
      ∀ k : Fin 240, t.get (R.TASK_EN k) = 0 ∧ t.act (R.TASK_EN k) = 0)) ∧
    (∀ base n : Nat, st = 4 → s.start.frozen = some (base, n) → s.drained = true → s.start.copied = false →
      (∀ e : Fin 8, ∀ k, (s.eng e).slots.getD k none = none) → s.memSt.flips = [] → s.pwr.bootMode = 4 → s.clk.waking = [] →
      let due := s.start.switchAt + imageLength (s.memImage base);
      (due ≤ s.clk.total ∨ s.inTick (due - s.clk.total) = true) →
      (bodyGood (s.memImage base) = true → Completes (.updCopy false) s (fun t =>
        t.start.copied = true ∧ t.get R.SYS_UPD_STAT_STATE = 4 ∧ t.clk.total = max s.clk.total due)) ∧
      (bodyGood (s.memImage base) = false → Completes (.updCopy false) s (fun t =>
        t.get R.SYS_UPD_STAT_STATE = 5 ∧ t.get R.SYS_UPD_STAT_CHECK = 9 ∧ t.flt.noImg = true)) ∧
      Completes (.updCopy true) s (fun t =>
        t.get R.SYS_UPD_STAT_STATE = 5 ∧ t.get R.SYS_UPD_STAT_CHECK = 9 ∧ t.flt.noImg = true)) ∧
    (st ≠ 4 → ∀ bad : Bool, Completes (.updCopy bad) s (fun t => t = s))

/-- R273, R276, R275, R277, R280, R281, R21, R108, R270, R540: the loop starts; lock windows are counted, LK_GOOD good ones in a row
lock it and LK_BAD bad ones send it to coast; it settles SYN_SETTLE ms later; the synchronous release returns the domains to the
VCO's clocks and starts the time base; an acquisition that takes too long (50 ms, log entry 129) is recorded, and in boot moves to
the other input where that matches. -/
def Obligations.SynthesiserLoop : Prop :=
  ∀ s : State, Settled s → let st := s.get R.SYN_STAT_STATE
    let moved (t : State) := RegsKept s t [0x709005, 0x709020, 0x709021];
    (∀ (m : Master) (v : Word), CanWrite s m 0x709003 → v.toNat / 4096 % 4 ≠ 3 → v.toNat % 256 ≠ 0 →
      let taken (t : State) := ∀ j, j < 16 → j ≠ 8 → (t.rg 0x709003).getLsbD j = (v ||| 0x8000).getLsbD j;
      (s.isOn R.SYN_CTRL_EN = false → st = 0 → Completes (.synEnable m v) s (fun t => taken t ∧
        RegsKept s t [0x709003, 0x709005, 0x709020, 0x709021] ∧ t.get R.SYN_STAT_STATE = 1 ∧
        t.get R.SYN_STAT_ACTIVE = (if v.getLsbD 14 then 1 else 0) ∧ t.syn.acqAt = s.clk.age ∧ t.syn.lkGood = 0)) ∧
      (s.isOn R.SYN_CTRL_EN = true → s.prefSwitch (v ||| 0x8000).toNat = false → Completes (.synEnable m v) s (fun t =>
        taken t ∧ OnlyRegs s t [0x709003])) ∧
      (s.prefSwitch (v ||| 0x8000).toNat = true → Completes (.synEnable m v) s (fun t => taken t ∧
        t.get R.SYN_STAT_STATE = st ∧ t.get R.SYN_STAT_ACTIVE = (if v.getLsbD 14 then 1 else 0) ∧
        wordsValue t.rg 0x70901E 2 = unsignedOf 32 (signedOf 32 (Config.freeValue s.free))))) ∧
    (∀ n : Nat, s.synOfs = 0 → s.syn.lkAdj = 0 → s.syn.lkSlew = 0 →
      let want := 2 ^ s.get R.SYN_LOCK_CFG_LK_WIN * 491520000
      let off := ((n * s.fRef s.synActive : Nat) - want : Int).natAbs;
      (s.lkGoodWin n = true ↔ off ≤ s.fRef s.synActive ∨ off * 4000000 ≤ want * s.get R.SYN_LOCK_TOL_LK_TOL)) ∧
    (∀ (ws : List LockWin) (w : LockWin) (x : Nat) (r : State), let u := s.lkWindows ws
      u.syn.lkFrom = some x → s.clk.waking = [] → u.runAge (x + u.lkAge) = some r →
      s.get R.SYN_LOCK_CFG_LK_GOOD ≠ 0 → s.get R.SYN_LOCK_CFG_LK_BAD ≠ 0 →
      let good := r.slewFlush.lkGoodWin w.count = true
      let g := u.syn.lkGood + 1
      let b := u.syn.lkBad + 1
      let ust := u.get R.SYN_STAT_STATE
      let declared := good ∧ s.get R.SYN_LOCK_CFG_LK_GOOD ≤ g ∧ (ust = 1 ∨ ust = 5) ∧ u.isOn (losFld u.synActive) = false
      let fails := ¬good ∧ u.synHeld = false ∧ (ust = 1 ∨ ust = 2) ∧ s.get R.SYN_LOCK_CFG_LK_BAD ≤ b
      let both (p : State → Prop) := Completes (.synLock (ws ++ [w])) s p ∧ Completes (.synLockLost (ws ++ [w])) s p;
      (declared → both (fun t => t.get R.SYN_STAT_STATE = 2 ∧ t.syn.lockAt = some t.clk.age ∧ t.clk.age = r.clk.age ∧
        (ws = [] → moved t ∧ t.flt = s.flt))) ∧
      (fails → both (fun t => t.get R.SYN_STAT_STATE = 3 ∧
        (ust = 2 → t.isOn R.SYN_STAT_UNLOCK = true ∧ t.isOn R.SYN_STAT_SETTLED = false) ∧
        (∀ c, u.syn.lkCval = some c → wordsValue t.rg 0x70901C 2 = c % 2 ^ 24) ∧
        (ws = [] → s.permit = false → RecordedNow s t 0x0702 s.synActive 0 none))) ∧
      (¬declared → ¬fails → both (fun t => t.get R.SYN_STAT_STATE = ust ∧ t.clk.age = r.clk.age ∧
        (good → t.syn.lkGood = g ∧ t.syn.lkBad = 0 ∧ t.syn.lkCval = some w.cval) ∧
        (¬good → t.syn.lkGood = 0 ∧ t.syn.lkBad = b ∧ t.syn.lkCval = u.syn.lkCval) ∧ (ws = [] → moved t ∧ t.flt = s.flt)))) ∧
    (s.syn.lkFrom = none → ∀ ws : List LockWin, let unmoved (t : State) := t = { s with syn := t.syn }
      Completes (.synLock ws) s unmoved ∧ Completes (.synLockLost ws) s unmoved) ∧
    (∀ x, s.syn.lockAt = some x → st = 2 → s.synHeld = false → let due := x + s.get R.SYN_SETTLE_SETTLE * (1000 * agePerUs)
      Comes s due → Completes .lockedAndSettled s (fun t => RegsKept s t [0x709005] ∧ t.isOn R.SYN_STAT_SETTLED = true ∧
        t.get R.SYN_STAT_STATE = 2 ∧ due ≤ t.clk.age ∧ t.flt = s.flt)) ∧
    (s.syn.lockAt = none ∨ st ≠ 2 ∨ s.synHeld = true → Completes .lockedAndSettled s (fun t => t = s)) ∧
    (∀ x, s.syn.lockAt = some x → st = 2 → s.synHeld = true → Comes s (x + agePerUs + 10000) →
      Completes .syncRelease s (fun t => t.synHeld = false ∧ t.get R.SYN_STAT_STATE = 2 ∧ t.clk.limp = false ∧ t.clk.tbRun = true ∧
        x + agePerUs + 10000 ≤ t.clk.age ∧ t.clk.relAt = t.clk.total ∧
        (s.clk.running = false → t.clk.tickLen = 491520) ∧
        (s.clk.running = true → (t.clk.tickLen - t.clk.phase) % 12 = 0 ∧ t.clk.phase < t.clk.tickLen ∧
          491520 ≤ t.clk.tickLen ∧ t.clk.tickLen < 491532) ∧ t.boSum = 0 ∧ t.isOn R.SYN_STAT_SLEW = false ∧
        t.dfe.mixPhase = [0, 0, 0] ∧ t.dfe.decPhase = 0 ∧ t.dfe.decCount = 0 ∧ t.syn.drift = 0 ∧
        t.syn.seed = s.act R.SYN_DITH_SEED ∧ t.syn.pfdEdges = 0)) ∧
    (s.syn.lockAt = none ∨ st ≠ 2 ∨ s.synHeld = false → Completes .syncRelease s (fun t => t = s)) ∧
    (s.synHeld = true → (st = 1 ∨ st = 5) → Comes s (s.syn.acqAt + 50 * (1000 * agePerUs)) →
      let again (t : State) := RecordedNow s t 0x0707 s.synActive 0 none ∧ t.syn.acqAt = t.clk.age ∧ t.syn.lkGood = 0;
      (s.start.phase ≠ .acquire → Completes .acqTimeout s (fun t => again t ∧ t.regs = s.regs)) ∧
      (s.start.phase = .acquire → ∀ f : Nat, f < 2 ^ 32 → s.start.found.getD (1 - s.synActive) 0 = f →
        (f = 0 → Completes .acqTimeout s (fun t => again t ∧ t.regs = s.regs)) ∧
        (f ≠ 0 → Completes .acqTimeout s (fun t => again t ∧ t.synActive = 1 - s.synActive ∧
          t.get R.SYN_CTRL_PREF = 1 - s.synActive ∧ t.fRef (1 - s.synActive) = f)))) ∧
    (s.synHeld = false ∨ ¬(st = 1 ∨ st = 5) → Completes .acqTimeout s (fun t => t = s))

/-- R277 to R279, R283 to R285: loss, return and validation of an input; what the loop does on each, and what a change of input
measures and shows. -/
def Obligations.References : Prop :=
  ∀ (s : State) (i : Fin 2) (j : Int), Settled s → let st := s.get R.SYN_STAT_STATE
    let act := s.get R.SYN_STAT_ACTIVE
    let o := 1 - act
    let auto := s.swAuto = true
    let measured (r : State) (j : Int) (t : State) := wordsValue t.rg 0x70901E 2 = unsignedOf 32 j ∧
      (s.isOn R.SYN_CTRL_PH_MODE = true → t.syn.slew = j * (1000 * agePerUs) ∧ t.isOn R.SYN_STAT_SLEW = decide (j ≠ 0)) ∧
      (s.isOn R.SYN_CTRL_PH_MODE = false → t.syn.slew = 0 ∧ t.boSum = signedOf 32 (unsignedOf 32 (r.slewFlush.boSum + j)))
    let now (n a : Nat) (t : State) := t.get R.SYN_STAT_STATE = n ∧ t.get R.SYN_STAT_ACTIVE = a
    let lost (t : State) := t.isOn (losFld i) = true ∧ t.isOn (validFld i) = false ∧ t.isOn (failFld i) = true;
    (i.val ≠ act ∨ st = 0 → Completes (.refLos i j) s (fun t => lost t ∧ now st act t ∧ RegsKept s t [0x709006])) ∧
    (i.val = act → st ≠ 0 → s.synHeld = false → auto → s.isOn (validFld o) = true →
      Completes (.refLos i j) s (fun t => lost t ∧ now 1 o t ∧ measured s j t)) ∧
    (i.val = act → st ≠ 0 → s.synHeld = false → ¬auto ∨ s.isOn (validFld o) = false →
      Completes (.refLos i j) s (fun t => lost t ∧ now 3 act t ∧
        ∀ c, s.syn.lkCval = some c → wordsValue t.rg 0x70901C 2 = c % 2 ^ 24)) ∧
    (i.val = act → st ≠ 0 → s.synHeld = true → Completes (.refLos i j) s (fun t => lost t ∧
      now (if st = 2 then 1 else st) (if s.swAuto && !s.isOn (losFld o) then o else act) t)) ∧
    Completes (.refReturn i) s (fun t => RegsKept s t [0x709005, 0x709006, 0x709020, 0x709021] ∧ t.flt = s.flt ∧
      t.isOn (losFld i) = false ∧ now (if i.val = act ∧ st = 3 then 4 else st) act t ∧
      t.syn.valFrom.getD i none = some s.clk.age ∧ t.syn.valGood.getD i 0 = 0) ∧
    (∀ f : Nat, s.synOfs = 0 → (s.valGoodWin i f = true ↔
      ((f : Int) - (s.fRef i * 1000 : Nat)).natAbs * 4000000 ≤ s.get R.SYN_REVAL_CFG_REF_TOL * (s.fRef i * 1000))) ∧
    (∀ (c : List Nat → Instr) (s' : State) (j' : Int),
      (c = (fun fs => Instr.refValid i j fs) ∧ s' = s ∧ j' = j) ∨ (c = (fun fs => Instr.revalDone j fs) ∧ s' = s ∧ j' = j ∧ i.val = act) ∨
        (c = (fun fs => Instr.refInvalid i fs) ∧ s' = { s with free := s.free + 1 } ∧ j' = signedOf 32 (Config.freeValue s.free)) →
      ∀ (fs : List Nat) (f x : Nat) (r : State), let u := s'.valWindows i j' fs
        u.syn.valFrom.getD i none = some x → u.refWatched i = true → s.clk.waking = [] → u.runAge (x + 1000 * agePerUs) = some r →
        let n := u.syn.valGood.getD i 0 + 1
        let ust := u.get R.SYN_STAT_STATE
        let uact := u.get R.SYN_STAT_ACTIVE
        let good := u.valGoodWin i f = true
        let valid := good ∧ s.get R.SYN_REVAL_CFG_REVAL ≤ n
        let engages := ust = 4 ∧ i.val = uact ∨ auto ∧ ust = 3 ∧ i.val ≠ uact ∧ u.isOn (losFld uact) = true;
        (valid → engages → Completes (c (fs ++ [f])) s (fun t => t.isOn (validFld i) = true ∧ now 1 i t ∧ measured r j' t)) ∧
        (valid → ¬engages → Completes (c (fs ++ [f])) s (fun t => t.isOn (validFld i) = true ∧ now ust uact t ∧
          (fs = [] → RegsKept s t [0x709006] ∧ t.flt = s.flt))) ∧
        (good → ¬valid → Completes (c (fs ++ [f])) s (fun t => t.regs = u.regs ∧ t.syn.valGood.getD i 0 = n)) ∧
        (¬good → Completes (c (fs ++ [f])) s (fun t => t.isOn (validFld i) = false ∧ t.isOn (failFld i) = true ∧ now ust uact t ∧
          t.syn.valGood.getD i 0 = 0 ∧ (fs = [] → RegsKept s t [0x709006] ∧
            (s.isOn (validFld i) = true → i.val ≠ act → RecordedNow s t 0x0708 i 0 none))))) ∧
    (∀ fs : List Nat, s.refWatched i = false ∨ s.syn.valFrom.getD i none = none →
      Completes (.refValid i j fs) s (fun t => t = s) ∧ (i.val = act → Completes (.revalDone j fs) s (fun t => t = s)) ∧
      Completes (.refInvalid i fs) s (fun t => t = { s with free := s.free + 1 })) ∧
    (let p := s.get R.SYN_CTRL_PREF
      let may := s.get R.SYN_CTRL_SW_MODE = 2 ∧ p ≠ act ∧ s.isOn (validFld p) = true ∧ s.synHeld = false ∧ (st = 1 ∨ st = 2);
      (∀ r : State, may → s.clk.waking = [] →
        s.runAge (s.syn.validAt.getD p 0 + s.get R.SYN_CTRL_REVERT * (1000000 * agePerUs)) = some r →
        Completes (.refRevert j) s (fun t => now st p t ∧ measured r j t ∧ t.clk = r.clk)) ∧
      (¬may → Completes (.refRevert j) s (fun t => t = s))) ∧
    (∀ m : Master, CanWrite s m 0x709004 →
      let ignored := st = 0 ∨ s.synHeld = true ∧ s.isOn (losFld o) = true ∨ s.synHeld = false ∧
        (s.isOn (validFld o) = false ∨ s.get R.SYN_CTRL_SW_MODE = 0 ∧ st ≠ 2);
      (¬ignored → s.synHeld = false → Completes (.switch m j) s (fun t => now (if st = 2 then 2 else 1) o t ∧ measured s j t)) ∧
      (¬ignored → s.synHeld = true → Completes (.switch m j) s (fun t => now (if st = 2 then 1 else st) o t)) ∧
      (ignored → Completes (.switch m j) s (fun t => t.isOn R.SYN_STAT_CMD_IGN = true ∧ OnlyRegs s t [0x709005])))

/-- R274, R286, R287, R289, R295, R296, R305 to R307, R583: an ALIGN slew begins; a frequency step is armed for the next tick
edge, or for the one after in the commit guard, and one beyond ±5 ppm is rejected; the ramp starts at segment 0. The internal
domains move to the limp oscillator when a check of the clock monitor fails or the synthesiser is disabled: dividers held,
settled no longer, and every gate that ran is closed at once. Only the sequencer's masters may disable: the boot ROM and debug. -/
def Obligations.SynthesiserCommands : Prop :=
  (
    ∀ (s : State) (m : Master) (v : Word), Settled s →
      (CanWrite s m 0x709004 →
        let idle := s.get R.SYN_STAT_STATE = 0 ∨ s.synHeld = true ∨ s.boSum = 0
        let runs := s.isOn R.SYN_STAT_SLEW = true;
        (¬idle → ¬runs → s.syn.slewSum = false → Completes (.alignNow m) s (fun t => RegsKept s t [0x709005] ∧
          t.isOn R.SYN_STAT_SLEW = true ∧ t.syn.slew = s.boSum * (1000 * agePerUs) ∧ t.syn.slewSum = true)) ∧
        (¬idle → runs → Completes (.alignNow m) s (fun t => RegsKept s t [] ∧
          t.syn = { s.syn with slewNext := s.syn.slewNext || !s.syn.slewSum })) ∧
        (idle → Completes (.alignNow m) s (fun t => t.syn = s.syn ∧ RegsKept s t []))) ∧
      (CanWrite s m 0x709019 → let x := signedOf 32 ((s.rg 0x709018).toNat + 65536 * v.toNat)
        let armed := some (x, s.isOn R.SYN_RAMP_CTRL_EN);
        (x.natAbs ≤ 5497558 → Completes (.fstepArm m v) s (fun t => RegsKept s t [0x709019] ∧ t.rg 0x709019 = v ∧
          (s.inGuard = false → t.syn = { s.syn with step := armed }) ∧
          (s.inGuard = true → t.syn = { s.syn with step := none, stepLate := armed }))) ∧
        (5497558 < x.natAbs → Completes (.fstepArm m v) s (fun t => Rejected s t 0x709019))) ∧
      (CanWrite s m 0x709024 → Completes (.rampStart m v) s (fun t => RegsKept s t [0x709024] ∧
        t.isOn R.SYN_RAMP_CTRL_EN = true ∧ t.get R.SYN_RAMP_CTRL_SEGS = v.toNat / 2048 % 8 ∧
        t.isOn R.SYN_RAMP_CTRL_LOOP = v.getLsbD 14 ∧
        (s.isOn R.SYN_RAMP_CTRL_EN = false → t.get R.SYN_RAMP_CTRL_SEG = 0 ∧ t.syn.rampCount = 0) ∧
        (s.isOn R.SYN_RAMP_CTRL_EN = true → t.get R.SYN_RAMP_CTRL_SEG = s.get R.SYN_RAMP_CTRL_SEG ∧ t.syn = s.syn)))) ∧
  (
    ∀ s : State, Settled s →
      let limped (t : State) := t.clk.limp = true ∧ t.synHeld = true ∧ t.settled = false ∧
        t.permit = false ∧ (s.clk.running = true → t.clk.tickLen = 200000) ∧
        ∀ n : Fin 16, t.gateState n ≠ 2 ∧ (s.gateState n = 2 → (t.gate n).opened = none);
      (∀ (cause : Fin 5) (n : Nat),
        let check := cause = 3 ∨ cause = 1 ∧ s.monitorFails true 2 n = true ∨ cause = 2 ∧ s.monitorFails false 2 n = true ∨
          cause = 4 ∧ (n = 0 ∨ s.monitorFails true 3 n = true ∨ s.monitorFails false 3 n = true)
        let begins := check ∧ s.isOn R.SYN_CMON_STAT_FAIL = false ∧ s.get R.SYN_STAT_STATE ≠ 0;
        (begins → Completes (.clockMonitorFailure cause n) s (fun t => (s.clk.limp = false → limped t) ∧
          t.clk.limp = true ∧ t.get R.SYN_STAT_STATE = 5 ∧
          t.isOn R.SYN_STAT_LIMP_STICKY = true ∧ t.isOn R.SYN_CMON_STAT_FAIL = true ∧ t.get R.SYN_CMON_STAT_CAUSE = cause)) ∧
        (¬begins → Completes (.clockMonitorFailure cause n) s (fun t => t = s))) ∧
      (∀ n : Nat, s.monitorFails false 2 n = true ↔ (∀ i : Fin 2, s.refQualifies i = false) ∧
        (n * 20000 * 20 < 805306368 * 19 ∨ 805306368 * 21 < n * 20000 * 20)) ∧
      (∀ n : Nat, s.synOfs = 0 → (s.monitorFails true 2 n = true ↔ ∃ i : Fin 2, s.refQualifies i = true ∧
        1024 * 491520000 < ((n * s.fRef i : Nat) - 1024 * 491520000 : Int).natAbs * 1000)) ∧
      (∀ (m : Master) (v : Word), CanWrite s m 0x709003 → v.toNat / 4096 % 4 ≠ 3 → v.toNat % 256 ≠ 0 →
        let high := m.val = 14 ∨ m.val = 15;
        (s.isOn R.SYN_CTRL_EN = true → high → Completes (.synDisable m v) s (fun t => t.isOn R.SYN_CTRL_EN = false ∧
          t.get R.SYN_STAT_STATE = 0 ∧ t.synHeld = true ∧ t.clk.limp = true ∧ (s.clk.limp = false → limped t))) ∧
        (s.isOn R.SYN_CTRL_EN = true → ¬high → Completes (.synDisable m v) s (fun t => Rejected s t 0x709003)) ∧
        (s.isOn R.SYN_CTRL_EN = false → Completes (.synDisable m v) s (fun t =>
          t.isOn R.SYN_CTRL_EN = false ∧ OnlyRegs s t [0x709003]))))

/-- R231, R233, R235, R236, R242, R243, R249: a discipline update counts for the tick, or in the commit guard for the next; a
planned coast is requested, or ignored while the time base coasts, or rejected above 20 ticks; a held offset is approved.
Coast entry, the end of a planned coast and a qualifying run, at a tick edge, and what each does to trust. -/
def Obligations.Discipline : Prop :=
  (
    ∀ (s : State) (m : Master) (v : Word), Settled s →
      (CanWrite s m 0x70700F → v.toNat / 16384 ≠ 3 → Completes (.disciplineUpdate m v) s (fun t => RegsKept s t [] ∧
        let u : Update := {
          qual := v.toNat / 16384, unc := v.toNat % 4096
          rate := if v.getLsbD 13 then some (signedOf 32 (wordsValue s.rg 0x70700A 2)) else none
          step := if v.getLsbD 12 then some (signedOf 48 (wordsValue s.rg 0x70700C 3)) else none }
        (s.inGuard = false → t.tb = { s.tb with upd := some u }) ∧
        (s.inGuard = true → t.tb = { s.tb with updLate := some u }))) ∧
      (CanWrite s m 0x70700F → v.toNat / 16384 = 3 → Completes (.disciplineUpdate m v) s (fun t => Rejected s t 0x70700F)) ∧
      (CanWrite s m 0x707003 → Legal s 0x707003 →
        (∀ n : Fin 32,
          (0 < n.val → n.val ≤ 20 → s.coasting = false → Completes (.plannedCoast m n) s (fun t =>
            RegsKept s t [] ∧ t.tb = { s.tb with pcReq := n.val })) ∧
          (0 < n.val → n.val ≤ 20 → s.coasting = true → Completes (.plannedCoast m n) s (fun t =>
            OnlyRegs s t [0x707010] ∧ t.isOn R.TB_STAT_PC_IGN = true)) ∧
          (n = 0 → Completes (.plannedCoast m n) s (fun t => OnlyRegs s t [])) ∧
          (20 < n.val → Completes (.plannedCoast m n) s (fun t => Rejected s t 0x707003))) ∧
        (∀ slew : Bool,
          (s.isOn R.TB_STAT_HOLD_WAIT = true → Completes (.approve m slew) s (fun t =>
            RegsKept s t [] ∧ t.tb = { s.tb with approve := if slew then 2 else 1 })) ∧
          (s.isOn R.TB_STAT_HOLD_WAIT = false → Completes (.approve m slew) s (fun t => RegsKept s t [] ∧ t.tb = s.tb))))) ∧
  (
    ∀ s : State, Settled s → let tr := s.get R.TB_STAT_TRUST
      let within := s.tb.limpPend = false ∧ (s.tb.taint = true ∨ s.tb.bound ≤ s.get R.TB_HOLD_LIMIT * boundPerNs)
      let moved (t : State) :=
        (tr = 0 ∨ tr = 4 → t.get R.TB_STAT_TRUST = tr) ∧ (tr = 1 → t.get R.TB_STAT_TRUST = 0) ∧
        (tr = 2 ∨ tr = 3 → (s.synLocked = true ∧ within → t.get R.TB_STAT_TRUST = 3 ∧ Recorded s t 0x0501 0xFF 0 none) ∧
          (s.synLocked = false → t.get R.TB_STAT_TRUST = 4 ∧ t.isOn R.TB_STAT_EXP_STICKY = true ∧ t.trusted = false))
      let enters := s.atEdge = true ∧ s.coasting = false ∧ s.get R.TB_STAT_MISS = 2
      let expires := s.atEdge = true ∧ s.isOn R.TB_STAT_PCOAST = true ∧ s.tb.pcLeft = 0
      let runs := s.atEdge = true ∧ s.get R.TB_ACQ_CFG_DISC_N * 100 ≤ s.tb.run ∧ s.isOn R.TB_STAT_STEP_PEND = false ∧
        s.isOn R.TB_STAT_HOLD_WAIT = false ∧ s.tbOffset.natAbs ≤ s.slewLimit ∧ (tr = 1 ∨ tr = 3 ∨ tr = 4);
      (enters → Completes .coastEntry s (fun t =>
        t.coasting = true ∧ moved t ∧ t.tb.coastTicks = 0 ∧ t.tb.c0 = s.get R.TB_TEMP_CODE)) ∧
      (¬enters → Completes .coastEntry s (fun t => t = s)) ∧
      (expires → s.coasting = true → Completes .plannedCoastExpiry s (fun t =>
        t.isOn R.TB_STAT_PCOAST = false ∧ t.coasting = true ∧ moved t)) ∧
      (¬expires → Completes .plannedCoastExpiry s (fun t => t = s)) ∧
      (runs → Completes .qualifyingRun s (fun t => t.get R.TB_STAT_TRUST = 2 ∧
        (s.coasting = true ∧ s.tb.rawCoast = true ∨ t.isOn R.TB_STAT_BOUND_V = true) ∧ t.flt = s.flt ∧
        RegsKept s t [0x707010, 0x707014, 0x707015, 0x707016, 0x707017, 0x707018])) ∧
      (¬runs → Completes .qualifyingRun s (fun t => t = s)))

/-- R247, R253, R255, R545: a step falls due at a second boundary and moves the time base; a leap second is made once, in the
shadow and the active words; fine calibration takes effect at a second boundary. -/
def Obligations.StepsAndLeaps : Prop :=
  ∀ s : State, Settled s → s.clk.waking = [] →
    let day := (2 : Int) ^ 48 * accPerSec
    let pends := s.isOn R.TB_STAT_STEP_PEND = true ∨ s.isOn R.SYS_SECSTEP_CTL_PEND = true
    let leap := [0x70701D, 0x707027, 0x707028, 0x707029, 0x70702A];
    (∀ r : State, s.toBoundary = some r → pends →
      let stepDue := s.isOn R.TB_STAT_STEP_PEND = true ∧ r.after100us s.tb.stepAt = true
      let secDue := s.isOn R.SYS_SECSTEP_CTL_PEND = true ∧ r.after100us s.tb.secAt = true
      let floor : Int := (r.clk.acc / accPerSec * accPerSec : Nat);
      (stepDue → Completes .step s (fun t =>
        (t.clk.acc : Int) = (floor + s.tb.offset * accPerSub + (if secDue then s.tb.sec else 0) * accPerSec) % day ∧
        t.isOn R.TB_STAT_STEP_PEND = false ∧ t.tb.offset = 0 ∧ (secDue → t.isOn R.SYS_SECSTEP_CTL_PEND = false) ∧
        (2 ≤ s.trust → RecordedNow s t 0x0505 0xFF (unsignedOf 32 (rdiv s.tb.offset 65536)) none))) ∧
      (secDue → ¬stepDue → Completes .step s (fun t => (t.clk.acc : Int) = (r.clk.acc + s.tb.sec * accPerSec) % day ∧
        t.isOn R.SYS_SECSTEP_CTL_PEND = false)) ∧
      (¬stepDue → ¬secDue → Completes .step s (fun t => t = r))) ∧
    (¬pends ∨ s.toBoundary = none → Completes .step s (fun t => t = s)) ∧
    (s.clk.acc % accPerSec < s.lastAdd → s.toBoundary = some s) ∧
    (∀ r : State, accPerSub ≤ s.perClk → s.lastAdd ≤ s.clk.acc % accPerSec → s.toBoundary = some r → s.nextSecond ≤ r.clk.acc ∧
      r.clk.acc < s.nextSecond + s.perClk + accPerSub) ∧
    (∀ (d : Int) (r : State), (s.act R.TB_LEAP_PEND = 1 ∧ d = 1 ∨ s.act R.TB_LEAP_PEND = 2 ∧ d = -1) →
      (s.clk.acc < s.leapAt ∧ s.runTo s.leapAt = some r ∨
        s.tb.stepped = none ∧ s.leapAt ≤ s.clk.acc ∧ s.clk.acc < s.leapAt + s.lastAdd ∧ r = s) → Completes .leapSecond s (fun t =>
        t.clk = r.clk ∧ (d = 1 → t.tb.inserted = some (r.clk.acc / accPerSec)) ∧
        ∀ (old new : Nat → Word), (old = s.rg ∧ new = t.rg ∨ old = s.actRg ∧ new = t.actRg) →
          ((new 0x70701D).toNat / 256 : Int) = (((old 0x70701D).toNat / 256 : Nat) + d) % 256 ∧
          (new 0x70701D).toNat / 64 % 4 = 0 ∧
          (wordsValue new 0x707027 2 : Int) = (wordsValue old 0x707027 2 - d) % 2 ^ 32 ∧
          (wordsValue new 0x707029 2 : Int) = (wordsValue old 0x707029 2 - d) % 2 ^ 32 ∧
          ∀ a, a ∉ leap → new a = old a)) ∧
    (s.act R.TB_LEAP_PEND ≠ 1 → s.act R.TB_LEAP_PEND ≠ 2 → Completes .leapSecond s (fun t => t = s)) ∧
    (∀ taps : Fin 128,
      (∀ r : State, s.clk.tbRun = true → s.toBoundary = some r → Completes (.fineCal taps) s (fun t =>
        OnlyRegs r t [0x708019] ∧ t.isOn R.TP_FINE_CAL_VALID = true ∧ t.get R.TP_FINE_CAL_TAPS = taps)) ∧
      (s.clk.tbRun = false ∨ s.toBoundary = none → Completes (.fineCal taps) s (fun t => t = s)))

/-- R247, R254, R255, R257, R258, R263 to R266, R584: a pulse of a running output begins on the last clock that is not after its
place, or is held back by SUPPRESS, or is skipped under the half-period rule; it ends at its width; a TOD message is sent with its
CRC. An enabled edge is stamped and enters the event FIFO, the edges of one clock in ascending input order, or is counted as lost
with one fault a spell; a read removes the oldest entry, and of an empty FIFO gives 0. -/
def Obligations.TimePulses : Prop :=
  (
    ∀ s : State, Settled s → s.clk.waking = [] → accPerSub ≤ s.perClk →
      (∀ n : Fin 4, let o := s.tpOut n
        let k := s.tpIndex n o.next
        let place := s.tpPlace n k
        let runs := s.tpOn n = true ∧ s.clk.limp = false ∧ s.clk.tbRun = true ∧ s.tp.stopped = false;
        (∀ (r : State) (x : Nat), runs → s.runBefore place 1000 = some (r, x) →
          (s.tpSuppressed n = false → r.tpTooSoon n x = false → Completes (.timePulse n) s (fun t => (t.tpOut n).active = true ∧
            (t.tpOut n).lead = some t.clk.age ∧ t.clk = r.clk ∧ (t.tpOut n).taps = s.fineTaps x ∧
            (s.tpCounts n = false → ((s.clk.acc * 1000 : Nat) : Int) ≤ place → 0 < s.tpPeriod n → (t.tpOut n).next = k + 1 ∧
              (o.skips = 0 → t.regs = (s.putB (tpStatBit 8 n) false).regs ∧ t.flt = s.flt)) ∧
            (o.skips ≠ 0 → RecordedNow s t 0x0601 n (min o.skips (2 ^ 32 - 1)) none))) ∧
          (s.tpSuppressed n = true → Completes (.timePulse n) s (fun t => (t.tpOut n).active = o.active ∧
            (t.tpOut n).next = k + 1 ∧ t.regs = (s.putB (tpStatBit 8 n) true).regs ∧ t.clk = r.clk)) ∧
          (s.tpSuppressed n = false → r.tpTooSoon n x = true → Completes (.timePulse n) s (fun t =>
            (t.tpOut n).active = o.active ∧ k + 1 ≤ (t.tpOut n).next ∧ o.skips < (t.tpOut n).skips ∧
            t.regs = (s.putB (tpStatBit 12 n) true).regs ∧ t.flt = s.flt)) ∧
          (((s.clk.acc * 1000 : Nat) : Int) ≤ place →
            ((r.clk.acc * 1000 : Nat) : Int) ≤ place ∧ place < ((r.clk.acc + s.perClk + accPerSub) * 1000 : Nat))) ∧
        (¬runs ∨ s.runBefore place 1000 = none → Completes (.timePulse n) s (fun t => t = s))) ∧
      (∀ n : Fin 5, let o := s.tpOut n;
        (∀ (r : State) (x : Nat), o.active = true → o.endAge = none → s.runBefore o.endAcc 1 = some (r, x) →
          Completes (.timePulseEnd n) s (fun t => (t.tpOut n).active = false ∧ t.regs = s.regs ∧ t.clk = r.clk ∧
            (s.clk.acc ≤ o.endAcc → t.clk.acc ≤ o.endAcc ∧ o.endAcc < t.clk.acc + s.perClk + accPerSub))) ∧
        (∀ x : Nat, o.active = true → o.endAge = some x →
          let k := ((x - s.clk.age) * fracPerAge + o.leadR) / (s.ageStep * fracPerAge)
          s.inTick k = true → Completes (.timePulseEnd n) s (fun t => (t.tpOut n).active = false ∧ t.regs = s.regs ∧
            t.clk = (s.elapse k).clk)) ∧
        (o.active = false → Completes (.timePulseEnd n) s (fun t => t = s))) ∧
      (let runs := s.act R.TP_TOD_CFG_EN = 1 ∧ s.clk.limp = false ∧ s.clk.tbRun = true ∧ s.tp.stopped = false
        let c := s.todSecond
        let k := s.act R.TP_TOD_CFG_SCALE
        let at_ := ((s.scaleSecond k c + s.act R.TP_TOD_CFG_START * 4000000) * accPerQuarter).toNat;
        (runs → (s.runTo at_).isSome = true → Completes .todMessage s (fun t => t.tp.todNext = some (c + 1) ∧
          t.tp.todSeq = (s.tp.todSeq + 1) % 65536 ∧ at_ ≤ t.clk.acc ∧ t.regs = s.regs ∧ t.todBit = some 0 ∧
          (s.pwr.stage = .running → t.todBall = false) ∧
          ∃ body, t.tp.todLast = [0x4B, 0x54] ++ body ++ leBytes 2 (crc16 body) ∧ body.length = 22 ∧
            body.take 4 = [0x01, 20, k, s.trust] ∧ (body.drop 6).take 6 = leBytes 6 (unsignedOf 48 (c + s.scaleSec k)))) ∧
        (¬runs ∨ s.runTo at_ = none → Completes .todMessage s (fun t => t = s)))) ∧
  (
    ∀ s : State, Settled s →
      (∀ (n : Fin 8) (falling : Bool) (ofs : Nat),
        let on := (s.rg 0x713003).getLsbD (8 + n) = true ∧ (s.rg 0x713003).getLsbD n = falling
        let depth := s.evt.fifo.length + s.evt.held.length
        let first := s.evt.lastAt ≠ s.clk.total
        let base := s.evt.fifo.length - (if s.evt.lastAt = s.clk.total then min s.evt.fresh s.evt.fifo.length else 0)
        let blind := s.evtBlind n ofs = true
        let detected (t : State) := t.evt.seen.getD n none = some (s.clk.age, ofs)
        let ordered (l : List (List Word)) := (l.drop base).Pairwise (fun a b => eventInput a ≤ eventInput b);
        (on → blind → Completes (.eventCapture n falling ofs) s (fun t => t = { s with free := s.free + 1 } ∨
          detected t ∧ (depth < 16 → t.evt.fifo.length = s.evt.fifo.length + 1) ∧
            (16 ≤ depth → t.get R.EVT_STAT_LOST = min 255 (s.get R.EVT_STAT_LOST + 1)))) ∧
        (on → ¬blind → depth < 16 → Completes (.eventCapture n falling ofs) s (fun t => detected t ∧ t.regs = s.regs ∧ t.flt = s.flt ∧
          t.evt.count = (s.evt.count + 1) % 2048 ∧ t.evt.fifo.length = s.evt.fifo.length + 1 ∧
          t.evt.fifo.take base = s.evt.fifo.take base ∧ (ordered s.evt.fifo → ordered t.evt.fifo) ∧
          (first → ∃ e : List Word, t.evt.fifo = s.evt.fifo ++ [e] ∧ e.length = 8 ∧
            e.head? = some (BitVec.ofNat 16 (0x8000 + n * 0x1000 + (if falling then 0x800 else 0) + s.evt.count % 2048)) ∧
            (e.getD 1 0).toNat = (s.tbSub + ofs) % 65536 ∧
            wordsValue (fun k => e.getD k 0) 2 2 = (s.tbSub + ofs) / 65536 % 1000000000 ∧
            e.getD 7 0 = BitVec.ofNat 16 s.clk.tickCount))) ∧
        (on → ¬blind → 16 ≤ depth → Completes (.eventCapture n falling ofs) s (fun t => detected t ∧
          OnlyRegs { s with evt := t.evt, flt := t.flt } t [0x713004] ∧ t.evt.fifo.length = s.evt.fifo.length ∧
          (first → t.evt.fifo = s.evt.fifo) ∧
          t.isOn R.EVT_STAT_OVF = true ∧ t.get R.EVT_STAT_LOST = min 255 (s.get R.EVT_STAT_LOST + 1) ∧ t.evt.spell = true ∧
          (s.evt.spell = false → Recorded s t 0x0610 0xFF 0 none) ∧ (s.evt.spell = true → t.flt = s.flt))) ∧
        (¬on → Completes (.eventCapture n falling ofs) s (fun t => t = s))) ∧
      (∀ m : Master, CanRead s m 0x713008 → (m.val ≠ 10 ∨ s.host.open_ = false) → s.evt.held = [] →
        (s.evt.fifo = [] → Completes (.evtFifoRead m) s (fun t => t.readData = 0 ∧ t.evt.fifo = [] ∧ t.regs = s.regs)) ∧
        (∀ (e : List Word) (rest : List (List Word)), s.evt.fifo = e :: rest → Completes (.evtFifoRead m) s (fun t =>
          t.readData = e.headD 0 ∧ t.evt.fifo = rest ∧ t.evt.held = [] ∧ t.evt.spell = false ∧ t.regs = s.regs ∧
          ∀ u : State, Settled u → u.evt = t.evt → CanRead u m 0x713009 → ∀ k : Fin 7,
            Completes (.shadowRead m (BitVec.ofNat 24 (0x713009 + k))) u (fun w => w.readData = e.getD (k + 1) 0)))))

/-- R51, R302, R306 to R310, R312: ARM, DISABLE and CLOSE_NOW; a command that its gate's state does not take is ignored and
named. A boundary lets a gate run only with Transmit Permit; an edge of the schedule opens and closes it; the transmit timeout
trips it; an arming that waits too long is given up; a burst is over at its close and at its timeout, whatever follows. -/
def Obligations.Gates : Prop :=
  (
    ∀ (s : State) (m : Master) (n : Fin 16), Settled s → CanWrite s m 0x70A005 → let st := s.gateState n
      let pend := s.isOn (R.SLC_GATE_STAT_DIS_PEND n)
      let others (t : State) := ∀ k : Fin 16, k ≠ n → t.gate k = s.gate k ∧ t.gateState k = s.gateState k
      let ignored (t : State) (c : Nat) := OnlyRegs s t [R.SLC_CMD_STAT_CMD.gwa] ∧ t.isOn R.SLC_CMD_STAT_CMD_IGN = true ∧
        t.get R.SLC_CMD_STAT_CMD = c ∧ t.get R.SLC_CMD_STAT_GATE = n
      let shut (t : State) := others t ∧ t.gateState n = 0 ∧ (t.gate n).opened = none ∧ t.gateBall n = false
      let stopped := s.slc.stopped = true ∨ s.slc.scrapped = true
      let tripsNow := s.gateTripIn n = some 0 ∧ s.gateTrips n = true;
      (stopped ∨ ¬(st = 0 ∨ st = 4 ∨ st = 2 ∧ pend = true) → Completes (.arm m n) s (fun t => ignored t 1)) ∧
      (¬stopped → st = 0 ∨ st = 4 → Completes (.arm m n) s (fun t => others t ∧ t.gateState n = 1 ∧
        (t.gate n).armEnd = s.clk.age + s.get R.SLC_ARM_TIMEOUT_TIMEOUT * (1000 * agePerUs))) ∧
      (¬stopped → st = 2 → pend = true → Completes (.arm m n) s (fun t => others t ∧ t.gate n = s.gate n ∧
        t.gateState n = 2 ∧ t.isOn (R.SLC_GATE_STAT_DIS_PEND n) = false)) ∧
      (st = 1 ∨ st = 3 → Completes (.disable m n) s (fun t => others t ∧ t.gateState n = 0)) ∧
      (st = 2 → pend = false → Completes (.disable m n) s (fun t => others t ∧ t.gate n = s.gate n ∧
        t.gateState n = 2 ∧ t.isOn (R.SLC_GATE_STAT_DIS_PEND n) = true)) ∧
      (¬(st = 1 ∨ st = 3 ∨ st = 2 ∧ pend = false) → Completes (.disable m n) s (fun t => ignored t 2)) ∧
      (st = 0 → Completes (.closeNow m n) s (fun t => ignored t 3)) ∧
      (st = 1 ∨ st = 3 → Completes (.closeNow m n) s shut) ∧
      (st = 2 → ¬tripsNow → Completes (.closeNow m n) s shut) ∧
      (st = 2 → tripsNow → Completes (.closeNow m n) s (fun t => others t ∧ t.gateState n = 4 ∧ (t.gate n).opened = none ∧
        t.isOn (R.SLC_GATE_STAT_TRIP n) = true ∧ Recorded s t 0x0804 n 0 none)) ∧
      (st = 4 → (s.gate n).tripAt ≠ some s.clk.total → Completes (.closeNow m n) s shut) ∧
      (st = 4 → (s.gate n).tripAt = some s.clk.total → Completes (.closeNow m n) s (fun t => RegsKept s t [] ∧ t.slc = s.slc))) ∧
  (
    ∀ (s : State) (n : Fin 16), Settled s → s.clk.waking = [] → let g := s.gate n
      let st := s.gateState n
      let b := s.gateBound n;
      (∀ r : State, g.closeAt = none → s.clk.tbRun = true → s.runTo (b * accPerNs) = some r →
        let v := (s.pass (r.clk.total - s.clk.total)).gateActivate n
        let stands := gateNext v.active n b = b
        let sv := v.gateState n
        let pend := v.isOn (R.SLC_GATE_STAT_DIS_PEND n)
        let stopped := s.slc.stopped = true ∨ s.slc.scrapped = true
        let acted (t : State) := t.clk = v.clk ∧ (t.gate n).opened = none ∧ (t.gate n).from_ = b + 1
        let runs := sv = 2 ∧ pend = false ∨ sv = 3 ∨ sv = 1 ∧ v.clk.age ≤ g.armEnd;
        (accPerSub ≤ s.perClk → b * accPerNs ≤ v.clk.acc) ∧
        (stands → stopped → Completes (.gateBoundary n) s (fun t => acted t ∧ t.gateState n = 0)) ∧
        (stands → ¬stopped → sv = 2 → pend = true → Completes (.gateBoundary n) s (fun t => acted t ∧ t.gateState n = 0)) ∧
        (stands → ¬stopped → s.permit = true → runs → Completes (.gateBoundary n) s (fun t => acted t ∧ t.gateState n = 2 ∧
          (t.gate n).frame = some b ∧ (t.gate n).edge = 0)) ∧
        (stands → ¬stopped → s.permit = false → sv = 2 → pend = false → Completes (.gateBoundary n) s (fun t => acted t ∧
          t.gateState n = if v.isOn (R.SLC_GATE_CFG_RESUME n) then 3 else 0)) ∧
        (stands → ¬stopped → s.permit = false → sv = 1 ∨ sv = 3 → Completes (.gateBoundary n) s (fun t => acted t ∧
          t.gateState n = sv)) ∧
        (stands → ¬stopped → sv = 0 ∨ sv = 4 ∨ sv = 1 ∧ s.permit = true ∧ g.armEnd < v.clk.age →
          Completes (.gateBoundary n) s (fun t => acted t ∧ t.gateState n = sv)) ∧
        (¬stands → Completes (.gateBoundary n) s (fun t => t.clk = v.clk ∧ (t.gate n).opened = none ∧
          (t.gate n).frame = none ∧ (t.gate n).from_ = b ∧ t.gateState n = sv))) ∧
      (g.closeAt ≠ none ∨ s.clk.tbRun = false ∨ s.runTo (b * accPerNs) = none →
        Completes (.gateBoundary n) s (fun t => t = s)) ∧
      (let k := (s.gateCloseIn n).toNat
        let closes := s.inTick k = true ∧ s.gateTrips n = false
        let closed (t : State) := t.clk = (s.elapse k).clk ∧ (t.gate n).opened = none ∧ t.gateBall n = false ∧ t.regs = s.regs;
        (∀ f : Nat, st = 2 → g.closeAt = none → g.frame = some f → g.edge < gateEdges s.active n →
          (∀ r : State, g.edge % 2 = 0 → s.runTo (s.gateTarget n f g.edge) = some r → Completes (.gateEdge n) s (fun t =>
            t.clk = r.clk ∧ (accPerSub ≤ s.perClk → s.gateTarget n f g.edge ≤ t.clk.acc) ∧ (t.gate n).opened = some t.clk.total ∧
            (t.gate n).edge = g.edge + 1 ∧
            (t.gate n).limit = (s.get (R.SLC_GATE_TMO_TIMEOUT n) * 49152 + 99) / 100 ∧ t.regs = s.regs)) ∧
          (g.edge % 2 = 0 → s.runTo (s.gateTarget n f g.edge) = none → Completes (.gateEdge n) s (fun t => t = s)) ∧
          (g.edge % 2 = 1 → closes → Completes (.gateEdge n) s (fun t => closed t ∧ (t.gate n).edge = g.edge + 1)) ∧
          (g.edge % 2 = 1 → ¬closes → Completes (.gateEdge n) s (fun t => t = s))) ∧
        (∀ x : Nat, st = 2 → g.closeAt = some x →
          (closes → Completes (.gateEdge n) s (fun t => closed t ∧ k = x - s.clk.total ∧ (t.gate n).from_ = t.tbNsUp)) ∧
          (¬closes → Completes (.gateEdge n) s (fun t => t = s))) ∧
        (st ≠ 2 → Completes (.gateEdge n) s (fun t => t = s))) ∧
      (let k := ((s.gateTripIn n).getD 0).toNat
        let trips := st = 2 ∧ s.gateTrips n = true ∧ s.inTick k = true;
        (trips → Completes (.gateTrip n) s (fun t => t.clk = (s.elapse k).clk ∧ t.gateState n = 4 ∧ (t.gate n).opened = none ∧
          t.isOn (R.SLC_GATE_STAT_TRIP n) = true ∧ t.gateBall n = false ∧ RecordedNow s t 0x0804 n 0 none)) ∧
        (¬trips → Completes (.gateTrip n) s (fun t => t = s))) ∧
      (let k := (g.armEnd - s.clk.age + s.ageStep - 1) / s.ageStep
        let first := s.permit = true ∧ s.clk.tbRun = true ∧ b * accPerNs ≤ s.clk.acc + s.advanced k ∧ s.slc.stopped = false ∧
          s.slc.scrapped = false ∧ g.waiting = none
        let ends := st = 1 ∧ s.inTick k = true ∧ ¬first;
        (ends → Completes (.armTimeout n) s (fun t => t.gateState n = 0 ∧ t.clk = (s.elapse k).clk ∧ g.armEnd ≤ t.clk.age ∧
          RecordedNow s t 0x0803 n 0 none)) ∧
        (¬ends → Completes (.armTimeout n) s (fun t => t = s))) ∧
      (∀ k : Nat, accPerSub ≤ s.perClk → s.gateEndIn n ≤ k → (s.elapse k).gateBall n = false))
/-- R346, R349, R352, R354, R414, R357: RESTART releases a halted engine and does nothing to another; BRK, which JTAG debug
raises only where it has access, waits until it is taken, precisely in a quiet cycle and imprecisely after 64; a semaphore is claimed by the first read and released only by its
owner. That JTAG debug raises BRK past the tables is the model's reading (log entry 105). -/
def Obligations.EngineControl : Prop :=
  ∀ (s : State), Settled s →
    (∀ (m : Master) (e : Fin 8), let others (t : State) := (∀ k : Fin 8, k ≠ e → t.eng k = s.eng k) ∧ t.mem = s.mem
      let halted := s.isOn (R.SYS_ENG_STAT_HALTED e)
      let raised (t : State) := RegsKept s t [] ∧ t.eng e = { s.eng e with brk := true } ∧ others t;
      (CanWrite s m (0x700020 + e) → halted = false → Completes (.restart m e) s (fun t => OnlyRegs s t [])) ∧
      (CanWrite s m (0x700020 + e) → halted = true → Completes (.restart m e) s (fun t => others t ∧
          t.eng e = (s.eng e).released ∧ t.isOn (R.SYS_ENG_STAT_HALTED e) = false ∧
          (t.eng e).issuing = true ∧ (t.eng e).pc = 0 ∧ (t.eng e).st = 0x4000 ∧ (t.eng e).lk = 0 ∧ (t.eng e).lkT = 0 ∧
          (∀ k, (t.eng e).wr k = 0 ∧ (t.eng e).ar k = 0 ∧ (t.eng e).xr k = 0 ∧ (t.eng e).mr k = 0 ∧ (t.eng e).br k = 0 ∧
            (t.eng e).lr k = 0 ∧ (t.eng e).lcr k = 0 ∧ (t.eng e).pr k = decide (k = 0)) ∧
          (t.eng e).loc = (s.eng e).loc ∧ (t.eng e).imem = (s.eng e).imem ∧
          RegsKept s t [0x700028 + e, 0x70B006] ∧ t.isOn ⟨0x70B006, 8 + e, 8 + e⟩ = false)) ∧
      (m.val ≠ 15 → CanWrite s m (0x700020 + e) → Completes (.brk m e) s raised) ∧
      (m.val = 15 → s.live = true → s.jtagNone = false → Completes (.brk m e) s raised) ∧
      (m.val = 15 → s.live = false ∨ s.jtagNone = true → Completes (.brk m e) s (fun t => t = s))) ∧
    (∀ (e : Fin 8) (brk : Bool), let g := s.eng e
      let tc := if brk then 7 else 5
      let due := g.issuing = true ∧ g.tm = false ∧ (if brk then g.brk else g.clkTrap) = true
      let busy := g.fly ≠ [] ∨ g.inSlot = true
      let entered (t : State) := (∀ k : Fin 8, k ≠ e → t.eng k = s.eng k) ∧ t.mem = s.mem ∧
        (t.eng e).pc = 8 * tc ∧ (t.eng e).tm = true ∧ bitsOf (t.eng e).st.toNat 10 8 = tc ∧
        (t.eng e).fly = [] ∧ (if brk then (t.eng e).brk else (t.eng e).clkTrap) = false ∧ (t.eng e).w = g.w ∧
        t.get (R.SYS_ENG_STAT_LAST_TC e) = tc;
      (due → Quiet g → Completes (.asyncTrap e brk) s (fun t => entered t ∧ (t.eng e).lkT.toNat = g.pc % 32768 ∧
        t.flt = s.flt)) ∧
      (due → busy → 64 ≤ g.asyncWait → Completes (.asyncTrap e brk) s (fun t => entered t ∧
        (t.eng e).lkT.toNat = g.pc % 32768 + 32768 ∧ t.isOn (R.SYS_ENG_STAT_IMP e) = true ∧
        Recorded s t 0x0904 e (g.pc % 32768 + 32768) none)) ∧
      (¬due ∨ busy ∧ g.asyncWait < 64 → Completes (.asyncTrap e brk) s (fun t => t = s))) ∧
    (∀ (m : Master) (n : Fin 32), let held := s.isOn (R.SYS_SEM_HELD n)
      let own := s.get (R.SYS_SEM_OWNER n);
      (s.host.open_ = false → CanRead s m (0x700040 + n) → s.evt.held = [] →
        (held = true → Completes (.semRead m n) s (fun t => t.readData = BitVec.ofNat 16 (0x4000 + own) ∧ RegsKept s t [])) ∧
        (held = false → Completes (.semRead m n) s (fun t => t.readData = BitVec.ofNat 16 (0xC000 + m) ∧
          RegsKept s t [0x700040 + n] ∧ t.isOn (R.SYS_SEM_HELD n) = true ∧ t.get (R.SYS_SEM_OWNER n) = m))) ∧
      (CanWrite s m (0x700040 + n) →
        (held = true → own = m → Completes (.semRelease m n) s (fun t => OnlyRegs s t [0x700040 + n] ∧
          t.isOn (R.SYS_SEM_HELD n) = false ∧ t.get (R.SYS_SEM_OWNER n) = 0)) ∧
        (held = false ∨ own ≠ m → Completes (.semRelease m n) s (fun t => OnlyRegs s t []))))

/-- R405, R407, R410 to R413, R553: a placement is made once a tick, after the Weir decision, of runnable tasks that Weir allows;
a placed task is entered when its blocks have landed, 12 cycles after the last, with its number and the tick count in W0 and W1
and its slots in X0 to X3, and a LOOP task waits for its record until the record post is over; a SPAN task that has touched more
ticks than SPAN_MAX is abandoned at the edge. -/
def Obligations.Tasks : Prop :=
  ∀ s : State, Settled s → s.clk.waking = [] →
    (let back (n : Nat) : Nat := s.clk.tickLen - (491520 - n)
      let u := s.elapse (back 485376 - s.clk.phase)
      let inTime := s.clk.running = true ∧ s.clk.phase ≤ back 491263;
      (inTime → s.weir.next ≠ none → s.plc.plan = none → Completes .placement s (fun t => t.mem = s.mem ∧ t.clk = u.clk ∧
        t.plc.plan.isSome = true ∧
        (s.switchSoon = true → t.engs = s.engs ∧ t.regs = s.regs ∧ ∀ p, t.plc.plan = some p → ∀ q ∈ p.queues, q = []) ∧
        (∀ e : Fin 8, ∃ k, t.eng e = { s.eng e with idle := k }) ∧
        ∀ p, t.plc.plan = some p → ∀ q ∈ p.queues, ∀ x ∈ q, s.runnable x = true ∧ s.taskOn x = true)) ∧
      (inTime → s.weir.next = none ∨ s.plc.plan ≠ none → Completes .placement s (fun t => t = u)) ∧
      (¬inTime → Completes .placement s (fun t => t = s))) ∧
    (∀ e : Fin 8, let g := s.eng e
      let free := g.issuing = false ∧ s.isOn (R.SYS_ENG_STAT_HALTED e) = false ∧
        bitOf (s.get R.WEIR_STAT_ENG_POWERED) e = true
      let ready (x : Nat) := s.isLoop x = false ∨ s.recordReady (s.get (R.TASK_CHAN x)) = true;
      (∀ (skipped : List Nat) (x : Fin 240) (rest : List Nat), free → g.queue = skipped ++ x.val :: rest →
        (∀ y ∈ skipped, ¬ready y) → skipped = [] ∨ s.postOver = true → ready x →
        let k := s.landed x - s.clk.phase;
        (s.inTick k = true → Completes (.taskEntry e) s (fun t => t.regs = s.regs ∧ t.mem = s.mem ∧ t.clk = (s.elapse k).clk ∧
          (∀ j : Fin 8, j ≠ e → t.eng j = s.eng j) ∧ (∀ y ∈ skipped, (t.taskSt y).outcome = 4) ∧
          (t.eng e).issuing = true ∧ (t.eng e).task = some x.val ∧ (t.eng e).queue = rest ∧
          (t.eng e).pc = s.get (R.TASK_ENTRY x) ∧ (t.eng e).wr 0 = BitVec.ofNat 16 x ∧
          (t.eng e).wr 1 = BitVec.ofNat 16 s.clk.tickCount ∧ (t.eng e).tm = false ∧ NoLoops (t.eng e) ∧
          (∀ j : Fin 8, (t.eng e).pr j = decide (j = 0)) ∧
          (∀ (b : Fin 4) (i : Fin 64), g.slots.getD i none = some (x.val, b.val) →
            (∀ j < i.val, g.slots.getD j none ≠ some (x.val, b.val)) → (t.eng e).xr b = 0x4000 + i * 0x100))) ∧
        (skipped = [] → s.inTick k = false → Completes (.taskEntry e) s (fun t => t = s))) ∧
      (∀ (x : Nat) (rest : List Nat), free → g.queue = x :: rest → ¬ready x → s.postOver = false →
        Completes (.taskEntry e) s (fun t => t = s)) ∧
      (free → s.postOver = true → (∀ y ∈ g.queue, ¬ready y) → Completes (.taskEntry e) s (fun t => t.regs = s.regs ∧
        t.clk = s.clk ∧ (t.eng e).issuing = false ∧ (t.eng e).queue = [] ∧ ∀ y ∈ g.queue, (t.taskSt y).outcome = 4)) ∧
      (¬free → Completes (.taskEntry e) s (fun t => t = s)) ∧
      (∀ x : Fin 240, let over_ := s.atEdge = true ∧ s.spanOn e = some x.val ∧ s.act (R.TASK_SPAN_MAX x) < g.ticks;
        (over_ → Completes (.spanOverrun e) s (fun t => (t.eng e).issuing = false ∧
          (t.eng e).task = none ∧ (t.taskSt x).outcome = 2 ∧ t.get (R.TASK_OUTCOME x) = 2 ∧ t.isOn R.PLC_STAT_SPAN_OVR = true ∧
          t.clk = s.clk ∧ (∀ j : Fin 8, j ≠ e → t.eng j = s.eng j) ∧ Recorded s t 0x0A04 e x none)) ∧
        (s.spanOn e = some x.val → ¬over_ → Completes (.spanOverrun e) s (fun t => t = s)) ∧
        (s.spanOn e = none → Completes (.spanOverrun e) s (fun t => t = s))))

/-- R407, R419 to R425: Weir decides once a tick, in its phase, and shows the power it saw; over the cap it raises the level,
fault 0x0B01, unless no higher level sheds work; it lowers only when its conditions have held; units are powered down at an edge
and woken one by one. -/
def Obligations.Weir : Prop :=
  ∀ s : State, Settled s → s.clk.waking = [] → let l := s.get R.WEIR_LEVEL_LEVEL
    let back (n : Nat) : Nat := s.clk.tickLen - (491520 - n)
    let inTime := s.clk.running = true ∧ s.clk.phase ≤ back 485375
    let at_ (n : Nat) : State := s.elapse (back n - s.clk.phase);
    (∀ (p : Fin 65536) (sens : List Int),
      (inTime → s.weir.next = none → Completes (.weirDecision p sens) s (fun t =>
        t.clk = (at_ 483328).clk ∧ t.get R.WEIR_P_EST_P = p ∧ t.weir.next.isSome = true ∧
        t.get R.WEIR_LEVEL_LEVEL = l ∧ t.isOn R.WEIR_STAT_OVER_P = decide (s.weirCap < p) ∧
        (∀ k, t.weir.next = some k → l ≤ k) ∧
        (l < 9 → s.weirCap < p → (∃ k, l < k ∧ k ≤ 9 ∧ s.workPresent k = true) →
          ∃ k, t.weir.next = some k ∧ l < k ∧ t.isOn R.WEIR_STAT_RAISED = true))) ∧
      (inTime → s.weir.next ≠ none → Completes (.weirDecision p sens) s (fun t => t = at_ 483328)) ∧
      (¬inTime → Completes (.weirDecision p sens) s (fun t => t = s))) ∧
    (let ok := s.clk.limp = false ∧ 100 * s.get R.WEIR_HOLD_RECOVER ≤ s.weir.recover ∧ s.weir.next = some l ∧
        s.get R.WEIR_LEVEL_MIN_LEVEL < l;
      (inTime → ok → Completes .weirLower s (fun t => t.clk = (at_ 484352).clk ∧ t.isOn R.WEIR_STAT_LOWERED = true ∧
        RegsKept s t [R.WEIR_STAT_LOWERED.gwa, 0x70C008] ∧
        ∃ k, t.weir.next = some k ∧ k < l ∧ s.get R.WEIR_LEVEL_MIN_LEVEL ≤ k)) ∧
      (inTime → ¬ok → Completes .weirLower s (fun t => t = at_ 484352)) ∧
      (¬inTime → Completes .weirLower s (fun t => t = s))) ∧
    (∀ u : Fin 20, let may := s.atEdge = true ∧ s.mayGate u = true;
      (may → Completes (.unitPowerDown u) s (fun t => t.isOn (powerFld u) = false ∧ t.clk = s.clk ∧
        (8 ≤ u.val → OnlyRegs s t [(powerFld u).gwa]) ∧ (u.val < 8 → ∀ k : Fin 64, (t.eng u).slots.getD k none = none))) ∧
      (¬may → Completes (.unitPowerDown u) s (fun t => t = s))) ∧
    (let k := s.clk.nextWake - s.clk.total
      let asked := (List.range 20).find? s.wakeAsked;
      (∀ u, asked = some u → s.inTick k = true → Completes .unitWake s (fun t =>
        let at_ := max s.clk.total s.clk.nextWake
        t.clk = { (s.elapse k).clk with waking := [(u, at_ + 512)], nextWake := at_ + (if u < 16 then 1024 else 2048) } ∧
          t.regs = s.regs)) ∧
      (asked = none ∨ s.inTick k = false → Completes .unitWake s (fun t => t = s)))
/-- R434 to R436, R440 to R443: a corrected word is written back; the scrubber reads on word by word, one read every 2^SCRUB_RATE
clocks, with correction, counts and reports, and skips what is closed; the background test borrows a slice, gives it back with
fresh check bits, and reports a march that fails. -/
def Obligations.MemoryCare : Prop :=
  ∀ s : State, Settled s → s.clk.waking = [] →
    (s.memSt.writeBack = [] → Completes .eccWriteback s (fun t => t = s)) ∧
    (∀ (a : Nat) (l : List Nat), s.memSt.writeBack = a :: l → Completes .eccWriteback s (fun t =>
      t = { s with memSt := t.memSt } ∧ t.memSt.writeBack = l ∧ t.flipAt a = none ∧ ∀ b, b ≠ a → t.flipAt b = s.flipAt b)) ∧
    (∀ u : List Upset, Completes (.scrub u) s (fun t => exec (.scrub []) (s.upsets u) = .next t) ∧
      ∀ h x : Bool, Completes (.testSlice h x u) s (fun t => exec (.testSlice h x []) (s.upsets u) = .next t)) ∧
    (let k := s.memSt.scrubAt + 2 ^ s.get R.MEM_ECC_CFG_SCRUB_RATE - s.clk.total
      let due := k = 0 ∨ s.inTick k = true
      let clk := if k = 0 then s.clk else (s.elapse k).clk
      let p := s.scrubPos
      let off := s.isOn R.MEM_ECC_CFG_SCRUB_EN = false ∨ s.live = false
      let waits := ∃ n, s.memSt.borrowed = some n ∧ p < 0x300000 ∧ sliceOf p = n
      let wiped := s.isOn R.MEM_SS_STAT_WIPING = true ∨ s.isOn R.MEM_SS_STAT_FAIL = true
      let shut := 0x600000 ≤ p ∧ s.bwOpen = false ∨ 0x620000 ≤ p ∧ wiped
      let read (t : State) (a : Nat) := t.mem = s.mem ∧ t.clk = clk ∧ t.memSt.scrubAt = t.clk.total ∧
        (s.flipAt a = none → RegsKept s t [0x70D008, 0x70D009, 0x70D00A] ∧
          t.memSt = { s.memSt with scrubAt := t.clk.total } ∧ t.flt = s.flt) ∧
        ∀ f : Flip, s.flipAt a = some f →
          (f.bits = 1 → f.poison = false → a ∈ t.memSt.writeBack ∧ t.isOn R.MEM_ECC_STAT_CE = true ∧
            t.get R.MEM_ECC_STAT_CE_CNT = min 255 (s.get R.MEM_ECC_STAT_CE_CNT + 1) ∧ wordsValue t.rg 0x70D005 2 = a ∧
            t.isOn R.MEM_ECC_INFO_UE = false ∧ t.get R.MEM_ECC_INFO_MASTER = 13) ∧
          (2 ≤ f.bits ∨ f.poison = true → t.isOn R.MEM_ECC_STAT_UE = true ∧ wordsValue t.rg 0x70D005 2 = a ∧
            t.get R.MEM_ECC_STAT_UE_CNT = min 63 (s.get R.MEM_ECC_STAT_UE_CNT + 1) ∧ t.isOn R.MEM_ECC_INFO_UE = true ∧
            t.get R.MEM_ECC_INFO_MASTER = 13 ∧ RecordedNow s t 0x0C02 0xFF a (some 13))
      let moved (t : State) (q n : Nat) := wordsValue t.rg 0x70D008 2 = q ∧
        t.get R.MEM_SCRUB_PASS_PASSES = (s.get R.MEM_SCRUB_PASS_PASSES + n) % 65536;
      (¬due → Completes (.scrub []) s (fun t => t = s)) ∧
      (due → off ∨ waits → Completes (.scrub []) s (fun t => t.regs = s.regs ∧ t.mem = s.mem ∧ t.flt = s.flt ∧ t.clk = clk ∧
        t.memSt = { s.memSt with scrubAt := t.clk.total })) ∧
      (due → ¬off → ¬waits → ¬shut → p < 0x300000 ∨ 0x600000 ≤ p ∧ p < 0x624000 →
        Completes (.scrub []) s (fun t => read t p ∧
          moved t (if p = 0x2FFFFF then 0x600000 else if p = 0x623FFF then 0x100000 else p + 1) (if p = 0x623FFF then 1 else 0))) ∧
      (due → ¬off → shut → Completes (.scrub []) s (fun t => read t 0x100000 ∧ moved t 0x100001 1))) ∧
    (∀ n : Nat, s.memSt.borrowed = some n → n < 7680 →
      let given (t : State) := t.mem = s.mem ∧ t.memSt.borrowed = none ∧
        t.isOn R.MEM_TEST_STAT_BUSY = false ∧ t.get R.MEM_TEST_POS_SLICE = (n + 1) % 7680 ∧
        (∀ a, 0x100000 + n * 0x100 ≤ a → a < 0x100000 + (n + 1) * 0x100 → t.flipAt a = none);
      Completes (.testSlice true false []) s (fun t => t = s) ∧
      Completes (.testSlice false true []) s (fun t => given t ∧ t.isOn R.MEM_TEST_STAT_FAIL = true ∧
        t.get R.MEM_TEST_FAIL_SLICE = n ∧ Recorded s t 0x0C05 0xFF n none) ∧
      Completes (.testSlice false false []) s (fun t => given t ∧ t.flt = s.flt ∧
        t.isOn R.MEM_TEST_STAT_FAIL = s.isOn R.MEM_TEST_STAT_FAIL)) ∧
    (s.memSt.borrowed = none → s.isOn R.MEM_TEST_CFG_EN = true → s.memSt.testDue = true →
      s.get R.MEM_TEST_POS_SLICE < 7680 → s.sliceExcluded (s.get R.MEM_TEST_POS_SLICE) = false → s.memSt.flips = [] →
      Completes (.testSlice true false []) s (fun t => t.isOn R.MEM_TEST_STAT_BUSY = true ∧ t.mem = s.mem ∧
        t.memSt.borrowed = some (s.get R.MEM_TEST_POS_SLICE) ∧ t.memSt.testDue = false)) ∧
    (s.memSt.borrowed = none → s.isOn R.MEM_TEST_CFG_EN = false ∨ s.memSt.testDue = false →
      ∀ h x : Bool, Completes (.testSlice h x []) s (fun t => t = s))

/-- R444, R445, R447, R448, R514: the retained memories are closed by RETAIN and opened by RESUME while VDD_RET is in range; a
wipe writes every word of the secure store with 0 at once, and its verification reports. Where the store refuses (R444, R447,
R448, R512), a read gives 0 and a write changes no word. -/
def Obligations.RetainedMemories : Prop :=
  ∀ s : State, Settled s →
    (∀ m : Master, CanWrite s m 0x70D030 →
      Completes (.retain m) s (fun t => RegsKept s t [0x70D031] ∧ t.mem = s.mem ∧ t.isOn R.MEM_BW_STAT_RETAINED = true ∧
        t.bwOpen = false) ∧
      Completes (.resume m) s (fun t => OnlyRegs s t [0x70D031] ∧ t.isOn R.MEM_BW_STAT_RETAINED =
        (s.isOn R.MEM_BW_STAT_RETAINED && !s.pwr.rails.getD 2 false))) ∧
    (s.pwr.rails.getD 2 false = true → s.live = true → Completes .bwReady s (fun t => RegsKept s t [0x70D031] ∧ t.mem = s.mem ∧
      t.isOn R.MEM_BW_STAT_READY = true)) ∧
    (s.pwr.rails.getD 2 false = false ∨ s.live = false → Completes .bwReady s (fun t => t = s)) ∧
    (∀ m : Master, CanWrite s m 0x70D033 →
      (s.isOn R.MEM_SS_STAT_WIPING = true → Completes (.wipe m) s (fun t => OnlyRegs s t [])) ∧
      (s.isOn R.MEM_SS_STAT_WIPING = false → Completes (.wipe m) s (fun t => RegsKept s t [0x70D034] ∧
        t.isOn R.MEM_SS_STAT_WIPING = true ∧ t.memSt.wipeCause = 3 ∧
        ∀ a, t.memGet a = if 0x620000 ≤ a ∧ a < 0x624000 then 0 else s.memGet a))) ∧
    (s.live = true → (s.bwOpen = false ∨ s.isOn R.MEM_SS_STAT_WIPING = true ∨ s.isOn R.MEM_SS_STAT_FAIL = true ∨ 3 ≤ s.lc) →
      ∀ (m : Master) (a : Gwa) (v : Word), 0x620000 ≤ a.toNat → a.toNat < 0x624000 → NoneWaits s m →
        Completes (.shadowRead m a) s (fun t => t.readData = 0 ∧ t.mem = s.mem) ∧
        Completes (.registerWrite m a v) s (fun t => t.mem = s.mem ∧ t.readData = s.readData)) ∧
    (s.isOn R.MEM_SS_STAT_WIPING = true → let busy := s.isOn R.LCS_STAT_LC_BUSY
      let again := s.memSt.wipeAgain;
      Completes (.wipeDone true) s (fun t => t.isOn R.MEM_SS_STAT_WIPING = false ∧ t.isOn R.MEM_SS_STAT_WIPED = true ∧
        t.get R.MEM_SS_STAT_CAUSE = s.memSt.wipeCause % 4 ∧
        t.get R.MEM_SS_STAT_COUNT = (s.get R.MEM_SS_STAT_COUNT + 1) % 256 ∧ t.mem = s.mem ∧ RegsKept s t [0x70D034] ∧
        (busy = true → t.lcs.burning = true)) ∧
      (again = false → Completes (.wipeDone false) s (fun t => t.mem = s.mem ∧
        t.memSt = { s.memSt with wipeAgain := true } ∧ RegsKept s t [])) ∧
      (again = true → Completes (.wipeDone false) s (fun t => t.mem = s.mem ∧
        t.isOn R.MEM_SS_STAT_WIPING = false ∧ t.isOn R.MEM_SS_STAT_FAIL = true ∧
        (busy = false → Recorded s t 0x0C08 0xFF 0 none) ∧
        (busy = true → s.lcs.burning = false → t.isOn R.LCS_STAT_LC_BUSY = false)))) ∧
    (s.isOn R.MEM_SS_STAT_WIPING = false → ∀ ok, Completes (.wipeDone ok) s (fun t => t = s))

/-- R457, R561 to R567: a lock bit set stays set, and a write to a locked entry is refused with fault 0x0C0B; a fault raised by
software is entered in the ring, or counted as lost when the ring is full; POP frees the oldest; PEND bits are cleared. -/
def Obligations.LocksAndFaultRing : Prop :=
  ∀ (s : State) (m : Master), Settled s →
    (∀ (k : Fin 4) (bits : Word), CanWrite s m (0x70E010 + k) → Completes (.accLock m k bits) s (fun t =>
      OnlyRegs s t [0x70E010 + k] ∧ t.rg (0x70E010 + k) = s.rg (0x70E010 + k) ||| bits)) ∧
    (∀ (x : Fin 64) (row : Fin 3) (v : Word), let a := 0x70E081 + 0x80 * row.val + x.val
      CanWrite s m a → (s.rg (0x70E010 + x / 16)).getLsbD (x % 16) = true →
      Completes (.registerWrite m (BitVec.ofNat 24 a) v) s (fun t => RegsKept s t [0x70E002] ∧
        t.isOn R.ACC_CFG_REJ_LOCK_W = true ∧ Recorded s t 0x0C0B x a (some m.val))) ∧
    (∀ v : Word, CanWrite s m 0x712004 → let n := v.toNat % 128;
      (n = 0 ∨ 64 < n ∨ s.flt.depth < n → Completes (.fltPop m v) s (fun t => Rejected s t 0x712004)) ∧
      (0 < n → n ≤ 64 → n ≤ s.flt.depth → Completes (.fltPop m v) s (fun t => RegsKept s t [] ∧
        t.flt = { s.flt with rd := (s.flt.rd + n) % 64, depth := s.flt.depth - n }))) ∧
    (CanWrite s m 0x712013 → let code := s.get R.FLT_SW_0_CODE
      let arg := wordsValue s.rg 0x712011 2;
      (code < 0x80 → Completes (.fltSwGo m) s (fun t => Rejected s t 0x712013)) ∧
      (0x80 ≤ code → Completes (.fltSwGo m) s (fun t => RegsKept s t [] ∧
          Recorded s t (0x0900 + code) (s.get R.FLT_SW_0_UNIT) arg (some m) ∧
          (s.flt.depth < 64 → RingBounded s → t.flt.depth = s.flt.depth + 1 ∧ t.flt.ovf = s.flt.ovf ∧
            ∀ k < 8, wmGet 0 t.flt.ring (faultSlot ((s.flt.rd + s.flt.depth) % 64) + k) =
              (faultWords (s.faultEvent (0x0900 + code) (s.get R.FLT_SW_0_UNIT) arg (some m)) s.flt.seq).getD k 0) ∧
          (s.flt.depth = 64 → t.flt.depth = 64 ∧ t.flt.ring = s.flt.ring ∧ t.flt.ovf = true ∧
            t.flt.lostCnt = min (s.flt.lostCnt + 1) 65535 ∧ t.flt.lost.testBit 8 = true) ∧
          t.flt.pend.testBit 8 = true ∧ t.flt.seq = (s.flt.seq + 1) % 65536))) ∧
    (∀ (i : Fin 2) (v : Word), CanWrite s m (0x712008 + i) → Completes (.fltPendClear m i v) s (fun t =>
      RegsKept s t [0x712008 + i] ∧ t.mem = s.mem ∧ t.flt = { s.flt with pend := t.flt.pend } ∧
      ∀ j, t.flt.pend.testBit j = (s.flt.pend.testBit j && !(decide (16 * i ≤ j) && v.getLsbD (j - 16 * i)))))

/-- R465 to R468, R473: frames of the register mode: a write frame acts when it is accepted and not otherwise; a read frame
drives its words, and a count that its reading clears is cleared only when the frame is accepted; a frame the select does not
see changes nothing. R470 to R472: frames of the raw word mode: a record that fits is stored behind the last and passed; one
that does not fit is refused as FULL; a bad control word is refused as CTRL; a read frame gives what the ring holds, zeros
after it, and passes what it gave. -/
def Obligations.HostFrames : Prop :=
  (
    ∀ (s : State) (n : Fin 2), Settled s →
      (s.selectSees n false = false → ∀ off ws k late bits both, Completes (.hostWriteFrame n off ws bits both) s (fun t => t = s) ∧
        Completes (.hostReadFrame n off k late bits both) s (fun t => t = s)) ∧
      (s.selectSees n false = true → s.crcOn n = false → s.host.rc = [] → s.host.claims = [] → s.evt.held = [] →
        let rejected (t : State) (c : Nat) := t.get (R.HP_REJ_INFO_CAUSE n) = c ∧
          t.get (R.HP_STAT_REJ_CNT n) = min 255 (s.get (R.HP_STAT_REJ_CNT n) + 1) ∧
          t.get (R.HP_FRAMES_COUNT n) = s.get (R.HP_FRAMES_COUNT n) ∧ t.mem = s.mem ∧
          (s.host.rejSeen.getD n false = false → Recorded s t 0x0D01 n c none) ∧ t.host.lastOk.getD n true = false;
        (∀ (off : BitVec 7) (w : Word), off ≠ 0 →
          let a := BitVec.ofNat 24 (s.pageBase n + off.toNat)
          Completes (.hostWriteFrame n off [w] 0 false) s (fun t => ∃ u, exec (.registerWrite 10 a w) s = .next u ∧
            t.mem = u.mem ∧ t.engs = u.engs ∧ RegsKept u t [0x70F00A + n] ∧
            t.get (R.HP_FRAMES_COUNT n) = (u.get (R.HP_FRAMES_COUNT n) + 1) % 65536)) ∧
        (∀ w : Word, Completes (.hostWriteFrame n 0 [w] 0 false) s (fun t => RegsKept s t [0x70F00A + n, 0x70F00C + n] ∧
          t.get (R.HP_PAGE_PAGE n) = w.toNat ∧ t.get (R.HP_FRAMES_COUNT n) = (s.get (R.HP_FRAMES_COUNT n) + 1) % 65536)) ∧
        (∀ (off : BitVec 7) (ws : List Word) (bits : Fin 16), bits ≠ 0 → ws.length ≤ 257 →
          Completes (.hostWriteFrame n off ws bits false) s (fun t => rejected t 1 ∧
            RegsKept s t [0x70F006 + n, 0x70F008 + n] ∧ t.get (R.HP_REJ_INFO_WORDS n) = ws.length)) ∧
        (s.pageBase n = 0x712000 → CanRead s 10 0x712006 → s.shadowOf 10 0x712006 = none → s.flt.lostCnt < 65536 →
          let k := s.waits n + 1
          Completes (.hostReadFrame n 6 k [] 0 false) s (fun t => t.host.out.getLast? = some (BitVec.ofNat 16 s.flt.lostCnt) ∧
            t.flt = { s.flt with lostCnt := 0 } ∧ t.mem = s.mem ∧ RegsKept s t [0x70F00A + n] ∧
            t.get (R.HP_FRAMES_COUNT n) = (s.get (R.HP_FRAMES_COUNT n) + 1) % 65536) ∧
          ∀ bits : Fin 16, bits ≠ 0 → Completes (.hostReadFrame n 6 k [] bits false) s (fun t => rejected t 1 ∧
            (s.flt.depth < 64 → t.flt.lostCnt = s.flt.lostCnt))))) ∧
  (
    ∀ (s : State) (n : Fin 2), Settled s → s.crcOn n = false → s.host.rc = [] → s.host.claims = [] → s.evt.held = [] →
      s.start.phase ≠ .host → s.start.frozen = none → s.memSt.flips = [] → s.memSt.borrowed = none →
      (∀ b, b = 30 ∨ b = 31 → s.allowed 10 b .write = true ∧ s.allowed 10 b .read = true) →
      let ib := 0x2E0000 + s.get (R.HP_RAW_IN_CFG_BASE n) * 1024
      let iz := (s.get (R.HP_RAW_IN_CFG_SIZE n) + 1) * 1024
      let ob := 0x2E0000 + s.get (R.HP_RAW_OUT_CFG_BASE n) * 1024
      let oz := (s.get (R.HP_RAW_OUT_CFG_SIZE n) + 1) * 1024
      let wr := s.get (R.HP_RAW_IN_WR_V n)
      let free := (s.get (R.HP_RAW_IN_RD_V n) + 2 * iz - wr % iz - 1) % iz;
      (s.selectSees n true = false → ∀ res len ws k bits both, Completes (.rawWriteFrame n res len ws bits both) s (fun t => t = s) ∧
        Completes (.rawReadFrame n res len k bits both) s (fun t => t = s)) ∧
      (s.selectSees n true = true → ib + iz ≤ 0x300000 → ob + oz ≤ 0x300000 →
        (∀ (len : BitVec 12) (ws : List Word), len ≠ 0 → ws.length = len.toNat → len.toNat + 1 ≤ free →
          Completes (.rawWriteFrame n 0 len ws 0 false) s (fun t => t.get (R.HP_RAW_IN_WR_V n) = (wr + len.toNat + 1) % iz ∧
            t.get (R.HP_FRAMES_COUNT n) = (s.get (R.HP_FRAMES_COUNT n) + 1) % 65536 ∧ t.isOn (R.HP_STAT_FULL n) = false ∧
            t.memGet (ib + wr % iz) = BitVec.ofNat 16 len.toNat ∧
            ∀ k < len.toNat, t.memGet (ib + (wr + 1 + k) % iz) = ws.getD k 0)) ∧
        (∀ (len : BitVec 12) (ws : List Word), len ≠ 0 → free < len.toNat + 1 →
          Completes (.rawWriteFrame n 0 len ws 0 false) s (fun t => t.get (R.HP_RAW_IN_WR_V n) = wr ∧ t.mem = s.mem ∧
            t.isOn (R.HP_STAT_FULL n) = true ∧ t.get (R.HP_REJ_INFO_CAUSE n) = 6)) ∧
        (∀ (res : BitVec 3) (len : BitVec 12) (ws : List Word), res ≠ 0 ∨ len = 0 →
          Completes (.rawWriteFrame n res len ws 0 false) s (fun t => t.get (R.HP_RAW_IN_WR_V n) = wr ∧ t.mem = s.mem ∧
            t.get (R.HP_REJ_INFO_CAUSE n) = 7)) ∧
        (∀ len : BitVec 12, len ≠ 0 → 1 ≤ s.drivenWaits n →
          let rd := s.get (R.HP_RAW_OUT_RD_V n)
          let avail := min len.toNat ((s.get (R.HP_RAW_OUT_WR_V n) + oz - rd % oz) % oz)
          Completes (.rawReadFrame n 0 len (s.waits n + len.toNat) 0 false) s (fun t =>
            t.host.out.drop (s.drivenWaits n) = (List.range avail).map (fun i => s.memGet (ob + (rd + i) % oz))
              ++ List.replicate (len.toNat - avail) 0 ∧
            t.get (R.HP_RAW_OUT_RD_V n) = (rd + avail) % oz ∧ t.mem = s.mem ∧
            t.get (R.HP_FRAMES_COUNT n) = (s.get (R.HP_FRAMES_COUNT n) + 1) % 65536))))

/-- R478, R480 to R484: the window of the flash: a read gives the flash's word, or waits while the port is busy, or is refused
while the window is off or the block fails its check; the gather buffer is flushed after 64 idle clocks or by command, with a
write enable and a page program; programming clears bits only; a program that fails changes no other word. -/
def Obligations.FlashWindow : Prop :=
  ∀ s : State, Settled s → s.clk.waking = [] →
    (∀ (m : Master) (w : BitVec 23), s.live = true → s.allowed m 38 .read = true → NoneWaits s m → s.evt.held = [] →
      let b := w.toNat / 256
      let hit := b ∈ s.flash.lines
      let checked := s.isOn R.FP_CTRL_CHECK = true ∧ s.crcTableBlock b = false
      let buffered := s.flash.words.find? (fun e => e.1 == w.toNat)
      let on := s.isOn R.FP_CTRL_XIP_EN = true
      let off := ¬on;
      (off → Completes (.xipFetch m w) s (fun t => t.readData = 0 ∧ t.regs = s.regs ∧
        (s.flash.offSeen = false → Recorded s t 0x0E06 0xFF (2 * w.toNat) none))) ∧
      (∀ e, on → buffered = some e → Completes (.xipFetch m w) s (fun t => t = { s with readData := e.2 })) ∧
      (on → buffered = none → hit → Completes (.xipFetch m w) s (fun t => t.readData = s.flashWord w.toNat ∧ t.regs = s.regs ∧ t.flt = s.flt)) ∧
      (on → buffered = none → ¬hit → s.flashBusy = true → Completes (.xipFetch m w) s (fun t => t = { s with readData := 0 })) ∧
      (on → buffered = none → ¬hit → s.flashBusy = false → ¬checked ∨ s.blockGood b = true → Completes (.xipFetch m w) s (fun t =>
        t.readData = s.flashWord w.toNat ∧ t.flash.lines.head? = some b ∧ t.flash.sent = s.fetchFrames b ∧ t.regs = s.regs ∧
        t.flt = s.flt)) ∧
      (on → buffered = none → ¬hit → s.flashBusy = false → checked → s.blockGood b = false → Completes (.xipFetch m w) s (fun t =>
        t.readData = 0 ∧ b ∉ t.flash.lines ∧ t.isOn R.FP_STAT_CRC_ERR = true ∧ Recorded s t 0x0E03 0xFF (512 * b) none))) ∧
    (let fmt := s.rg 0x710005
      let frames := [s.flashFrame fmt (s.get R.FP_OPC_1_WREN) none [] 0,
        s.flashFrame fmt (s.get R.FP_OPC_0_PP) (some s.gatherFirst) s.gatherBytes 0]
      let flushed (t : State) := t.flash = { s.flash with prog := some t.clk.age, aborted := false, sent := frames }
      let idle := s.runClocks (s.flash.wroteAt + 64);
      (∀ r : State, s.flash.gather ≠ none → s.flash.prog = none → idle = some r → Completes .gatherFlush s (fun t =>
        flushed t ∧ t.clk = r.clk ∧ s.flash.wroteAt + 64 ≤ t.clk.total ∧ t.regs = s.regs)) ∧
      (s.flash.gather = none ∨ idle = none → Completes .gatherFlush s (fun t => t = s)) ∧
      (∀ r : State, s.flash.prog ≠ none → s.flash.gather ≠ none → idle = some r → Completes .gatherFlush s (fun t => t = r)) ∧
      (s.flash.gather ≠ none → s.flash.prog = none → ∀ m : Master, CanWrite s m 0x71000E → Completes (.xipFlush m) s (fun t =>
        RegsKept s t [] ∧ t.clk = s.clk ∧ flushed t))) ∧
    (s.flash.prog = none → Completes .progDone s (fun t => t = s) ∧ ∀ wel, Completes (.progTimeout wel) s (fun t => t = s)) ∧
    (∀ x : Nat, s.flash.prog = some x → let due := x + s.progTicks;
      (due ≤ s.clk.age → Completes .progDone s (fun t => t = s)) ∧
      (s.clk.age < due → s.flash.cmdWait = true → Completes .progDone s (fun t => t.flash.prog = none ∧ t.flash.cmdWait = false)) ∧
      (s.runAge due = none → Completes (.progTimeout true) s (fun t => t = s)) ∧
      (s.flash.cmdWait = false → (s.flash.words.map (·.1)).Nodup →
        let ended (t : State) := t.flash.prog = none ∧ t.flash.gather = none ∧ t.flash.words = [] ∧
          ∀ a, a ∉ s.flash.words.map (·.1) → t.flashWord a = s.flashWord a
        let result (e : Nat × Word) : Word := if s.flash.aborted then s.flashWord e.1 else s.flashWord e.1 &&& e.2
        let bad := s.isOn R.FP_CTRL_VERIFY = true ∧ ∃ e ∈ s.flash.words, result e ≠ e.2
        let programmed (t : State) := ended t ∧ ∀ e ∈ s.flash.words, t.flashWord e.1 = result e;
        (s.clk.age < due → bad → Completes .progDone s (fun t => programmed t ∧ t.isOn R.FP_STAT_VFY_ERR = true ∧
          Recorded s t 0x0E04 0xFF s.gatherFirst none)) ∧
        (s.clk.age < due → ¬bad → Completes .progDone s (fun t => programmed t ∧ t.flt = s.flt ∧ t.regs = s.regs)) ∧
        Completes (.progTimeout false) s (fun t => ended t ∧ t.flash.cells = s.flash.cells ∧ t.isOn R.FP_STAT_TMO = true ∧
          RegsKept s t [R.FP_STAT.gwa] ∧ Recorded s t 0x0E02 0xFF s.gatherFirst none) ∧
        (∀ r : State, s.runAge due = some r → Completes (.progTimeout true) s (fun t => ended t ∧
          t.isOn R.FP_STAT_TMO = true ∧ t.clk = r.clk ∧ due ≤ t.clk.age ∧
          (∀ e ∈ s.flash.words, t.flashWord e.1 &&& s.flashWord e.1 = t.flashWord e.1) ∧
          RecordedNow s t 0x0E02 0xFF s.gatherFirst none))))

/-- R483, R487: a command frame is ignored while the port is busy, and waits for the gather buffer's flush; a read frame gives the
flash's bytes in order; a write frame makes its changes at once, or at the end of its poll, and a poll that lasts too long is
given up. -/
def Obligations.FlashCommands : Prop :=
  ∀ s : State, Settled s → s.clk.waking = [] →
    (∀ (m : Master) (v : Word) (rx : List (BitVec 8)) (change : List (BitVec 31 × Word)), CanWrite s m 0x710010 →
      v.getLsbD 15 = true → (change.map (·.1)).Nodup → let busy := s.flashBusy = true
      let n := s.get R.FP_CMD_LEN_LEN
      let free := ¬busy ∧ s.flash.gather = none;
      (busy → Completes (.cmdFrame m v rx change) s (fun t =>
        t.isOn R.FP_STAT_CMD_IGN = true ∧ t.flash = s.flash ∧ RegsKept s t [0x710010, R.FP_STAT.gwa])) ∧
      (¬busy → s.flash.gather ≠ none → Completes (.cmdFrame m v rx change) s (fun t =>
        t.flash.prog = some s.clk.age ∧ t.flash.cmdWait = true ∧ t.flash.cells = s.flash.cells ∧ RegsKept s t [0x710010])) ∧
      (free → v.getLsbD 14 = true → n ≤ rx.length → n ≤ 128 → Completes (.cmdFrame m v rx change) s (fun t =>
        t.flash.cells = s.flash.cells ∧ t.flash.lines = s.flash.lines ∧ t.flashBusy = false ∧
        ∀ i < n, t.get ⟨0x710081 + i / 2, 8 * (i % 2) + 7, 8 * (i % 2)⟩ = (rx.getD i 0).toNat)) ∧
      (free → v.getLsbD 14 = false → v.getLsbD 13 = true → Completes (.cmdFrame m v rx change) s (fun t =>
        t.flash.lines = [] ∧ RegsKept s t [0x710010] ∧ t.flash.cmd = some s.clk.age ∧ t.flash.cells = s.flash.cells ∧
        t.flash.sent = t.cmdFrames)) ∧
      (free → v.getLsbD 14 = false → v.getLsbD 13 = false → Completes (.cmdFrame m v rx change) s (fun t =>
        t.flash.lines = [] ∧ RegsKept s t [0x710010] ∧ t.flashBusy = false ∧ t.flash.sent = t.cmdFrames ∧
        (∀ e ∈ change, t.flashWord e.1.toNat = e.2) ∧
        ∀ a, a ∉ change.map (·.1.toNat) → t.flashWord a = s.flashWord a))) ∧
    (s.flash.cmd = none → Completes .cmdFrameDone s (fun t => t = s) ∧ Completes .cmdTimeout s (fun t => t = s)) ∧
    (∀ x : Nat, s.flash.cmd = some x → let due := x + s.get R.FP_CMD_TMO_TMO * (1000 * agePerUs);
      (s.clk.age < due → (s.flash.frame.change.map (·.1)).Nodup →
        Completes .cmdFrameDone s (fun t => t = { s with flash := t.flash } ∧ t.flash.cmd = none ∧
          (∀ e ∈ s.flash.frame.change, t.flashWord e.1 = e.2) ∧
          ∀ a, a ∉ s.flash.frame.change.map (·.1) → t.flashWord a = s.flashWord a)) ∧
      (due ≤ s.clk.age → Completes .cmdFrameDone s (fun t => t = s)) ∧
      (∀ r : State, s.runAge due = some r → Completes .cmdTimeout s (fun t => t.flash.cmd = none ∧ t.clk = r.clk ∧
        due ≤ t.clk.age ∧ RegsKept s t [R.FP_STAT.gwa] ∧ t.isOn R.FP_STAT_TMO = true ∧
        RecordedNow s t 0x0E01 0xFF s.cmdAddr none ∧
        ∀ a, a ∉ s.flash.frame.change.map (·.1) → t.flashWord a = s.flashWord a)) ∧
      (s.runAge due = none → Completes .cmdTimeout s (fun t => t = s)))
end

