-- ==== Sys2Proof/Laws/Arith.lean ====
section
/-!
SUPPORT. Laws of engine arithmetic: the model's numbers against bit vectors (R337 to R340, R361 to R363, R381 to R384).
-/

namespace Sys2Proof.Machine

theorem signedOf_toInt {n : Nat} (x : BitVec n) (h : 0 < n) : signedOf n x.toNat = x.toInt := by
  unfold signedOf
  have hx : x.toNat % 2 ^ n = x.toNat := Nat.mod_eq_of_lt x.isLt
  have hp : 2 ^ n = 2 * 2 ^ (n - 1) := by rw [← Nat.pow_succ']; congr 1; omega
  rw [BitVec.toInt_eq_toNat_cond]
  simp only [hx]
  split <;> split <;> omega

theorem sw_eq (x : Word) : sw x = x.toInt := signedOf_toInt x (by decide)
theorem sa_eq (x : BitVec 40) : sa x = x.toInt := signedOf_toInt x (by decide)

theorem ofNat_unsignedOf (n : Nat) (x : Int) : BitVec.ofNat n (unsignedOf n x) = BitVec.ofInt n x := by
  apply BitVec.eq_of_toNat_eq
  simp only [unsignedOf, BitVec.toNat_ofNat, BitVec.toNat_ofInt]
  have h : 0 ≤ x % ((2 ^ n : Nat) : Int) := Int.emod_nonneg _ (by have := Nat.two_pow_pos n; omega)
  have h2 : x % ((2 ^ n : Nat) : Int) < ((2 ^ n : Nat) : Int) := Int.emod_lt_of_pos _ (by have := Nat.two_pow_pos n; omega)
  apply Nat.mod_eq_of_lt
  omega

/-- A result placed in a word (R338). -/
theorem placeIn_16 (sat : Bool) (x : Int) :
    BitVec.ofNat 16 (placeIn 16 sat x).val = Safety.fitWord sat x ∧ (placeIn 16 sat x).v = Safety.outOfWord x ∧
      (placeIn 16 sat x).ss = (sat && Safety.outOfWord x) := by
  unfold placeIn Safety.fitWord Safety.outOfWord
  dsimp only
  by_cases h : (-(2 ^ (16 - 1)) : Int) ≤ x ∧ x < 2 ^ (16 - 1)
  · rw [if_pos h]
    have h2 : (decide (x < -32768) || decide (32767 < x)) = false := by
      simp only [Bool.or_eq_false_iff, decide_eq_false_iff_not]; omega
    simp only [h2, Bool.and_false, ofNat_unsignedOf]
    exact ⟨by simp, trivial, trivial⟩
  · rw [if_neg h]
    have h2 : (decide (x < -32768) || decide (32767 < x)) = true := by
      simp only [Bool.or_eq_true, decide_eq_true_eq]; omega
    cases sat
    · simp only [h2, Bool.false_and, Bool.false_eq_true, if_false, ofNat_unsignedOf]
      exact ⟨trivial, trivial, trivial⟩
    · simp only [h2, Bool.true_and, if_true]
      refine ⟨?_, trivial, trivial⟩
      split <;> rfl

theorem bitOf_getLsbD {n : Nat} (x : BitVec n) (k : Nat) : bitOf x.toNat k = x.getLsbD k := by
  unfold bitOf BitVec.getLsbD
  rw [Nat.testBit_eq_decide_div_mod_eq]
  rfl

theorem stSat_eq (st : Word) : stSat st = st.getLsbD 14 := bitOf_getLsbD ..
theorem stC_eq (st : Word) : stC st = st.getLsbD 1 := bitOf_getLsbD ..
theorem stFrac_eq (st : Word) : stFrac st = st.getLsbD 13 := bitOf_getLsbD ..

end Sys2Proof.Machine
end

