-- ==== Sys2Proof/Laws/Map.lean ====
section
/-!
SUPPORT. Laws of sparse maps and of lists used as arrays: what a read gives after a write, and that the canonical form is
kept.
-/

namespace Sys2Proof.Machine

/-! ### Reads after writes -/

theorem wmFind_wmDrop (k j : Nat) (m : WMap) : wmFind j (wmDrop k m) = if j = k then none else wmFind j m := by
  induction m with
  | nil => simp [wmDrop, wmFind]
  | cons e t ih =>
    obtain ⟨a, v⟩ := e
    have hd : wmDrop k ((a, v) :: t) = if a = k then wmDrop k t else (a, v) :: wmDrop k t := by
      by_cases h : a = k <;> simp [wmDrop, h]
    rw [hd]
    by_cases h : a = k
    · subst h
      by_cases hj : j = a
      · subst hj; simpa using ih
      · simp [wmFind, ih, hj]
    · by_cases hj : j = k
      · subst hj
        have : j ≠ a := fun e => h e.symm
        simp [wmFind, h, this, ih]
      · simp [wmFind, h, hj, ih]

theorem wmFind_wmInsert (k : Nat) (v : Word) (j : Nat) (m : WMap) (h : wmFind k m = none) :
    wmFind j (wmInsert k v m) = if j = k then some v else wmFind j m := by
  induction m with
  | nil => by_cases hj : j = k <;> simp [wmInsert, wmFind, hj]
  | cons e t ih =>
    obtain ⟨a, w⟩ := e
    have ha : k ≠ a := by intro e; subst e; simp [wmFind] at h
    have ht : wmFind k t = none := by simpa [wmFind, ha] using h
    by_cases hk : k < a
    · by_cases hj : j = k <;> simp [wmInsert, wmFind, hk, hj]
    · by_cases hj : j = k
      · subst hj; simp [wmInsert, hk, wmFind, ha, ih ht]
      · simp [wmInsert, hk, wmFind, hj, ih ht]

/-- A read after a write of a sparse map. -/
theorem wmGet_wmPut (d d' v : Word) (k j : Nat) (m : WMap) (h : j = k → d' = d) :
    wmGet d' (wmPut d k v m) j = if j = k then v else wmGet d' m j := by
  unfold wmGet wmPut
  by_cases hv : v = d
  · rw [if_pos hv, wmFind_wmDrop]
    by_cases hj : j = k
    · simp [hj, h hj, hv]
    · simp [hj]
  · rw [if_neg hv, wmFind_wmInsert _ _ _ _ (by simp [wmFind_wmDrop]), wmFind_wmDrop]
    by_cases hj : j = k <;> simp [hj]

@[simp] theorem wmGet_nil (d : Word) (k : Nat) : wmGet d [] k = d := rfl

/-! ### The canonical form -/

theorem wmRising_cons {j : Nat} {w : Word} {t : WMap} :
    wmRising ((j, w) :: t) = true ↔ (∀ e ∈ t, j < e.1) ∧ wmRising t = true := by
  induction t generalizing j w with
  | nil => simp [wmRising]
  | cons e t ih =>
    obtain ⟨k, x⟩ := e
    simp only [wmRising, Bool.and_eq_true, decide_eq_true_eq, ih, List.mem_cons]
    constructor
    · rintro ⟨h, h1, h2⟩
      refine ⟨?_, h1, h2⟩
      rintro e (rfl | he)
      · exact h
      · exact Nat.lt_trans h (h1 e he)
    · rintro ⟨h, h1, h2⟩
      exact ⟨h (k, x) (Or.inl rfl), h1, h2⟩

theorem wmRising_filter (p : Nat × Word → Bool) {m : WMap} (h : wmRising m = true) : wmRising (m.filter p) = true := by
  induction m with
  | nil => rfl
  | cons e t ih =>
    obtain ⟨j, w⟩ := e
    obtain ⟨h1, h2⟩ := wmRising_cons.mp h
    by_cases hp : p (j, w) = true
    · rw [List.filter_cons_of_pos hp, wmRising_cons]
      exact ⟨fun e he => h1 e (List.mem_filter.mp he).1, ih h2⟩
    · rw [List.filter_cons_of_neg hp]; exact ih h2

/-- What is listed after a filter was listed before. -/
theorem wmWf_filter (d : Nat → Word) (p : Nat × Word → Bool) {m : WMap} (h : wmWf d m = true) :
    wmWf d (m.filter p) = true := by
  simp only [wmWf, Bool.and_eq_true] at h ⊢
  refine ⟨wmRising_filter p h.1, ?_⟩
  rw [List.all_eq_true] at h ⊢
  exact fun e he => h.2 e (List.mem_filter.mp he).1

theorem wmRising_wmInsert (k : Nat) (v : Word) {m : WMap} (hk : ∀ e ∈ m, e.1 ≠ k) (h : wmRising m = true) :
    wmRising (wmInsert k v m) = true ∧ ∀ e ∈ wmInsert k v m, e = (k, v) ∨ e ∈ m := by
  induction m with
  | nil => simp [wmInsert, wmRising]
  | cons e t ih =>
    obtain ⟨j, w⟩ := e
    obtain ⟨h1, h2⟩ := wmRising_cons.mp h
    obtain ⟨i1, i2⟩ := ih (fun e he => hk e (List.mem_cons_of_mem _ he)) h2
    by_cases hkj : k < j
    · simp only [wmInsert, hkj, if_true]
      refine ⟨wmRising_cons.mpr ⟨?_, h⟩, by simp⟩
      intro e he
      rcases List.mem_cons.mp he with rfl | he
      · exact hkj
      · exact Nat.lt_trans hkj (h1 e he)
    · simp only [wmInsert, hkj, if_false]
      refine ⟨wmRising_cons.mpr ⟨?_, i1⟩, ?_⟩
      · intro e he
        rcases i2 e he with rfl | he
        · have : j ≠ k := hk (j, w) (List.mem_cons_self ..)
          show j < k
          omega
        · exact h1 e he
      · intro e he
        rcases List.mem_cons.mp he with rfl | he
        · simp
        · rcases i2 e he with rfl | he <;> simp [*]

/-- A write keeps the canonical form. -/
theorem wmWf_wmPut (d : Nat → Word) (k : Nat) (v : Word) {m : WMap} (h : wmWf d m = true) :
    wmWf d (wmPut (d k) k v m) = true := by
  have hd : wmWf d (wmDrop k m) = true := wmWf_filter d _ h
  unfold wmPut
  by_cases hv : v = d k
  · rw [if_pos hv]; exact hd
  · rw [if_neg hv]
    simp only [wmWf, Bool.and_eq_true, List.all_eq_true] at hd ⊢
    have hn : ∀ e ∈ wmDrop k m, e.1 ≠ k := fun e he => by simpa [wmDrop] using (List.mem_filter.mp he).2
    obtain ⟨r, mem⟩ := wmRising_wmInsert k v hn hd.1
    refine ⟨r, fun e he => ?_⟩
    rcases mem e he with rfl | he
    · simpa using hv
    · exact hd.2 e he

/-- Memory as the spec's default, every unlisted word 0. -/
theorem wmWf_wmPut_zero (k : Nat) (v : Word) {m : WMap} (h : wmWf (fun _ => 0) m = true) :
    wmWf (fun _ => 0) (wmPut 0 k v m) = true := wmWf_wmPut (fun _ => 0) k v h

/-- The entries between two addresses keep the canonical form. -/
theorem wmWf_wmSlice (d : Nat → Word) (lo hi : Nat) {m : WMap} (h : wmWf d m = true) :
    wmWf d (wmSlice lo hi m) = true := wmWf_filter d _ h

theorem wmRising_append {a b : WMap} (ha : wmRising a = true) (hb : wmRising b = true)
    (hab : ∀ x ∈ a, ∀ y ∈ b, x.1 < y.1) : wmRising (a ++ b) = true := by
  induction a with
  | nil => exact hb
  | cons e t ih =>
    obtain ⟨j, w⟩ := e
    obtain ⟨h1, h2⟩ := wmRising_cons.mp ha
    rw [List.cons_append, wmRising_cons]
    refine ⟨?_, ih h2 (fun x hx => hab x (List.mem_cons_of_mem _ hx))⟩
    intro e he
    rcases List.mem_append.mp he with he | he
    · exact h1 e he
    · exact hab (j, w) (List.mem_cons_self ..) e he

/-- A replacement of the entries between two addresses keeps the canonical form. -/
theorem wmWf_wmReplace (d : Nat → Word) (lo hi : Nat) {m snap : WMap} (hlo : lo ≤ hi) (h : wmWf d m = true)
    (hs : wmWf d snap = true) : wmWf d (wmReplace lo hi m snap) = true := by
  have h1 := wmWf_filter d (fun e => decide (e.1 < lo)) h
  have h2 := wmWf_wmSlice d lo hi hs
  have h3 := wmWf_filter d (fun e => decide (hi ≤ e.1)) h
  simp only [wmWf, Bool.and_eq_true, wmReplace] at h1 h2 h3 ⊢
  refine ⟨wmRising_append (wmRising_append h1.1 h2.1 ?_) h3.1 ?_, ?_⟩
  · intro x hx y hy
    simp only [wmSlice, List.mem_filter, Bool.and_eq_true, decide_eq_true_eq] at hx hy
    omega
  · intro x hx y hy
    simp only [wmSlice, List.mem_append, List.mem_filter, Bool.and_eq_true, decide_eq_true_eq] at hx hy
    omega
  · simp only [List.all_append, Bool.and_eq_true]
    exact ⟨⟨h1.2, h2.2⟩, h3.2⟩

/-! ### Lists used as arrays -/

/-- A read after a write of a list used as an array. -/
theorem getD_listPut {α : Type} (l : List α) (i : Nat) (a d : α) (j : Nat) :
    (listPut l i a d).getD j d = if j = i then a else l.getD j d := by
  induction i generalizing l j with
  | zero => cases l <;> cases j <;> simp [listPut, List.getD]
  | succ n ih =>
    cases l with
    | nil =>
      cases j with
      | zero => simp [listPut, List.getD]
      | succ j => simpa [listPut, List.getD] using ih [] j
    | cons h t =>
      cases j with
      | zero => simp [listPut, List.getD]
      | succ j => simpa [listPut, List.getD] using ih t j

theorem listPut_length {α : Type} (l : List α) (i : Nat) (a d : α) (h : i < l.length) :
    (listPut l i a d).length = l.length := by
  induction i generalizing l with
  | zero => cases l <;> simp_all [listPut]
  | succ n ih =>
    cases l with
    | nil => simp at h
    | cons x t => simpa [listPut] using ih t (by simpa using h)

end Sys2Proof.Machine
end

