-- ==== Sys2Proof/Laws/Register.lean ====
section
/-!
SUPPORT. Laws of registers and their fields: what a read of one field gives after a write of another (R9, R10, R30).
-/

namespace Sys2Proof.Machine

/-! ### Bits -/

theorem testBit_bitsOf (x hi lo i : Nat) :
    (bitsOf x hi lo).testBit i = (decide (i < hi + 1 - lo) && x.testBit (i + lo)) := by
  unfold bitsOf
  rw [Nat.testBit_mod_two_pow, ← Nat.shiftRight_eq_div_pow, Nat.testBit_shiftRight, Nat.add_comm lo i]

theorem bitsOf_lt (x hi lo : Nat) : bitsOf x hi lo < 2 ^ (hi + 1 - lo) := Nat.mod_lt _ (Nat.two_pow_pos _)

/-- What is left of `x` outside bits `hi` to `lo`. -/
theorem replaced_split (x hi lo : Nat) :
    x - bitsOf x hi lo * 2 ^ lo = x / 2 ^ lo / 2 ^ (hi + 1 - lo) * 2 ^ (lo + (hi + 1 - lo)) + x % 2 ^ lo := by
  have h1 := Nat.div_add_mod x (2 ^ lo)
  have h2 := Nat.div_add_mod (x / 2 ^ lo) (2 ^ (hi + 1 - lo))
  rw [Nat.pow_add]
  unfold bitsOf
  generalize 2 ^ (hi + 1 - lo) = k at *
  generalize 2 ^ lo = l at *
  generalize x / l = q at *
  generalize x % l = r at *
  subst h1
  generalize q / k = a at *
  generalize q % k = b at *
  subst h2
  have : l * (k * a + b) + r = a * (l * k) + b * l + r := by
    rw [Nat.mul_add, Nat.mul_comm b l, Nat.mul_comm a, Nat.mul_assoc]
  omega

/-- The bits of a number after bits `hi` to `lo` are replaced by `v`. -/
theorem testBit_replaced (x hi lo v i : Nat) (h : lo ≤ hi) :
    (x - bitsOf x hi lo * 2 ^ lo + v % 2 ^ (hi + 1 - lo) * 2 ^ lo).testBit i
      = if lo ≤ i ∧ i ≤ hi then v.testBit (i - lo) else x.testBit i := by
  rw [replaced_split]
  have hv : v % 2 ^ (hi + 1 - lo) < 2 ^ (hi + 1 - lo) := Nat.mod_lt _ (Nat.two_pow_pos _)
  have hr : x % 2 ^ lo < 2 ^ lo := Nat.mod_lt _ (Nat.two_pow_pos _)
  have hq : x / 2 ^ lo / 2 ^ (hi + 1 - lo) = x / 2 ^ (hi + 1) := by
    rw [Nat.div_div_eq_div_mul, ← Nat.pow_add]; congr 2; omega
  rw [hq]
  have hs : lo + (hi + 1 - lo) = hi + 1 := by omega
  rw [hs]
  have e : x / 2 ^ (hi + 1) * 2 ^ (hi + 1) + x % 2 ^ lo + v % 2 ^ (hi + 1 - lo) * 2 ^ lo
      = 2 ^ (hi + 1) * (x / 2 ^ (hi + 1)) + (2 ^ lo * (v % 2 ^ (hi + 1 - lo)) + x % 2 ^ lo) := by
    rw [Nat.mul_comm (x / 2 ^ (hi + 1)), Nat.mul_comm (v % 2 ^ (hi + 1 - lo))]; omega
  rw [e]
  have hlow : 2 ^ lo * (v % 2 ^ (hi + 1 - lo)) + x % 2 ^ lo < 2 ^ (hi + 1) := by
    have : 2 ^ (hi + 1) = 2 ^ lo * 2 ^ (hi + 1 - lo) := by rw [← Nat.pow_add]; congr 1; omega
    rw [this]
    calc _ < 2 ^ lo * (v % 2 ^ (hi + 1 - lo)) + 2 ^ lo := by omega
      _ = 2 ^ lo * (v % 2 ^ (hi + 1 - lo) + 1) := by rw [Nat.mul_add, Nat.mul_one]
      _ ≤ _ := Nat.mul_le_mul_left _ hv
  rw [Nat.testBit_two_pow_mul_add _ hlow, Nat.testBit_two_pow_mul_add _ hr]
  by_cases h1 : i < hi + 1
  · by_cases h2 : i < lo
    · rw [if_pos h1, if_pos h2, if_neg (by omega), Nat.testBit_mod_two_pow]; simp [h2]
    · rw [if_pos h1, if_neg h2, if_pos (by omega), Nat.testBit_mod_two_pow]; simp; omega
  · rw [if_neg h1, if_neg (by omega), Nat.testBit_div_two_pow]; congr 1; omega

theorem testBit_putBits (w : Word) (hi lo v i : Nat) (h : lo ≤ hi) (h15 : hi ≤ 15) :
    (putBits w hi lo v).toNat.testBit i = if lo ≤ i ∧ i ≤ hi then v.testBit (i - lo) else w.toNat.testBit i := by
  unfold putBits
  rw [BitVec.toNat_ofNat, Nat.testBit_mod_two_pow, testBit_replaced _ _ _ _ _ h]
  by_cases hi16 : i < 16
  · simp [hi16]
  · have : w.toNat.testBit i = false := Nat.testBit_lt_two_pow (Nat.lt_of_lt_of_le w.isLt (Nat.pow_le_pow_right (by omega) (by omega)))
    rw [if_neg (by omega), this]; simp

/-- The field just put holds the value put. -/
theorem bitsOf_putBits (w : Word) (hi lo v : Nat) (h : lo ≤ hi) (h15 : hi ≤ 15) :
    bitsOf (putBits w hi lo v).toNat hi lo = v % 2 ^ (hi + 1 - lo) := by
  apply Nat.eq_of_testBit_eq
  intro i
  rw [testBit_bitsOf, testBit_putBits _ _ _ _ _ h h15, Nat.testBit_mod_two_pow]
  by_cases hi' : i < hi + 1 - lo
  · rw [if_pos (by omega)]; simp
  · simp [hi']

/-- A field that shares no bit with the one put keeps its value. -/
theorem bitsOf_putBits_apart (w : Word) (hi lo v hi' lo' : Nat) (h : lo ≤ hi) (h15 : hi ≤ 15)
    (ha : hi < lo' ∨ hi' < lo) : bitsOf (putBits w hi lo v).toNat hi' lo' = bitsOf w.toNat hi' lo' := by
  apply Nat.eq_of_testBit_eq
  intro i
  rw [testBit_bitsOf, testBit_bitsOf, testBit_putBits _ _ _ _ _ h h15]
  by_cases hi' : i < hi' + 1 - lo'
  · rw [if_neg (by omega)]
  · simp [hi']

/-! ### Registers -/

theorem rg_setRg (s : State) (a b : Nat) (w : Word) : (s.setRg a w).rg b = if b = a then w else s.rg b := by
  unfold State.rg State.setRg
  exact wmGet_wmPut _ _ _ _ _ _ (fun e => by rw [e])

@[simp] theorem rg_setRg_self (s : State) (a : Nat) (w : Word) : (s.setRg a w).rg a = w := by simp [rg_setRg]

theorem rg_setRg_ne (s : State) {a b : Nat} (w : Word) (h : b ≠ a) : (s.setRg a w).rg b = s.rg b := by simp [rg_setRg, h]

theorem actRg_setActRg (s : State) (a b : Nat) (w : Word) :
    (s.setActRg a w).actRg b = if b = a then w else s.actRg b := by
  unfold State.actRg State.setActRg
  exact wmGet_wmPut _ _ _ _ _ _ (fun e => by rw [e])

@[simp] theorem actRg_setRg (s : State) (a b : Nat) (w : Word) : (s.setRg a w).actRg b = s.actRg b := rfl
@[simp] theorem rg_setActRg (s : State) (a b : Nat) (w : Word) : (s.setActRg a w).rg b = s.rg b := rfl

theorem rg_put (s : State) (f : Fld) (v b : Nat) :
    (s.put f v).rg b = if b = f.gwa then putBits (s.rg f.gwa) f.hi f.lo v else s.rg b := rg_setRg ..

theorem rg_put_ne (s : State) {f : Fld} (v : Nat) {b : Nat} (h : b ≠ f.gwa) : (s.put f v).rg b = s.rg b := by
  simp [rg_put, h]

@[simp] theorem actRg_put (s : State) (f : Fld) (v b : Nat) : (s.put f v).actRg b = s.actRg b := rfl

/-- The bounds that every field of a register keeps. -/
abbrev Fld.ok (f : Fld) : Prop := f.lo ≤ f.hi ∧ f.hi ≤ 15

/-- Two fields share no bit. -/
abbrev Fld.apart (f g : Fld) : Prop := f.gwa ≠ g.gwa ∨ f.hi < g.lo ∨ g.hi < f.lo

theorem get_put_self (s : State) (f : Fld) (v : Nat) (h : f.ok) : (s.put f v).get f = v % 2 ^ (f.hi + 1 - f.lo) := by
  unfold State.get
  rw [rg_put, if_pos rfl]
  exact bitsOf_putBits _ _ _ _ h.1 h.2

theorem get_put_apart (s : State) (f g : Fld) (v : Nat) (h : f.ok) (ha : f.apart g) : (s.put f v).get g = s.get g := by
  unfold State.get
  rw [rg_put]
  by_cases hg : g.gwa = f.gwa
  · rw [if_pos hg, bitsOf_putBits_apart _ _ _ _ _ _ h.1 h.2 (ha.resolve_left (fun n => n hg.symm)), hg]
  · rw [if_neg hg]

theorem get_lt (s : State) (f : Fld) : s.get f < 2 ^ (f.hi + 1 - f.lo) := bitsOf_lt ..

theorem get_setRg_ne (s : State) (a : Nat) (w : Word) (f : Fld) (h : f.gwa ≠ a) : (s.setRg a w).get f = s.get f := by
  unfold State.get; rw [rg_setRg_ne _ _ h]

@[simp] theorem get_setActRg (s : State) (a : Nat) (w : Word) (f : Fld) : (s.setActRg a w).get f = s.get f := rfl
@[simp] theorem act_setRg (s : State) (a : Nat) (w : Word) (f : Fld) : (s.setRg a w).act f = s.act f := rfl
@[simp] theorem act_put (s : State) (g : Fld) (v : Nat) (f : Fld) : (s.put g v).act f = s.act f := rfl

theorem isOn_putB_self (s : State) (f : Fld) (b : Bool) (h : f.ok) : (s.putB f b).isOn f = b := by
  unfold State.isOn State.putB
  rw [get_put_self _ _ _ h]
  have hk : 2 ≤ 2 ^ (f.hi + 1 - f.lo) := by
    have h1 : 1 ≤ f.hi + 1 - f.lo := by have := h.1; omega
    calc 2 = 2 ^ 1 := rfl
      _ ≤ _ := Nat.pow_le_pow_right (by omega) h1
  cases b
  · simp [b2n]
  · simp only [b2n, if_true]
    rw [Nat.mod_eq_of_lt (by omega)]; rfl

theorem get_putB_self (s : State) (f : Fld) (b : Bool) (h : f.ok) : (s.putB f b).get f = b2n b := by
  unfold State.putB
  rw [get_put_self _ _ _ h]
  have hk : 2 ≤ 2 ^ (f.hi + 1 - f.lo) := by
    have h1 : 1 ≤ f.hi + 1 - f.lo := by have := h.1; omega
    calc 2 = 2 ^ 1 := rfl
      _ ≤ _ := Nat.pow_le_pow_right (by omega) h1
  apply Nat.mod_eq_of_lt
  cases b
  · exact Nat.lt_of_lt_of_le (by decide) hk
  · exact Nat.lt_of_lt_of_le (by decide) hk

theorem isOn_put_apart (s : State) (f g : Fld) (v : Nat) (h : f.ok) (ha : f.apart g) :
    (s.put f v).isOn g = s.isOn g := by unfold State.isOn; rw [get_put_apart _ _ _ _ h ha]

theorem get_putB_apart (s : State) (f g : Fld) (b : Bool) (h : f.ok) (ha : f.apart g) :
    (s.putB f b).get g = s.get g := get_put_apart _ _ _ _ h ha

theorem isOn_putB_apart (s : State) (f g : Fld) (b : Bool) (h : f.ok) (ha : f.apart g) :
    (s.putB f b).isOn g = s.isOn g := isOn_put_apart _ _ _ _ h ha

/-! ### The same with the places written out, so that arithmetic settles the side conditions -/

theorem get_put_at (s : State) (a hi lo v : Nat) (h : lo ≤ hi) (h15 : hi ≤ 15) :
    (s.put ⟨a, hi, lo⟩ v).get ⟨a, hi, lo⟩ = v % 2 ^ (hi + 1 - lo) := get_put_self s ⟨a, hi, lo⟩ v ⟨h, h15⟩

theorem get_put_off (s : State) (a hi lo v b hi' lo' : Nat) (h : lo ≤ hi) (h15 : hi ≤ 15)
    (ha : a ≠ b ∨ hi < lo' ∨ hi' < lo) : (s.put ⟨a, hi, lo⟩ v).get ⟨b, hi', lo'⟩ = s.get ⟨b, hi', lo'⟩ :=
  get_put_apart s ⟨a, hi, lo⟩ ⟨b, hi', lo'⟩ v ⟨h, h15⟩ ha

theorem get_putB_at (s : State) (a hi lo : Nat) (b : Bool) (h : lo ≤ hi) (h15 : hi ≤ 15) :
    (s.putB ⟨a, hi, lo⟩ b).get ⟨a, hi, lo⟩ = b2n b := get_putB_self s ⟨a, hi, lo⟩ b ⟨h, h15⟩

theorem get_putB_off (s : State) (a hi lo : Nat) (v : Bool) (b hi' lo' : Nat) (h : lo ≤ hi) (h15 : hi ≤ 15)
    (ha : a ≠ b ∨ hi < lo' ∨ hi' < lo) : (s.putB ⟨a, hi, lo⟩ v).get ⟨b, hi', lo'⟩ = s.get ⟨b, hi', lo'⟩ :=
  get_put_off s a hi lo _ b hi' lo' h h15 ha

theorem isOn_putB_at (s : State) (a hi lo : Nat) (b : Bool) (h : lo ≤ hi) (h15 : hi ≤ 15) :
    (s.putB ⟨a, hi, lo⟩ b).isOn ⟨a, hi, lo⟩ = b := isOn_putB_self s ⟨a, hi, lo⟩ b ⟨h, h15⟩

theorem isOn_put_off (s : State) (a hi lo v b hi' lo' : Nat) (h : lo ≤ hi) (h15 : hi ≤ 15)
    (ha : a ≠ b ∨ hi < lo' ∨ hi' < lo) : (s.put ⟨a, hi, lo⟩ v).isOn ⟨b, hi', lo'⟩ = s.isOn ⟨b, hi', lo'⟩ :=
  isOn_put_apart s ⟨a, hi, lo⟩ ⟨b, hi', lo'⟩ v ⟨h, h15⟩ ha

theorem isOn_putB_off (s : State) (a hi lo : Nat) (v : Bool) (b hi' lo' : Nat) (h : lo ≤ hi) (h15 : hi ≤ 15)
    (ha : a ≠ b ∨ hi < lo' ∨ hi' < lo) : (s.putB ⟨a, hi, lo⟩ v).isOn ⟨b, hi', lo'⟩ = s.isOn ⟨b, hi', lo'⟩ :=
  isOn_put_off s a hi lo _ b hi' lo' h h15 ha

end Sys2Proof.Machine
end

