-- ==== Sys2Proof/Laws/State.lean ====
section
/-!
SUPPORT. Laws of the state: each named update, field by field, and what the accessors read after it.
-/

namespace Sys2Proof.Machine

/-! ### Registers and fields by the map alone -/

/-- The word of a register in the map `m`. -/
def wordOf (m : WMap) (a : Nat) : Word := wmGet (resetWord a) m a

/-- The value of a field in the map `m`. -/
def fieldOf (m : WMap) (f : Fld) : Nat := bitsOf (wordOf m f.gwa).toNat f.hi f.lo

theorem rg_eq (s : State) (a : Nat) : s.rg a = wordOf s.regs a := rfl
theorem get_eq (s : State) (f : Fld) : s.get f = fieldOf s.regs f := rfl
theorem isOn_eq (s : State) (f : Fld) : s.isOn f = (fieldOf s.regs f != 0) := rfl
theorem actRg_eq (s : State) (a : Nat) : s.actRg a = wordOf s.active a := rfl
theorem act_eq (s : State) (f : Fld) : s.act f = fieldOf s.active f := rfl

/-- A register's word depends on the registers alone. -/
theorem rg_congr {s t : State} (h : s.regs = t.regs) (a : Nat) : s.rg a = t.rg a := by simp only [rg_eq, h]

/-- A field's value depends on the registers alone. -/
theorem get_congr {s t : State} (h : s.regs = t.regs) (f : Fld) : s.get f = t.get f := by simp only [get_eq, h]

theorem isOn_congr {s t : State} (h : s.regs = t.regs) (f : Fld) : s.isOn f = t.isOn f := by simp only [isOn_eq, h]

/-- An active value depends on the active registers alone. -/
theorem act_congr {s t : State} (h : s.active = t.active) (f : Fld) : s.act f = t.act f := by simp only [act_eq, h]

/-- A rejection writes two fields of one register. -/
theorem reject_eq (s : State) (a : Nat) :
    ∃ b x, s.reject a = (s.put ⟨b, 15, 15⟩ 1).put ⟨b, 11, 0⟩ x := ⟨_, _, rfl⟩

/-! ### Each update, field by field -/

section setRgLaws
variable (s : State) (a : Nat) (w : Word)

@[simp] theorem setRg_pending : (s.setRg a w).pending = s.pending := rfl
@[simp] theorem setRg_regs : (s.setRg a w).regs = wmPut (resetWord a) a w s.regs := rfl
@[simp] theorem setRg_active : (s.setRg a w).active = s.active := rfl
@[simp] theorem setRg_stage : (s.setRg a w).stage = s.stage := rfl
@[simp] theorem setRg_late : (s.setRg a w).late = s.late := rfl
@[simp] theorem setRg_latch : (s.setRg a w).latch = s.latch := rfl
@[simp] theorem setRg_shadow : (s.setRg a w).shadow = s.shadow := rfl
@[simp] theorem setRg_mem : (s.setRg a w).mem = s.mem := rfl
@[simp] theorem setRg_memSt : (s.setRg a w).memSt = s.memSt := rfl
@[simp] theorem setRg_flt : (s.setRg a w).flt = s.flt := rfl
@[simp] theorem setRg_clk : (s.setRg a w).clk = s.clk := rfl
@[simp] theorem setRg_pwr : (s.setRg a w).pwr = s.pwr := rfl
@[simp] theorem setRg_permitPrev : (s.setRg a w).permitPrev = s.permitPrev := rfl
@[simp] theorem setRg_readData : (s.setRg a w).readData = s.readData := rfl
@[simp] theorem setRg_fe : (s.setRg a w).fe = s.fe := rfl
@[simp] theorem setRg_dfe : (s.setRg a w).dfe = s.dfe := rfl
@[simp] theorem setRg_ch : (s.setRg a w).ch = s.ch := rfl
@[simp] theorem setRg_perrSeen : (s.setRg a w).perrSeen = s.perrSeen := rfl
@[simp] theorem setRg_srch : (s.setRg a w).srch = s.srch := rfl
@[simp] theorem setRg_tb : (s.setRg a w).tb = s.tb := rfl
@[simp] theorem setRg_tp : (s.setRg a w).tp = s.tp := rfl
@[simp] theorem setRg_evt : (s.setRg a w).evt = s.evt := rfl
@[simp] theorem setRg_syn : (s.setRg a w).syn = s.syn := rfl
@[simp] theorem setRg_slc : (s.setRg a w).slc = s.slc := rfl
@[simp] theorem setRg_engs : (s.setRg a w).engs = s.engs := rfl
@[simp] theorem setRg_plc : (s.setRg a w).plc = s.plc := rfl
@[simp] theorem setRg_weir : (s.setRg a w).weir = s.weir := rfl
@[simp] theorem setRg_lcs : (s.setRg a w).lcs = s.lcs := rfl
@[simp] theorem setRg_cfl : (s.setRg a w).cfl = s.cfl := rfl
@[simp] theorem setRg_host : (s.setRg a w).host = s.host := rfl
@[simp] theorem setRg_flash : (s.setRg a w).flash = s.flash := rfl
@[simp] theorem setRg_start : (s.setRg a w).start = s.start := rfl
@[simp] theorem setRg_free : (s.setRg a w).free = s.free := rfl
@[simp] theorem gate_setRg (x : Nat) : (s.setRg a w).gate x = s.gate x := rfl
@[simp] theorem eng_setRg (x : Nat) : (s.setRg a w).eng x = s.eng x := rfl
@[simp] theorem tpOut_setRg (x : Nat) : (s.setRg a w).tpOut x = s.tpOut x := rfl
@[simp] theorem taskSt_setRg (x : Nat) : (s.setRg a w).taskSt x = s.taskSt x := rfl
@[simp] theorem chan_setRg (x : Nat) : (s.setRg a w).chan x = s.chan x := rfl
@[simp] theorem pipe_setRg (x : Nat) : (s.setRg a w).pipe x = s.pipe x := rfl
@[simp] theorem cflPort_setRg (x : Nat) : (s.setRg a w).cflPort x = s.cflPort x := rfl

end setRgLaws

section setActRgLaws
variable (s : State) (a : Nat) (w : Word)

@[simp] theorem setActRg_pending : (s.setActRg a w).pending = s.pending := rfl
@[simp] theorem setActRg_regs : (s.setActRg a w).regs = s.regs := rfl
@[simp] theorem setActRg_active : (s.setActRg a w).active = wmPut (resetWord a) a w s.active := rfl
@[simp] theorem setActRg_stage : (s.setActRg a w).stage = s.stage := rfl
@[simp] theorem setActRg_late : (s.setActRg a w).late = s.late := rfl
@[simp] theorem setActRg_latch : (s.setActRg a w).latch = s.latch := rfl
@[simp] theorem setActRg_shadow : (s.setActRg a w).shadow = s.shadow := rfl
@[simp] theorem setActRg_mem : (s.setActRg a w).mem = s.mem := rfl
@[simp] theorem setActRg_memSt : (s.setActRg a w).memSt = s.memSt := rfl
@[simp] theorem setActRg_flt : (s.setActRg a w).flt = s.flt := rfl
@[simp] theorem setActRg_clk : (s.setActRg a w).clk = s.clk := rfl
@[simp] theorem setActRg_pwr : (s.setActRg a w).pwr = s.pwr := rfl
@[simp] theorem setActRg_permitPrev : (s.setActRg a w).permitPrev = s.permitPrev := rfl
@[simp] theorem setActRg_readData : (s.setActRg a w).readData = s.readData := rfl
@[simp] theorem setActRg_fe : (s.setActRg a w).fe = s.fe := rfl
@[simp] theorem setActRg_dfe : (s.setActRg a w).dfe = s.dfe := rfl
@[simp] theorem setActRg_ch : (s.setActRg a w).ch = s.ch := rfl
@[simp] theorem setActRg_perrSeen : (s.setActRg a w).perrSeen = s.perrSeen := rfl
@[simp] theorem setActRg_srch : (s.setActRg a w).srch = s.srch := rfl
@[simp] theorem setActRg_tb : (s.setActRg a w).tb = s.tb := rfl
@[simp] theorem setActRg_tp : (s.setActRg a w).tp = s.tp := rfl
@[simp] theorem setActRg_evt : (s.setActRg a w).evt = s.evt := rfl
@[simp] theorem setActRg_syn : (s.setActRg a w).syn = s.syn := rfl
@[simp] theorem setActRg_slc : (s.setActRg a w).slc = s.slc := rfl
@[simp] theorem setActRg_engs : (s.setActRg a w).engs = s.engs := rfl
@[simp] theorem setActRg_plc : (s.setActRg a w).plc = s.plc := rfl
@[simp] theorem setActRg_weir : (s.setActRg a w).weir = s.weir := rfl
@[simp] theorem setActRg_lcs : (s.setActRg a w).lcs = s.lcs := rfl
@[simp] theorem setActRg_cfl : (s.setActRg a w).cfl = s.cfl := rfl
@[simp] theorem setActRg_host : (s.setActRg a w).host = s.host := rfl
@[simp] theorem setActRg_flash : (s.setActRg a w).flash = s.flash := rfl
@[simp] theorem setActRg_start : (s.setActRg a w).start = s.start := rfl
@[simp] theorem setActRg_free : (s.setActRg a w).free = s.free := rfl
@[simp] theorem isOn_setActRg (x : Fld) : (s.setActRg a w).isOn x = s.isOn x := rfl
@[simp] theorem gate_setActRg (x : Nat) : (s.setActRg a w).gate x = s.gate x := rfl
@[simp] theorem eng_setActRg (x : Nat) : (s.setActRg a w).eng x = s.eng x := rfl
@[simp] theorem tpOut_setActRg (x : Nat) : (s.setActRg a w).tpOut x = s.tpOut x := rfl
@[simp] theorem taskSt_setActRg (x : Nat) : (s.setActRg a w).taskSt x = s.taskSt x := rfl
@[simp] theorem chan_setActRg (x : Nat) : (s.setActRg a w).chan x = s.chan x := rfl
@[simp] theorem pipe_setActRg (x : Nat) : (s.setActRg a w).pipe x = s.pipe x := rfl
@[simp] theorem cflPort_setActRg (x : Nat) : (s.setActRg a w).cflPort x = s.cflPort x := rfl

end setActRgLaws

section putLaws
variable (s : State) (f : Fld) (v : Nat)

@[simp] theorem put_pending : (s.put f v).pending = s.pending := rfl
@[simp] theorem put_regs : (s.put f v).regs = wmPut (resetWord f.gwa) f.gwa (putBits (s.rg f.gwa) f.hi f.lo v) s.regs := rfl
@[simp] theorem put_active : (s.put f v).active = s.active := rfl
@[simp] theorem put_stage : (s.put f v).stage = s.stage := rfl
@[simp] theorem put_late : (s.put f v).late = s.late := rfl
@[simp] theorem put_latch : (s.put f v).latch = s.latch := rfl
@[simp] theorem put_shadow : (s.put f v).shadow = s.shadow := rfl
@[simp] theorem put_mem : (s.put f v).mem = s.mem := rfl
@[simp] theorem put_memSt : (s.put f v).memSt = s.memSt := rfl
@[simp] theorem put_flt : (s.put f v).flt = s.flt := rfl
@[simp] theorem put_clk : (s.put f v).clk = s.clk := rfl
@[simp] theorem put_pwr : (s.put f v).pwr = s.pwr := rfl
@[simp] theorem put_permitPrev : (s.put f v).permitPrev = s.permitPrev := rfl
@[simp] theorem put_readData : (s.put f v).readData = s.readData := rfl
@[simp] theorem put_fe : (s.put f v).fe = s.fe := rfl
@[simp] theorem put_dfe : (s.put f v).dfe = s.dfe := rfl
@[simp] theorem put_ch : (s.put f v).ch = s.ch := rfl
@[simp] theorem put_perrSeen : (s.put f v).perrSeen = s.perrSeen := rfl
@[simp] theorem put_srch : (s.put f v).srch = s.srch := rfl
@[simp] theorem put_tb : (s.put f v).tb = s.tb := rfl
@[simp] theorem put_tp : (s.put f v).tp = s.tp := rfl
@[simp] theorem put_evt : (s.put f v).evt = s.evt := rfl
@[simp] theorem put_syn : (s.put f v).syn = s.syn := rfl
@[simp] theorem put_slc : (s.put f v).slc = s.slc := rfl
@[simp] theorem put_engs : (s.put f v).engs = s.engs := rfl
@[simp] theorem put_plc : (s.put f v).plc = s.plc := rfl
@[simp] theorem put_weir : (s.put f v).weir = s.weir := rfl
@[simp] theorem put_lcs : (s.put f v).lcs = s.lcs := rfl
@[simp] theorem put_cfl : (s.put f v).cfl = s.cfl := rfl
@[simp] theorem put_host : (s.put f v).host = s.host := rfl
@[simp] theorem put_flash : (s.put f v).flash = s.flash := rfl
@[simp] theorem put_start : (s.put f v).start = s.start := rfl
@[simp] theorem put_free : (s.put f v).free = s.free := rfl
@[simp] theorem gate_put (x : Nat) : (s.put f v).gate x = s.gate x := rfl
@[simp] theorem eng_put (x : Nat) : (s.put f v).eng x = s.eng x := rfl
@[simp] theorem tpOut_put (x : Nat) : (s.put f v).tpOut x = s.tpOut x := rfl
@[simp] theorem taskSt_put (x : Nat) : (s.put f v).taskSt x = s.taskSt x := rfl
@[simp] theorem chan_put (x : Nat) : (s.put f v).chan x = s.chan x := rfl
@[simp] theorem pipe_put (x : Nat) : (s.put f v).pipe x = s.pipe x := rfl
@[simp] theorem cflPort_put (x : Nat) : (s.put f v).cflPort x = s.cflPort x := rfl

end putLaws

section putBLaws
variable (s : State) (f : Fld) (b : Bool)

@[simp] theorem putB_pending : (s.putB f b).pending = s.pending := rfl
@[simp] theorem putB_regs : (s.putB f b).regs = wmPut (resetWord f.gwa) f.gwa (putBits (s.rg f.gwa) f.hi f.lo (b2n b)) s.regs := rfl
@[simp] theorem putB_active : (s.putB f b).active = s.active := rfl
@[simp] theorem putB_stage : (s.putB f b).stage = s.stage := rfl
@[simp] theorem putB_late : (s.putB f b).late = s.late := rfl
@[simp] theorem putB_latch : (s.putB f b).latch = s.latch := rfl
@[simp] theorem putB_shadow : (s.putB f b).shadow = s.shadow := rfl
@[simp] theorem putB_mem : (s.putB f b).mem = s.mem := rfl
@[simp] theorem putB_memSt : (s.putB f b).memSt = s.memSt := rfl
@[simp] theorem putB_flt : (s.putB f b).flt = s.flt := rfl
@[simp] theorem putB_clk : (s.putB f b).clk = s.clk := rfl
@[simp] theorem putB_pwr : (s.putB f b).pwr = s.pwr := rfl
@[simp] theorem putB_permitPrev : (s.putB f b).permitPrev = s.permitPrev := rfl
@[simp] theorem putB_readData : (s.putB f b).readData = s.readData := rfl
@[simp] theorem putB_fe : (s.putB f b).fe = s.fe := rfl
@[simp] theorem putB_dfe : (s.putB f b).dfe = s.dfe := rfl
@[simp] theorem putB_ch : (s.putB f b).ch = s.ch := rfl
@[simp] theorem putB_perrSeen : (s.putB f b).perrSeen = s.perrSeen := rfl
@[simp] theorem putB_srch : (s.putB f b).srch = s.srch := rfl
@[simp] theorem putB_tb : (s.putB f b).tb = s.tb := rfl
@[simp] theorem putB_tp : (s.putB f b).tp = s.tp := rfl
@[simp] theorem putB_evt : (s.putB f b).evt = s.evt := rfl
@[simp] theorem putB_syn : (s.putB f b).syn = s.syn := rfl
@[simp] theorem putB_slc : (s.putB f b).slc = s.slc := rfl
@[simp] theorem putB_engs : (s.putB f b).engs = s.engs := rfl
@[simp] theorem putB_plc : (s.putB f b).plc = s.plc := rfl
@[simp] theorem putB_weir : (s.putB f b).weir = s.weir := rfl
@[simp] theorem putB_lcs : (s.putB f b).lcs = s.lcs := rfl
@[simp] theorem putB_cfl : (s.putB f b).cfl = s.cfl := rfl
@[simp] theorem putB_host : (s.putB f b).host = s.host := rfl
@[simp] theorem putB_flash : (s.putB f b).flash = s.flash := rfl
@[simp] theorem putB_start : (s.putB f b).start = s.start := rfl
@[simp] theorem putB_free : (s.putB f b).free = s.free := rfl
@[simp] theorem act_putB (x : Fld) : (s.putB f b).act x = s.act x := rfl
@[simp] theorem gate_putB (x : Nat) : (s.putB f b).gate x = s.gate x := rfl
@[simp] theorem eng_putB (x : Nat) : (s.putB f b).eng x = s.eng x := rfl
@[simp] theorem tpOut_putB (x : Nat) : (s.putB f b).tpOut x = s.tpOut x := rfl
@[simp] theorem taskSt_putB (x : Nat) : (s.putB f b).taskSt x = s.taskSt x := rfl
@[simp] theorem chan_putB (x : Nat) : (s.putB f b).chan x = s.chan x := rfl
@[simp] theorem pipe_putB (x : Nat) : (s.putB f b).pipe x = s.pipe x := rfl
@[simp] theorem cflPort_putB (x : Nat) : (s.putB f b).cflPort x = s.cflPort x := rfl

end putBLaws

section rejectLaws
variable (s : State) (a : Nat)

@[simp] theorem reject_pending : (s.reject a).pending = s.pending := by
  obtain ⟨_, _, h⟩ := reject_eq s a
  exact (congrArg State.pending h).trans ((put_pending ..).trans (put_pending ..))
@[simp] theorem reject_active : (s.reject a).active = s.active := by
  obtain ⟨_, _, h⟩ := reject_eq s a
  exact (congrArg State.active h).trans ((put_active ..).trans (put_active ..))
@[simp] theorem reject_stage : (s.reject a).stage = s.stage := by
  obtain ⟨_, _, h⟩ := reject_eq s a
  exact (congrArg State.stage h).trans ((put_stage ..).trans (put_stage ..))
@[simp] theorem reject_late : (s.reject a).late = s.late := by
  obtain ⟨_, _, h⟩ := reject_eq s a
  exact (congrArg State.late h).trans ((put_late ..).trans (put_late ..))
@[simp] theorem reject_latch : (s.reject a).latch = s.latch := by
  obtain ⟨_, _, h⟩ := reject_eq s a
  exact (congrArg State.latch h).trans ((put_latch ..).trans (put_latch ..))
@[simp] theorem reject_shadow : (s.reject a).shadow = s.shadow := by
  obtain ⟨_, _, h⟩ := reject_eq s a
  exact (congrArg State.shadow h).trans ((put_shadow ..).trans (put_shadow ..))
@[simp] theorem reject_mem : (s.reject a).mem = s.mem := by
  obtain ⟨_, _, h⟩ := reject_eq s a
  exact (congrArg State.mem h).trans ((put_mem ..).trans (put_mem ..))
@[simp] theorem reject_memSt : (s.reject a).memSt = s.memSt := by
  obtain ⟨_, _, h⟩ := reject_eq s a
  exact (congrArg State.memSt h).trans ((put_memSt ..).trans (put_memSt ..))
@[simp] theorem reject_flt : (s.reject a).flt = s.flt := by
  obtain ⟨_, _, h⟩ := reject_eq s a
  exact (congrArg State.flt h).trans ((put_flt ..).trans (put_flt ..))
@[simp] theorem reject_clk : (s.reject a).clk = s.clk := by
  obtain ⟨_, _, h⟩ := reject_eq s a
  exact (congrArg State.clk h).trans ((put_clk ..).trans (put_clk ..))
@[simp] theorem reject_pwr : (s.reject a).pwr = s.pwr := by
  obtain ⟨_, _, h⟩ := reject_eq s a
  exact (congrArg State.pwr h).trans ((put_pwr ..).trans (put_pwr ..))
@[simp] theorem reject_permitPrev : (s.reject a).permitPrev = s.permitPrev := by
  obtain ⟨_, _, h⟩ := reject_eq s a
  exact (congrArg State.permitPrev h).trans ((put_permitPrev ..).trans (put_permitPrev ..))
@[simp] theorem reject_readData : (s.reject a).readData = s.readData := by
  obtain ⟨_, _, h⟩ := reject_eq s a
  exact (congrArg State.readData h).trans ((put_readData ..).trans (put_readData ..))
@[simp] theorem reject_fe : (s.reject a).fe = s.fe := by
  obtain ⟨_, _, h⟩ := reject_eq s a
  exact (congrArg State.fe h).trans ((put_fe ..).trans (put_fe ..))
@[simp] theorem reject_dfe : (s.reject a).dfe = s.dfe := by
  obtain ⟨_, _, h⟩ := reject_eq s a
  exact (congrArg State.dfe h).trans ((put_dfe ..).trans (put_dfe ..))
@[simp] theorem reject_ch : (s.reject a).ch = s.ch := by
  obtain ⟨_, _, h⟩ := reject_eq s a
  exact (congrArg State.ch h).trans ((put_ch ..).trans (put_ch ..))
@[simp] theorem reject_perrSeen : (s.reject a).perrSeen = s.perrSeen := by
  obtain ⟨_, _, h⟩ := reject_eq s a
  exact (congrArg State.perrSeen h).trans ((put_perrSeen ..).trans (put_perrSeen ..))
@[simp] theorem reject_srch : (s.reject a).srch = s.srch := by
  obtain ⟨_, _, h⟩ := reject_eq s a
  exact (congrArg State.srch h).trans ((put_srch ..).trans (put_srch ..))
@[simp] theorem reject_tb : (s.reject a).tb = s.tb := by
  obtain ⟨_, _, h⟩ := reject_eq s a
  exact (congrArg State.tb h).trans ((put_tb ..).trans (put_tb ..))
@[simp] theorem reject_tp : (s.reject a).tp = s.tp := by
  obtain ⟨_, _, h⟩ := reject_eq s a
  exact (congrArg State.tp h).trans ((put_tp ..).trans (put_tp ..))
@[simp] theorem reject_evt : (s.reject a).evt = s.evt := by
  obtain ⟨_, _, h⟩ := reject_eq s a
  exact (congrArg State.evt h).trans ((put_evt ..).trans (put_evt ..))
@[simp] theorem reject_syn : (s.reject a).syn = s.syn := by
  obtain ⟨_, _, h⟩ := reject_eq s a
  exact (congrArg State.syn h).trans ((put_syn ..).trans (put_syn ..))
@[simp] theorem reject_slc : (s.reject a).slc = s.slc := by
  obtain ⟨_, _, h⟩ := reject_eq s a
  exact (congrArg State.slc h).trans ((put_slc ..).trans (put_slc ..))
@[simp] theorem reject_engs : (s.reject a).engs = s.engs := by
  obtain ⟨_, _, h⟩ := reject_eq s a
  exact (congrArg State.engs h).trans ((put_engs ..).trans (put_engs ..))
@[simp] theorem reject_plc : (s.reject a).plc = s.plc := by
  obtain ⟨_, _, h⟩ := reject_eq s a
  exact (congrArg State.plc h).trans ((put_plc ..).trans (put_plc ..))
@[simp] theorem reject_weir : (s.reject a).weir = s.weir := by
  obtain ⟨_, _, h⟩ := reject_eq s a
  exact (congrArg State.weir h).trans ((put_weir ..).trans (put_weir ..))
@[simp] theorem reject_lcs : (s.reject a).lcs = s.lcs := by
  obtain ⟨_, _, h⟩ := reject_eq s a
  exact (congrArg State.lcs h).trans ((put_lcs ..).trans (put_lcs ..))
@[simp] theorem reject_cfl : (s.reject a).cfl = s.cfl := by
  obtain ⟨_, _, h⟩ := reject_eq s a
  exact (congrArg State.cfl h).trans ((put_cfl ..).trans (put_cfl ..))
@[simp] theorem reject_host : (s.reject a).host = s.host := by
  obtain ⟨_, _, h⟩ := reject_eq s a
  exact (congrArg State.host h).trans ((put_host ..).trans (put_host ..))
@[simp] theorem reject_flash : (s.reject a).flash = s.flash := by
  obtain ⟨_, _, h⟩ := reject_eq s a
  exact (congrArg State.flash h).trans ((put_flash ..).trans (put_flash ..))
@[simp] theorem reject_start : (s.reject a).start = s.start := by
  obtain ⟨_, _, h⟩ := reject_eq s a
  exact (congrArg State.start h).trans ((put_start ..).trans (put_start ..))
@[simp] theorem reject_free : (s.reject a).free = s.free := by
  obtain ⟨_, _, h⟩ := reject_eq s a
  exact (congrArg State.free h).trans ((put_free ..).trans (put_free ..))
@[simp] theorem act_reject (x : Fld) : (s.reject a).act x = s.act x := by
  obtain ⟨_, _, h⟩ := reject_eq s a
  exact (congrArg (State.act · x) h).trans ((act_put ..).trans (act_put ..))
@[simp] theorem gate_reject (x : Nat) : (s.reject a).gate x = s.gate x := by
  obtain ⟨_, _, h⟩ := reject_eq s a
  exact (congrArg (State.gate · x) h).trans ((gate_put ..).trans (gate_put ..))
@[simp] theorem eng_reject (x : Nat) : (s.reject a).eng x = s.eng x := by
  obtain ⟨_, _, h⟩ := reject_eq s a
  exact (congrArg (State.eng · x) h).trans ((eng_put ..).trans (eng_put ..))
@[simp] theorem tpOut_reject (x : Nat) : (s.reject a).tpOut x = s.tpOut x := by
  obtain ⟨_, _, h⟩ := reject_eq s a
  exact (congrArg (State.tpOut · x) h).trans ((tpOut_put ..).trans (tpOut_put ..))
@[simp] theorem taskSt_reject (x : Nat) : (s.reject a).taskSt x = s.taskSt x := by
  obtain ⟨_, _, h⟩ := reject_eq s a
  exact (congrArg (State.taskSt · x) h).trans ((taskSt_put ..).trans (taskSt_put ..))
@[simp] theorem chan_reject (x : Nat) : (s.reject a).chan x = s.chan x := by
  obtain ⟨_, _, h⟩ := reject_eq s a
  exact (congrArg (State.chan · x) h).trans ((chan_put ..).trans (chan_put ..))
@[simp] theorem pipe_reject (x : Nat) : (s.reject a).pipe x = s.pipe x := by
  obtain ⟨_, _, h⟩ := reject_eq s a
  exact (congrArg (State.pipe · x) h).trans ((pipe_put ..).trans (pipe_put ..))
@[simp] theorem cflPort_reject (x : Nat) : (s.reject a).cflPort x = s.cflPort x := by
  obtain ⟨_, _, h⟩ := reject_eq s a
  exact (congrArg (State.cflPort · x) h).trans ((cflPort_put ..).trans (cflPort_put ..))

end rejectLaws

section raiseLaws
variable (s : State) (code unit arg : Nat) (m : Option Nat)

@[simp] theorem raise_pending : (s.raise code unit arg m).pending = s.pending := rfl
@[simp] theorem raise_regs : (s.raise code unit arg m).regs = s.regs := rfl
@[simp] theorem raise_active : (s.raise code unit arg m).active = s.active := rfl
@[simp] theorem raise_stage : (s.raise code unit arg m).stage = s.stage := rfl
@[simp] theorem raise_late : (s.raise code unit arg m).late = s.late := rfl
@[simp] theorem raise_latch : (s.raise code unit arg m).latch = s.latch := rfl
@[simp] theorem raise_shadow : (s.raise code unit arg m).shadow = s.shadow := rfl
@[simp] theorem raise_mem : (s.raise code unit arg m).mem = s.mem := rfl
@[simp] theorem raise_memSt : (s.raise code unit arg m).memSt = s.memSt := rfl
@[simp] theorem raise_clk : (s.raise code unit arg m).clk = s.clk := rfl
@[simp] theorem raise_pwr : (s.raise code unit arg m).pwr = s.pwr := rfl
@[simp] theorem raise_permitPrev : (s.raise code unit arg m).permitPrev = s.permitPrev := rfl
@[simp] theorem raise_readData : (s.raise code unit arg m).readData = s.readData := rfl
@[simp] theorem raise_fe : (s.raise code unit arg m).fe = s.fe := rfl
@[simp] theorem raise_dfe : (s.raise code unit arg m).dfe = s.dfe := rfl
@[simp] theorem raise_ch : (s.raise code unit arg m).ch = s.ch := rfl
@[simp] theorem raise_perrSeen : (s.raise code unit arg m).perrSeen = s.perrSeen := rfl
@[simp] theorem raise_srch : (s.raise code unit arg m).srch = s.srch := rfl
@[simp] theorem raise_tb : (s.raise code unit arg m).tb = s.tb := rfl
@[simp] theorem raise_tp : (s.raise code unit arg m).tp = s.tp := rfl
@[simp] theorem raise_evt : (s.raise code unit arg m).evt = s.evt := rfl
@[simp] theorem raise_syn : (s.raise code unit arg m).syn = s.syn := rfl
@[simp] theorem raise_slc : (s.raise code unit arg m).slc = s.slc := rfl
@[simp] theorem raise_engs : (s.raise code unit arg m).engs = s.engs := rfl
@[simp] theorem raise_plc : (s.raise code unit arg m).plc = s.plc := rfl
@[simp] theorem raise_weir : (s.raise code unit arg m).weir = s.weir := rfl
@[simp] theorem raise_lcs : (s.raise code unit arg m).lcs = s.lcs := rfl
@[simp] theorem raise_cfl : (s.raise code unit arg m).cfl = s.cfl := rfl
@[simp] theorem raise_host : (s.raise code unit arg m).host = s.host := rfl
@[simp] theorem raise_flash : (s.raise code unit arg m).flash = s.flash := rfl
@[simp] theorem raise_start : (s.raise code unit arg m).start = s.start := rfl
@[simp] theorem raise_free : (s.raise code unit arg m).free = s.free := rfl
@[simp] theorem rg_raise (x : Nat) : (s.raise code unit arg m).rg x = s.rg x := rfl
@[simp] theorem get_raise (x : Fld) : (s.raise code unit arg m).get x = s.get x := rfl
@[simp] theorem isOn_raise (x : Fld) : (s.raise code unit arg m).isOn x = s.isOn x := rfl
@[simp] theorem act_raise (x : Fld) : (s.raise code unit arg m).act x = s.act x := rfl
@[simp] theorem gate_raise (x : Nat) : (s.raise code unit arg m).gate x = s.gate x := rfl
@[simp] theorem eng_raise (x : Nat) : (s.raise code unit arg m).eng x = s.eng x := rfl
@[simp] theorem tpOut_raise (x : Nat) : (s.raise code unit arg m).tpOut x = s.tpOut x := rfl
@[simp] theorem taskSt_raise (x : Nat) : (s.raise code unit arg m).taskSt x = s.taskSt x := rfl
@[simp] theorem chan_raise (x : Nat) : (s.raise code unit arg m).chan x = s.chan x := rfl
@[simp] theorem pipe_raise (x : Nat) : (s.raise code unit arg m).pipe x = s.pipe x := rfl
@[simp] theorem cflPort_raise (x : Nat) : (s.raise code unit arg m).cflPort x = s.cflPort x := rfl

end raiseLaws

section flushLaws
variable (s : State)

@[simp] theorem flush_pending : s.flush.pending = s.pending := rfl
@[simp] theorem flush_regs : s.flush.regs = s.regs := rfl
@[simp] theorem flush_active : s.flush.active = s.active := rfl
@[simp] theorem flush_stage : s.flush.stage = s.stage := rfl
@[simp] theorem flush_late : s.flush.late = s.late := rfl
@[simp] theorem flush_latch : s.flush.latch = s.latch := rfl
@[simp] theorem flush_shadow : s.flush.shadow = s.shadow := rfl
@[simp] theorem flush_mem : s.flush.mem = s.mem := rfl
@[simp] theorem flush_memSt : s.flush.memSt = s.memSt := rfl
@[simp] theorem flush_clk : s.flush.clk = s.clk := rfl
@[simp] theorem flush_pwr : s.flush.pwr = s.pwr := rfl
@[simp] theorem flush_permitPrev : s.flush.permitPrev = s.permitPrev := rfl
@[simp] theorem flush_readData : s.flush.readData = s.readData := rfl
@[simp] theorem flush_fe : s.flush.fe = s.fe := rfl
@[simp] theorem flush_dfe : s.flush.dfe = s.dfe := rfl
@[simp] theorem flush_ch : s.flush.ch = s.ch := rfl
@[simp] theorem flush_perrSeen : s.flush.perrSeen = s.perrSeen := rfl
@[simp] theorem flush_srch : s.flush.srch = s.srch := rfl
@[simp] theorem flush_tb : s.flush.tb = s.tb := rfl
@[simp] theorem flush_tp : s.flush.tp = s.tp := rfl
@[simp] theorem flush_evt : s.flush.evt = s.evt := rfl
@[simp] theorem flush_syn : s.flush.syn = s.syn := rfl
@[simp] theorem flush_slc : s.flush.slc = s.slc := rfl
@[simp] theorem flush_engs : s.flush.engs = s.engs := rfl
@[simp] theorem flush_plc : s.flush.plc = s.plc := rfl
@[simp] theorem flush_weir : s.flush.weir = s.weir := rfl
@[simp] theorem flush_lcs : s.flush.lcs = s.lcs := rfl
@[simp] theorem flush_cfl : s.flush.cfl = s.cfl := rfl
@[simp] theorem flush_host : s.flush.host = s.host := rfl
@[simp] theorem flush_flash : s.flush.flash = s.flash := rfl
@[simp] theorem flush_start : s.flush.start = s.start := rfl
@[simp] theorem flush_free : s.flush.free = s.free := rfl
@[simp] theorem rg_flush (x : Nat) : s.flush.rg x = s.rg x := rfl
@[simp] theorem get_flush (x : Fld) : s.flush.get x = s.get x := rfl
@[simp] theorem isOn_flush (x : Fld) : s.flush.isOn x = s.isOn x := rfl
@[simp] theorem act_flush (x : Fld) : s.flush.act x = s.act x := rfl
@[simp] theorem gate_flush (x : Nat) : s.flush.gate x = s.gate x := rfl
@[simp] theorem eng_flush (x : Nat) : s.flush.eng x = s.eng x := rfl
@[simp] theorem tpOut_flush (x : Nat) : s.flush.tpOut x = s.tpOut x := rfl
@[simp] theorem taskSt_flush (x : Nat) : s.flush.taskSt x = s.taskSt x := rfl
@[simp] theorem chan_flush (x : Nat) : s.flush.chan x = s.chan x := rfl
@[simp] theorem pipe_flush (x : Nat) : s.flush.pipe x = s.pipe x := rfl
@[simp] theorem cflPort_flush (x : Nat) : s.flush.cflPort x = s.cflPort x := rfl

end flushLaws

section memPutLaws
variable (s : State) (a : Nat) (v : Word)

@[simp] theorem memPut_pending : (s.memPut a v).pending = s.pending := rfl
@[simp] theorem memPut_regs : (s.memPut a v).regs = s.regs := rfl
@[simp] theorem memPut_active : (s.memPut a v).active = s.active := rfl
@[simp] theorem memPut_stage : (s.memPut a v).stage = s.stage := rfl
@[simp] theorem memPut_late : (s.memPut a v).late = s.late := rfl
@[simp] theorem memPut_latch : (s.memPut a v).latch = s.latch := rfl
@[simp] theorem memPut_shadow : (s.memPut a v).shadow = s.shadow := rfl
@[simp] theorem memPut_mem : (s.memPut a v).mem = wmPut 0 a v s.mem := rfl
@[simp] theorem memPut_flt : (s.memPut a v).flt = s.flt := rfl
@[simp] theorem memPut_clk : (s.memPut a v).clk = s.clk := rfl
@[simp] theorem memPut_pwr : (s.memPut a v).pwr = s.pwr := rfl
@[simp] theorem memPut_permitPrev : (s.memPut a v).permitPrev = s.permitPrev := rfl
@[simp] theorem memPut_readData : (s.memPut a v).readData = s.readData := rfl
@[simp] theorem memPut_fe : (s.memPut a v).fe = s.fe := rfl
@[simp] theorem memPut_dfe : (s.memPut a v).dfe = s.dfe := rfl
@[simp] theorem memPut_ch : (s.memPut a v).ch = s.ch := rfl
@[simp] theorem memPut_perrSeen : (s.memPut a v).perrSeen = s.perrSeen := rfl
@[simp] theorem memPut_srch : (s.memPut a v).srch = s.srch := rfl
@[simp] theorem memPut_tb : (s.memPut a v).tb = s.tb := rfl
@[simp] theorem memPut_tp : (s.memPut a v).tp = s.tp := rfl
@[simp] theorem memPut_evt : (s.memPut a v).evt = s.evt := rfl
@[simp] theorem memPut_syn : (s.memPut a v).syn = s.syn := rfl
@[simp] theorem memPut_slc : (s.memPut a v).slc = s.slc := rfl
@[simp] theorem memPut_engs : (s.memPut a v).engs = s.engs := rfl
@[simp] theorem memPut_plc : (s.memPut a v).plc = s.plc := rfl
@[simp] theorem memPut_weir : (s.memPut a v).weir = s.weir := rfl
@[simp] theorem memPut_lcs : (s.memPut a v).lcs = s.lcs := rfl
@[simp] theorem memPut_cfl : (s.memPut a v).cfl = s.cfl := rfl
@[simp] theorem memPut_host : (s.memPut a v).host = s.host := rfl
@[simp] theorem memPut_flash : (s.memPut a v).flash = s.flash := rfl
@[simp] theorem memPut_start : (s.memPut a v).start = s.start := rfl
@[simp] theorem memPut_free : (s.memPut a v).free = s.free := rfl
@[simp] theorem rg_memPut (x : Nat) : (s.memPut a v).rg x = s.rg x := rfl
@[simp] theorem get_memPut (x : Fld) : (s.memPut a v).get x = s.get x := rfl
@[simp] theorem isOn_memPut (x : Fld) : (s.memPut a v).isOn x = s.isOn x := rfl
@[simp] theorem act_memPut (x : Fld) : (s.memPut a v).act x = s.act x := rfl
@[simp] theorem gate_memPut (x : Nat) : (s.memPut a v).gate x = s.gate x := rfl
@[simp] theorem eng_memPut (x : Nat) : (s.memPut a v).eng x = s.eng x := rfl
@[simp] theorem tpOut_memPut (x : Nat) : (s.memPut a v).tpOut x = s.tpOut x := rfl
@[simp] theorem taskSt_memPut (x : Nat) : (s.memPut a v).taskSt x = s.taskSt x := rfl
@[simp] theorem chan_memPut (x : Nat) : (s.memPut a v).chan x = s.chan x := rfl
@[simp] theorem pipe_memPut (x : Nat) : (s.memPut a v).pipe x = s.pipe x := rfl
@[simp] theorem cflPort_memPut (x : Nat) : (s.memPut a v).cflPort x = s.cflPort x := rfl

end memPutLaws

section setGateLaws
variable (s : State) (n : Nat) (g : Gate)

@[simp] theorem setGate_pending : (s.setGate n g).pending = s.pending := rfl
@[simp] theorem setGate_regs : (s.setGate n g).regs = s.regs := rfl
@[simp] theorem setGate_active : (s.setGate n g).active = s.active := rfl
@[simp] theorem setGate_stage : (s.setGate n g).stage = s.stage := rfl
@[simp] theorem setGate_late : (s.setGate n g).late = s.late := rfl
@[simp] theorem setGate_latch : (s.setGate n g).latch = s.latch := rfl
@[simp] theorem setGate_shadow : (s.setGate n g).shadow = s.shadow := rfl
@[simp] theorem setGate_mem : (s.setGate n g).mem = s.mem := rfl
@[simp] theorem setGate_memSt : (s.setGate n g).memSt = s.memSt := rfl
@[simp] theorem setGate_flt : (s.setGate n g).flt = s.flt := rfl
@[simp] theorem setGate_clk : (s.setGate n g).clk = s.clk := rfl
@[simp] theorem setGate_pwr : (s.setGate n g).pwr = s.pwr := rfl
@[simp] theorem setGate_permitPrev : (s.setGate n g).permitPrev = s.permitPrev := rfl
@[simp] theorem setGate_readData : (s.setGate n g).readData = s.readData := rfl
@[simp] theorem setGate_fe : (s.setGate n g).fe = s.fe := rfl
@[simp] theorem setGate_dfe : (s.setGate n g).dfe = s.dfe := rfl
@[simp] theorem setGate_ch : (s.setGate n g).ch = s.ch := rfl
@[simp] theorem setGate_perrSeen : (s.setGate n g).perrSeen = s.perrSeen := rfl
@[simp] theorem setGate_srch : (s.setGate n g).srch = s.srch := rfl
@[simp] theorem setGate_tb : (s.setGate n g).tb = s.tb := rfl
@[simp] theorem setGate_tp : (s.setGate n g).tp = s.tp := rfl
@[simp] theorem setGate_evt : (s.setGate n g).evt = s.evt := rfl
@[simp] theorem setGate_syn : (s.setGate n g).syn = s.syn := rfl
@[simp] theorem setGate_slc : (s.setGate n g).slc = { s.slc with gates := listPut s.slc.gates n g {} } := rfl
@[simp] theorem setGate_engs : (s.setGate n g).engs = s.engs := rfl
@[simp] theorem setGate_plc : (s.setGate n g).plc = s.plc := rfl
@[simp] theorem setGate_weir : (s.setGate n g).weir = s.weir := rfl
@[simp] theorem setGate_lcs : (s.setGate n g).lcs = s.lcs := rfl
@[simp] theorem setGate_cfl : (s.setGate n g).cfl = s.cfl := rfl
@[simp] theorem setGate_host : (s.setGate n g).host = s.host := rfl
@[simp] theorem setGate_flash : (s.setGate n g).flash = s.flash := rfl
@[simp] theorem setGate_start : (s.setGate n g).start = s.start := rfl
@[simp] theorem setGate_free : (s.setGate n g).free = s.free := rfl
@[simp] theorem rg_setGate (x : Nat) : (s.setGate n g).rg x = s.rg x := rfl
@[simp] theorem get_setGate (x : Fld) : (s.setGate n g).get x = s.get x := rfl
@[simp] theorem isOn_setGate (x : Fld) : (s.setGate n g).isOn x = s.isOn x := rfl
@[simp] theorem act_setGate (x : Fld) : (s.setGate n g).act x = s.act x := rfl
@[simp] theorem eng_setGate (x : Nat) : (s.setGate n g).eng x = s.eng x := rfl
@[simp] theorem tpOut_setGate (x : Nat) : (s.setGate n g).tpOut x = s.tpOut x := rfl
@[simp] theorem taskSt_setGate (x : Nat) : (s.setGate n g).taskSt x = s.taskSt x := rfl
@[simp] theorem chan_setGate (x : Nat) : (s.setGate n g).chan x = s.chan x := rfl
@[simp] theorem pipe_setGate (x : Nat) : (s.setGate n g).pipe x = s.pipe x := rfl
@[simp] theorem cflPort_setGate (x : Nat) : (s.setGate n g).cflPort x = s.cflPort x := rfl

end setGateLaws

section setEngLaws
variable (s : State) (e : Nat) (g : Engine)

@[simp] theorem setEng_pending : (s.setEng e g).pending = s.pending := rfl
@[simp] theorem setEng_regs : (s.setEng e g).regs = s.regs := rfl
@[simp] theorem setEng_active : (s.setEng e g).active = s.active := rfl
@[simp] theorem setEng_stage : (s.setEng e g).stage = s.stage := rfl
@[simp] theorem setEng_late : (s.setEng e g).late = s.late := rfl
@[simp] theorem setEng_latch : (s.setEng e g).latch = s.latch := rfl
@[simp] theorem setEng_shadow : (s.setEng e g).shadow = s.shadow := rfl
@[simp] theorem setEng_mem : (s.setEng e g).mem = s.mem := rfl
@[simp] theorem setEng_memSt : (s.setEng e g).memSt = s.memSt := rfl
@[simp] theorem setEng_flt : (s.setEng e g).flt = s.flt := rfl
@[simp] theorem setEng_clk : (s.setEng e g).clk = s.clk := rfl
@[simp] theorem setEng_pwr : (s.setEng e g).pwr = s.pwr := rfl
@[simp] theorem setEng_permitPrev : (s.setEng e g).permitPrev = s.permitPrev := rfl
@[simp] theorem setEng_readData : (s.setEng e g).readData = s.readData := rfl
@[simp] theorem setEng_fe : (s.setEng e g).fe = s.fe := rfl
@[simp] theorem setEng_dfe : (s.setEng e g).dfe = s.dfe := rfl
@[simp] theorem setEng_ch : (s.setEng e g).ch = s.ch := rfl
@[simp] theorem setEng_perrSeen : (s.setEng e g).perrSeen = s.perrSeen := rfl
@[simp] theorem setEng_srch : (s.setEng e g).srch = s.srch := rfl
@[simp] theorem setEng_tb : (s.setEng e g).tb = s.tb := rfl
@[simp] theorem setEng_tp : (s.setEng e g).tp = s.tp := rfl
@[simp] theorem setEng_evt : (s.setEng e g).evt = s.evt := rfl
@[simp] theorem setEng_syn : (s.setEng e g).syn = s.syn := rfl
@[simp] theorem setEng_slc : (s.setEng e g).slc = s.slc := rfl
@[simp] theorem setEng_engs : (s.setEng e g).engs = listPut s.engs e g {} := rfl
@[simp] theorem setEng_plc : (s.setEng e g).plc = s.plc := rfl
@[simp] theorem setEng_weir : (s.setEng e g).weir = s.weir := rfl
@[simp] theorem setEng_lcs : (s.setEng e g).lcs = s.lcs := rfl
@[simp] theorem setEng_cfl : (s.setEng e g).cfl = s.cfl := rfl
@[simp] theorem setEng_host : (s.setEng e g).host = s.host := rfl
@[simp] theorem setEng_flash : (s.setEng e g).flash = s.flash := rfl
@[simp] theorem setEng_start : (s.setEng e g).start = s.start := rfl
@[simp] theorem setEng_free : (s.setEng e g).free = s.free := rfl
@[simp] theorem rg_setEng (x : Nat) : (s.setEng e g).rg x = s.rg x := rfl
@[simp] theorem get_setEng (x : Fld) : (s.setEng e g).get x = s.get x := rfl
@[simp] theorem isOn_setEng (x : Fld) : (s.setEng e g).isOn x = s.isOn x := rfl
@[simp] theorem act_setEng (x : Fld) : (s.setEng e g).act x = s.act x := rfl
@[simp] theorem gate_setEng (x : Nat) : (s.setEng e g).gate x = s.gate x := rfl
@[simp] theorem tpOut_setEng (x : Nat) : (s.setEng e g).tpOut x = s.tpOut x := rfl
@[simp] theorem taskSt_setEng (x : Nat) : (s.setEng e g).taskSt x = s.taskSt x := rfl
@[simp] theorem chan_setEng (x : Nat) : (s.setEng e g).chan x = s.chan x := rfl
@[simp] theorem pipe_setEng (x : Nat) : (s.setEng e g).pipe x = s.pipe x := rfl
@[simp] theorem cflPort_setEng (x : Nat) : (s.setEng e g).cflPort x = s.cflPort x := rfl

end setEngLaws

section setTpOutLaws
variable (s : State) (n : Nat) (o : TpOut)

@[simp] theorem setTpOut_pending : (s.setTpOut n o).pending = s.pending := rfl
@[simp] theorem setTpOut_regs : (s.setTpOut n o).regs = s.regs := rfl
@[simp] theorem setTpOut_active : (s.setTpOut n o).active = s.active := rfl
@[simp] theorem setTpOut_stage : (s.setTpOut n o).stage = s.stage := rfl
@[simp] theorem setTpOut_late : (s.setTpOut n o).late = s.late := rfl
@[simp] theorem setTpOut_latch : (s.setTpOut n o).latch = s.latch := rfl
@[simp] theorem setTpOut_shadow : (s.setTpOut n o).shadow = s.shadow := rfl
@[simp] theorem setTpOut_mem : (s.setTpOut n o).mem = s.mem := rfl
@[simp] theorem setTpOut_memSt : (s.setTpOut n o).memSt = s.memSt := rfl
@[simp] theorem setTpOut_flt : (s.setTpOut n o).flt = s.flt := rfl
@[simp] theorem setTpOut_clk : (s.setTpOut n o).clk = s.clk := rfl
@[simp] theorem setTpOut_pwr : (s.setTpOut n o).pwr = s.pwr := rfl
@[simp] theorem setTpOut_permitPrev : (s.setTpOut n o).permitPrev = s.permitPrev := rfl
@[simp] theorem setTpOut_readData : (s.setTpOut n o).readData = s.readData := rfl
@[simp] theorem setTpOut_fe : (s.setTpOut n o).fe = s.fe := rfl
@[simp] theorem setTpOut_dfe : (s.setTpOut n o).dfe = s.dfe := rfl
@[simp] theorem setTpOut_ch : (s.setTpOut n o).ch = s.ch := rfl
@[simp] theorem setTpOut_perrSeen : (s.setTpOut n o).perrSeen = s.perrSeen := rfl
@[simp] theorem setTpOut_srch : (s.setTpOut n o).srch = s.srch := rfl
@[simp] theorem setTpOut_tb : (s.setTpOut n o).tb = s.tb := rfl
@[simp] theorem setTpOut_tp : (s.setTpOut n o).tp = { s.tp with outs := listPut s.tp.outs n o {} } := rfl
@[simp] theorem setTpOut_evt : (s.setTpOut n o).evt = s.evt := rfl
@[simp] theorem setTpOut_syn : (s.setTpOut n o).syn = s.syn := rfl
@[simp] theorem setTpOut_slc : (s.setTpOut n o).slc = s.slc := rfl
@[simp] theorem setTpOut_engs : (s.setTpOut n o).engs = s.engs := rfl
@[simp] theorem setTpOut_plc : (s.setTpOut n o).plc = s.plc := rfl
@[simp] theorem setTpOut_weir : (s.setTpOut n o).weir = s.weir := rfl
@[simp] theorem setTpOut_lcs : (s.setTpOut n o).lcs = s.lcs := rfl
@[simp] theorem setTpOut_cfl : (s.setTpOut n o).cfl = s.cfl := rfl
@[simp] theorem setTpOut_host : (s.setTpOut n o).host = s.host := rfl
@[simp] theorem setTpOut_flash : (s.setTpOut n o).flash = s.flash := rfl
@[simp] theorem setTpOut_start : (s.setTpOut n o).start = s.start := rfl
@[simp] theorem setTpOut_free : (s.setTpOut n o).free = s.free := rfl
@[simp] theorem rg_setTpOut (x : Nat) : (s.setTpOut n o).rg x = s.rg x := rfl
@[simp] theorem get_setTpOut (x : Fld) : (s.setTpOut n o).get x = s.get x := rfl
@[simp] theorem isOn_setTpOut (x : Fld) : (s.setTpOut n o).isOn x = s.isOn x := rfl
@[simp] theorem act_setTpOut (x : Fld) : (s.setTpOut n o).act x = s.act x := rfl
@[simp] theorem gate_setTpOut (x : Nat) : (s.setTpOut n o).gate x = s.gate x := rfl
@[simp] theorem eng_setTpOut (x : Nat) : (s.setTpOut n o).eng x = s.eng x := rfl
@[simp] theorem taskSt_setTpOut (x : Nat) : (s.setTpOut n o).taskSt x = s.taskSt x := rfl
@[simp] theorem chan_setTpOut (x : Nat) : (s.setTpOut n o).chan x = s.chan x := rfl
@[simp] theorem pipe_setTpOut (x : Nat) : (s.setTpOut n o).pipe x = s.pipe x := rfl
@[simp] theorem cflPort_setTpOut (x : Nat) : (s.setTpOut n o).cflPort x = s.cflPort x := rfl

end setTpOutLaws

section setTaskStLaws
variable (s : State) (t : Nat) (k : TaskSt)

@[simp] theorem setTaskSt_pending : (s.setTaskSt t k).pending = s.pending := rfl
@[simp] theorem setTaskSt_regs : (s.setTaskSt t k).regs = s.regs := rfl
@[simp] theorem setTaskSt_active : (s.setTaskSt t k).active = s.active := rfl
@[simp] theorem setTaskSt_stage : (s.setTaskSt t k).stage = s.stage := rfl
@[simp] theorem setTaskSt_late : (s.setTaskSt t k).late = s.late := rfl
@[simp] theorem setTaskSt_latch : (s.setTaskSt t k).latch = s.latch := rfl
@[simp] theorem setTaskSt_shadow : (s.setTaskSt t k).shadow = s.shadow := rfl
@[simp] theorem setTaskSt_mem : (s.setTaskSt t k).mem = s.mem := rfl
@[simp] theorem setTaskSt_memSt : (s.setTaskSt t k).memSt = s.memSt := rfl
@[simp] theorem setTaskSt_flt : (s.setTaskSt t k).flt = s.flt := rfl
@[simp] theorem setTaskSt_clk : (s.setTaskSt t k).clk = s.clk := rfl
@[simp] theorem setTaskSt_pwr : (s.setTaskSt t k).pwr = s.pwr := rfl
@[simp] theorem setTaskSt_permitPrev : (s.setTaskSt t k).permitPrev = s.permitPrev := rfl
@[simp] theorem setTaskSt_readData : (s.setTaskSt t k).readData = s.readData := rfl
@[simp] theorem setTaskSt_fe : (s.setTaskSt t k).fe = s.fe := rfl
@[simp] theorem setTaskSt_dfe : (s.setTaskSt t k).dfe = s.dfe := rfl
@[simp] theorem setTaskSt_ch : (s.setTaskSt t k).ch = s.ch := rfl
@[simp] theorem setTaskSt_perrSeen : (s.setTaskSt t k).perrSeen = s.perrSeen := rfl
@[simp] theorem setTaskSt_srch : (s.setTaskSt t k).srch = s.srch := rfl
@[simp] theorem setTaskSt_tb : (s.setTaskSt t k).tb = s.tb := rfl
@[simp] theorem setTaskSt_tp : (s.setTaskSt t k).tp = s.tp := rfl
@[simp] theorem setTaskSt_evt : (s.setTaskSt t k).evt = s.evt := rfl
@[simp] theorem setTaskSt_syn : (s.setTaskSt t k).syn = s.syn := rfl
@[simp] theorem setTaskSt_slc : (s.setTaskSt t k).slc = s.slc := rfl
@[simp] theorem setTaskSt_engs : (s.setTaskSt t k).engs = s.engs := rfl
@[simp] theorem setTaskSt_plc : (s.setTaskSt t k).plc = { s.plc with tasks := listPut s.plc.tasks t k {} } := rfl
@[simp] theorem setTaskSt_weir : (s.setTaskSt t k).weir = s.weir := rfl
@[simp] theorem setTaskSt_lcs : (s.setTaskSt t k).lcs = s.lcs := rfl
@[simp] theorem setTaskSt_cfl : (s.setTaskSt t k).cfl = s.cfl := rfl
@[simp] theorem setTaskSt_host : (s.setTaskSt t k).host = s.host := rfl
@[simp] theorem setTaskSt_flash : (s.setTaskSt t k).flash = s.flash := rfl
@[simp] theorem setTaskSt_start : (s.setTaskSt t k).start = s.start := rfl
@[simp] theorem setTaskSt_free : (s.setTaskSt t k).free = s.free := rfl
@[simp] theorem rg_setTaskSt (x : Nat) : (s.setTaskSt t k).rg x = s.rg x := rfl
@[simp] theorem get_setTaskSt (x : Fld) : (s.setTaskSt t k).get x = s.get x := rfl
@[simp] theorem isOn_setTaskSt (x : Fld) : (s.setTaskSt t k).isOn x = s.isOn x := rfl
@[simp] theorem act_setTaskSt (x : Fld) : (s.setTaskSt t k).act x = s.act x := rfl
@[simp] theorem gate_setTaskSt (x : Nat) : (s.setTaskSt t k).gate x = s.gate x := rfl
@[simp] theorem eng_setTaskSt (x : Nat) : (s.setTaskSt t k).eng x = s.eng x := rfl
@[simp] theorem tpOut_setTaskSt (x : Nat) : (s.setTaskSt t k).tpOut x = s.tpOut x := rfl
@[simp] theorem chan_setTaskSt (x : Nat) : (s.setTaskSt t k).chan x = s.chan x := rfl
@[simp] theorem pipe_setTaskSt (x : Nat) : (s.setTaskSt t k).pipe x = s.pipe x := rfl
@[simp] theorem cflPort_setTaskSt (x : Nat) : (s.setTaskSt t k).cflPort x = s.cflPort x := rfl

end setTaskStLaws

section setChanLaws
variable (s : State) (c : Nat) (h : Chan)

@[simp] theorem setChan_pending : (s.setChan c h).pending = s.pending := rfl
@[simp] theorem setChan_regs : (s.setChan c h).regs = s.regs := rfl
@[simp] theorem setChan_active : (s.setChan c h).active = s.active := rfl
@[simp] theorem setChan_stage : (s.setChan c h).stage = s.stage := rfl
@[simp] theorem setChan_late : (s.setChan c h).late = s.late := rfl
@[simp] theorem setChan_latch : (s.setChan c h).latch = s.latch := rfl
@[simp] theorem setChan_shadow : (s.setChan c h).shadow = s.shadow := rfl
@[simp] theorem setChan_mem : (s.setChan c h).mem = s.mem := rfl
@[simp] theorem setChan_memSt : (s.setChan c h).memSt = s.memSt := rfl
@[simp] theorem setChan_flt : (s.setChan c h).flt = s.flt := rfl
@[simp] theorem setChan_clk : (s.setChan c h).clk = s.clk := rfl
@[simp] theorem setChan_pwr : (s.setChan c h).pwr = s.pwr := rfl
@[simp] theorem setChan_permitPrev : (s.setChan c h).permitPrev = s.permitPrev := rfl
@[simp] theorem setChan_readData : (s.setChan c h).readData = s.readData := rfl
@[simp] theorem setChan_fe : (s.setChan c h).fe = s.fe := rfl
@[simp] theorem setChan_dfe : (s.setChan c h).dfe = s.dfe := rfl
@[simp] theorem setChan_ch : (s.setChan c h).ch = { s.ch with chans := listPut s.ch.chans c h {} } := rfl
@[simp] theorem setChan_perrSeen : (s.setChan c h).perrSeen = s.perrSeen := rfl
@[simp] theorem setChan_srch : (s.setChan c h).srch = s.srch := rfl
@[simp] theorem setChan_tb : (s.setChan c h).tb = s.tb := rfl
@[simp] theorem setChan_tp : (s.setChan c h).tp = s.tp := rfl
@[simp] theorem setChan_evt : (s.setChan c h).evt = s.evt := rfl
@[simp] theorem setChan_syn : (s.setChan c h).syn = s.syn := rfl
@[simp] theorem setChan_slc : (s.setChan c h).slc = s.slc := rfl
@[simp] theorem setChan_engs : (s.setChan c h).engs = s.engs := rfl
@[simp] theorem setChan_plc : (s.setChan c h).plc = s.plc := rfl
@[simp] theorem setChan_weir : (s.setChan c h).weir = s.weir := rfl
@[simp] theorem setChan_lcs : (s.setChan c h).lcs = s.lcs := rfl
@[simp] theorem setChan_cfl : (s.setChan c h).cfl = s.cfl := rfl
@[simp] theorem setChan_host : (s.setChan c h).host = s.host := rfl
@[simp] theorem setChan_flash : (s.setChan c h).flash = s.flash := rfl
@[simp] theorem setChan_start : (s.setChan c h).start = s.start := rfl
@[simp] theorem setChan_free : (s.setChan c h).free = s.free := rfl
@[simp] theorem rg_setChan (x : Nat) : (s.setChan c h).rg x = s.rg x := rfl
@[simp] theorem get_setChan (x : Fld) : (s.setChan c h).get x = s.get x := rfl
@[simp] theorem isOn_setChan (x : Fld) : (s.setChan c h).isOn x = s.isOn x := rfl
@[simp] theorem act_setChan (x : Fld) : (s.setChan c h).act x = s.act x := rfl
@[simp] theorem gate_setChan (x : Nat) : (s.setChan c h).gate x = s.gate x := rfl
@[simp] theorem eng_setChan (x : Nat) : (s.setChan c h).eng x = s.eng x := rfl
@[simp] theorem tpOut_setChan (x : Nat) : (s.setChan c h).tpOut x = s.tpOut x := rfl
@[simp] theorem taskSt_setChan (x : Nat) : (s.setChan c h).taskSt x = s.taskSt x := rfl
@[simp] theorem pipe_setChan (x : Nat) : (s.setChan c h).pipe x = s.pipe x := rfl
@[simp] theorem cflPort_setChan (x : Nat) : (s.setChan c h).cflPort x = s.cflPort x := rfl

end setChanLaws

section setPipeLaws
variable (s : State) (k : Nat) (p : Pipe)

@[simp] theorem setPipe_pending : (s.setPipe k p).pending = s.pending := rfl
@[simp] theorem setPipe_regs : (s.setPipe k p).regs = s.regs := rfl
@[simp] theorem setPipe_active : (s.setPipe k p).active = s.active := rfl
@[simp] theorem setPipe_stage : (s.setPipe k p).stage = s.stage := rfl
@[simp] theorem setPipe_late : (s.setPipe k p).late = s.late := rfl
@[simp] theorem setPipe_latch : (s.setPipe k p).latch = s.latch := rfl
@[simp] theorem setPipe_shadow : (s.setPipe k p).shadow = s.shadow := rfl
@[simp] theorem setPipe_mem : (s.setPipe k p).mem = s.mem := rfl
@[simp] theorem setPipe_memSt : (s.setPipe k p).memSt = s.memSt := rfl
@[simp] theorem setPipe_flt : (s.setPipe k p).flt = s.flt := rfl
@[simp] theorem setPipe_clk : (s.setPipe k p).clk = s.clk := rfl
@[simp] theorem setPipe_pwr : (s.setPipe k p).pwr = s.pwr := rfl
@[simp] theorem setPipe_permitPrev : (s.setPipe k p).permitPrev = s.permitPrev := rfl
@[simp] theorem setPipe_readData : (s.setPipe k p).readData = s.readData := rfl
@[simp] theorem setPipe_fe : (s.setPipe k p).fe = s.fe := rfl
@[simp] theorem setPipe_dfe : (s.setPipe k p).dfe = s.dfe := rfl
@[simp] theorem setPipe_ch : (s.setPipe k p).ch = s.ch := rfl
@[simp] theorem setPipe_perrSeen : (s.setPipe k p).perrSeen = s.perrSeen := rfl
@[simp] theorem setPipe_srch : (s.setPipe k p).srch = { s.srch with pipes := listPut s.srch.pipes k p {} } := rfl
@[simp] theorem setPipe_tb : (s.setPipe k p).tb = s.tb := rfl
@[simp] theorem setPipe_tp : (s.setPipe k p).tp = s.tp := rfl
@[simp] theorem setPipe_evt : (s.setPipe k p).evt = s.evt := rfl
@[simp] theorem setPipe_syn : (s.setPipe k p).syn = s.syn := rfl
@[simp] theorem setPipe_slc : (s.setPipe k p).slc = s.slc := rfl
@[simp] theorem setPipe_engs : (s.setPipe k p).engs = s.engs := rfl
@[simp] theorem setPipe_plc : (s.setPipe k p).plc = s.plc := rfl
@[simp] theorem setPipe_weir : (s.setPipe k p).weir = s.weir := rfl
@[simp] theorem setPipe_lcs : (s.setPipe k p).lcs = s.lcs := rfl
@[simp] theorem setPipe_cfl : (s.setPipe k p).cfl = s.cfl := rfl
@[simp] theorem setPipe_host : (s.setPipe k p).host = s.host := rfl
@[simp] theorem setPipe_flash : (s.setPipe k p).flash = s.flash := rfl
@[simp] theorem setPipe_start : (s.setPipe k p).start = s.start := rfl
@[simp] theorem setPipe_free : (s.setPipe k p).free = s.free := rfl
@[simp] theorem rg_setPipe (x : Nat) : (s.setPipe k p).rg x = s.rg x := rfl
@[simp] theorem get_setPipe (x : Fld) : (s.setPipe k p).get x = s.get x := rfl
@[simp] theorem isOn_setPipe (x : Fld) : (s.setPipe k p).isOn x = s.isOn x := rfl
@[simp] theorem act_setPipe (x : Fld) : (s.setPipe k p).act x = s.act x := rfl
@[simp] theorem gate_setPipe (x : Nat) : (s.setPipe k p).gate x = s.gate x := rfl
@[simp] theorem eng_setPipe (x : Nat) : (s.setPipe k p).eng x = s.eng x := rfl
@[simp] theorem tpOut_setPipe (x : Nat) : (s.setPipe k p).tpOut x = s.tpOut x := rfl
@[simp] theorem taskSt_setPipe (x : Nat) : (s.setPipe k p).taskSt x = s.taskSt x := rfl
@[simp] theorem chan_setPipe (x : Nat) : (s.setPipe k p).chan x = s.chan x := rfl
@[simp] theorem cflPort_setPipe (x : Nat) : (s.setPipe k p).cflPort x = s.cflPort x := rfl

end setPipeLaws

section setCflPortLaws
variable (s : State) (p : Nat) (c : CflPort)

@[simp] theorem setCflPort_pending : (s.setCflPort p c).pending = s.pending := rfl
@[simp] theorem setCflPort_regs : (s.setCflPort p c).regs = s.regs := rfl
@[simp] theorem setCflPort_active : (s.setCflPort p c).active = s.active := rfl
@[simp] theorem setCflPort_stage : (s.setCflPort p c).stage = s.stage := rfl
@[simp] theorem setCflPort_late : (s.setCflPort p c).late = s.late := rfl
@[simp] theorem setCflPort_latch : (s.setCflPort p c).latch = s.latch := rfl
@[simp] theorem setCflPort_shadow : (s.setCflPort p c).shadow = s.shadow := rfl
@[simp] theorem setCflPort_mem : (s.setCflPort p c).mem = s.mem := rfl
@[simp] theorem setCflPort_memSt : (s.setCflPort p c).memSt = s.memSt := rfl
@[simp] theorem setCflPort_flt : (s.setCflPort p c).flt = s.flt := rfl
@[simp] theorem setCflPort_clk : (s.setCflPort p c).clk = s.clk := rfl
@[simp] theorem setCflPort_pwr : (s.setCflPort p c).pwr = s.pwr := rfl
@[simp] theorem setCflPort_permitPrev : (s.setCflPort p c).permitPrev = s.permitPrev := rfl
@[simp] theorem setCflPort_readData : (s.setCflPort p c).readData = s.readData := rfl
@[simp] theorem setCflPort_fe : (s.setCflPort p c).fe = s.fe := rfl
@[simp] theorem setCflPort_dfe : (s.setCflPort p c).dfe = s.dfe := rfl
@[simp] theorem setCflPort_ch : (s.setCflPort p c).ch = s.ch := rfl
@[simp] theorem setCflPort_perrSeen : (s.setCflPort p c).perrSeen = s.perrSeen := rfl
@[simp] theorem setCflPort_srch : (s.setCflPort p c).srch = s.srch := rfl
@[simp] theorem setCflPort_tb : (s.setCflPort p c).tb = s.tb := rfl
@[simp] theorem setCflPort_tp : (s.setCflPort p c).tp = s.tp := rfl
@[simp] theorem setCflPort_evt : (s.setCflPort p c).evt = s.evt := rfl
@[simp] theorem setCflPort_syn : (s.setCflPort p c).syn = s.syn := rfl
@[simp] theorem setCflPort_slc : (s.setCflPort p c).slc = s.slc := rfl
@[simp] theorem setCflPort_engs : (s.setCflPort p c).engs = s.engs := rfl
@[simp] theorem setCflPort_plc : (s.setCflPort p c).plc = s.plc := rfl
@[simp] theorem setCflPort_weir : (s.setCflPort p c).weir = s.weir := rfl
@[simp] theorem setCflPort_lcs : (s.setCflPort p c).lcs = s.lcs := rfl
@[simp] theorem setCflPort_cfl : (s.setCflPort p c).cfl = { s.cfl with ports := listPut s.cfl.ports p c {} } := rfl
@[simp] theorem setCflPort_host : (s.setCflPort p c).host = s.host := rfl
@[simp] theorem setCflPort_flash : (s.setCflPort p c).flash = s.flash := rfl
@[simp] theorem setCflPort_start : (s.setCflPort p c).start = s.start := rfl
@[simp] theorem setCflPort_free : (s.setCflPort p c).free = s.free := rfl
@[simp] theorem rg_setCflPort (x : Nat) : (s.setCflPort p c).rg x = s.rg x := rfl
@[simp] theorem get_setCflPort (x : Fld) : (s.setCflPort p c).get x = s.get x := rfl
@[simp] theorem isOn_setCflPort (x : Fld) : (s.setCflPort p c).isOn x = s.isOn x := rfl
@[simp] theorem act_setCflPort (x : Fld) : (s.setCflPort p c).act x = s.act x := rfl
@[simp] theorem gate_setCflPort (x : Nat) : (s.setCflPort p c).gate x = s.gate x := rfl
@[simp] theorem eng_setCflPort (x : Nat) : (s.setCflPort p c).eng x = s.eng x := rfl
@[simp] theorem tpOut_setCflPort (x : Nat) : (s.setCflPort p c).tpOut x = s.tpOut x := rfl
@[simp] theorem taskSt_setCflPort (x : Nat) : (s.setCflPort p c).taskSt x = s.taskSt x := rfl
@[simp] theorem chan_setCflPort (x : Nat) : (s.setCflPort p c).chan x = s.chan x := rfl
@[simp] theorem pipe_setCflPort (x : Nat) : (s.setCflPort p c).pipe x = s.pipe x := rfl

end setCflPortLaws

/-! ### Accessors of lists after an update of them -/

theorem gate_setGate (s : State) (i : Nat) (v : Gate) (j : Nat) :
    (s.setGate i v).gate j = if j = i then v else s.gate j := getD_listPut ..

@[simp] theorem gate_setGate_self (s : State) (i : Nat) (v : Gate) : (s.setGate i v).gate i = v := by
  rw [gate_setGate, if_pos rfl]

theorem gate_setGate_ne (s : State) (i : Nat) (v : Gate) (j : Nat) (h : j ≠ i) : (s.setGate i v).gate j = s.gate j := by
  rw [gate_setGate, if_neg h]

theorem eng_setEng (s : State) (i : Nat) (v : Engine) (j : Nat) :
    (s.setEng i v).eng j = if j = i then v else s.eng j := getD_listPut ..

@[simp] theorem eng_setEng_self (s : State) (i : Nat) (v : Engine) : (s.setEng i v).eng i = v := by
  rw [eng_setEng, if_pos rfl]

theorem eng_setEng_ne (s : State) (i : Nat) (v : Engine) (j : Nat) (h : j ≠ i) : (s.setEng i v).eng j = s.eng j := by
  rw [eng_setEng, if_neg h]

theorem tpOut_setTpOut (s : State) (i : Nat) (v : TpOut) (j : Nat) :
    (s.setTpOut i v).tpOut j = if j = i then v else s.tpOut j := getD_listPut ..

@[simp] theorem tpOut_setTpOut_self (s : State) (i : Nat) (v : TpOut) : (s.setTpOut i v).tpOut i = v := by
  rw [tpOut_setTpOut, if_pos rfl]

theorem tpOut_setTpOut_ne (s : State) (i : Nat) (v : TpOut) (j : Nat) (h : j ≠ i) : (s.setTpOut i v).tpOut j = s.tpOut j := by
  rw [tpOut_setTpOut, if_neg h]

theorem taskSt_setTaskSt (s : State) (i : Nat) (v : TaskSt) (j : Nat) :
    (s.setTaskSt i v).taskSt j = if j = i then v else s.taskSt j := getD_listPut ..

@[simp] theorem taskSt_setTaskSt_self (s : State) (i : Nat) (v : TaskSt) : (s.setTaskSt i v).taskSt i = v := by
  rw [taskSt_setTaskSt, if_pos rfl]

theorem taskSt_setTaskSt_ne (s : State) (i : Nat) (v : TaskSt) (j : Nat) (h : j ≠ i) : (s.setTaskSt i v).taskSt j = s.taskSt j := by
  rw [taskSt_setTaskSt, if_neg h]

theorem chan_setChan (s : State) (i : Nat) (v : Chan) (j : Nat) :
    (s.setChan i v).chan j = if j = i then v else s.chan j := getD_listPut ..

@[simp] theorem chan_setChan_self (s : State) (i : Nat) (v : Chan) : (s.setChan i v).chan i = v := by
  rw [chan_setChan, if_pos rfl]

theorem chan_setChan_ne (s : State) (i : Nat) (v : Chan) (j : Nat) (h : j ≠ i) : (s.setChan i v).chan j = s.chan j := by
  rw [chan_setChan, if_neg h]

theorem pipe_setPipe (s : State) (i : Nat) (v : Pipe) (j : Nat) :
    (s.setPipe i v).pipe j = if j = i then v else s.pipe j := getD_listPut ..

@[simp] theorem pipe_setPipe_self (s : State) (i : Nat) (v : Pipe) : (s.setPipe i v).pipe i = v := by
  rw [pipe_setPipe, if_pos rfl]

theorem pipe_setPipe_ne (s : State) (i : Nat) (v : Pipe) (j : Nat) (h : j ≠ i) : (s.setPipe i v).pipe j = s.pipe j := by
  rw [pipe_setPipe, if_neg h]

theorem cflPort_setCflPort (s : State) (i : Nat) (v : CflPort) (j : Nat) :
    (s.setCflPort i v).cflPort j = if j = i then v else s.cflPort j := getD_listPut ..

@[simp] theorem cflPort_setCflPort_self (s : State) (i : Nat) (v : CflPort) : (s.setCflPort i v).cflPort i = v := by
  rw [cflPort_setCflPort, if_pos rfl]

theorem cflPort_setCflPort_ne (s : State) (i : Nat) (v : CflPort) (j : Nat) (h : j ≠ i) : (s.setCflPort i v).cflPort j = s.cflPort j := by
  rw [cflPort_setCflPort, if_neg h]

end Sys2Proof.Machine
end

