-- ==== Sys2Proof/Laws/Clock.lean ====
section
/-!
SUPPORT. What time passing can do to the block: the clocks run, the registers of units being woken change, and nothing else.
-/

namespace Sys2Proof.Laws

open Sys2Proof.Machine

/-- A field set changes registers only. -/
theorem putB_frame (s : State) (f : Fld) (b : Bool) : s.putB f b = { s with regs := (s.putB f b).regs } := rfl

theorem powerOn_frame (s : State) (u : Nat) : s.powerOn u = { s with regs := (s.powerOn u).regs } := by
  unfold State.powerOn
  split <;> rfl

theorem powerOns_frame (l : List (Nat × Nat)) : ∀ s : State,
    l.foldl (fun s e => s.powerOn e.1) s = { s with regs := (l.foldl (fun s e => s.powerOn e.1) s).regs } := by
  induction l with
  | nil => intro s; rfl
  | cons e t ih =>
    intro s
    rw [List.foldl_cons, ih, powerOn_frame s e.1]

theorem wakeSettle_frame (s : State) :
    s.wakeSettle = { s with clk := { s.clk with waking := s.wakeSettle.clk.waking }, regs := s.wakeSettle.regs } := by
  unfold State.wakeSettle
  split
  · rfl
  · simp only []
    rw [powerOns_frame]

/-- Clocks that pass change the clock state, and registers where a unit is being woken. -/
theorem elapse_frame (s : State) (n : Nat) : s.elapse n = { s with clk := (s.elapse n).clk, regs := (s.elapse n).regs } := by
  unfold State.elapse
  rw [wakeSettle_frame]

@[simp] theorem wakeSettle_quiet (s : State) (h : s.clk.waking = []) : s.wakeSettle = s := by simp [State.wakeSettle, h]

/-- With no unit being woken only the clock state changes. -/
theorem elapse_quiet (s : State) (n : Nat) (h : s.clk.waking = []) : s.elapse n = { s with clk := (s.elapse n).clk } := by
  simp [State.elapse, h]

theorem elapse_clk (s : State) (n : Nat) : (s.elapse n).clk = { s.clk with
    phase := if s.clk.running then s.clk.phase + n else 0, total := s.clk.total + n
    age := s.clk.age + n * s.ageStep, acc := s.clk.acc + s.advanced n
    third := if s.clk.tbRun && !s.clk.limp then (s.clk.third + n) % 3 else s.clk.third
    waking := (s.elapse n).clk.waking } := by
  unfold State.elapse
  rw [wakeSettle_frame]

@[simp] theorem elapse_total (s : State) (n : Nat) : (s.elapse n).clk.total = s.clk.total + n := by rw [elapse_clk]
@[simp] theorem elapse_age (s : State) (n : Nat) : (s.elapse n).clk.age = s.clk.age + n * s.ageStep := by rw [elapse_clk]
@[simp] theorem elapse_acc (s : State) (n : Nat) : (s.elapse n).clk.acc = s.clk.acc + s.advanced n := by rw [elapse_clk]
@[simp] theorem elapse_tickLen (s : State) (n : Nat) : (s.elapse n).clk.tickLen = s.clk.tickLen := by rw [elapse_clk]
@[simp] theorem elapse_tickCount (s : State) (n : Nat) : (s.elapse n).clk.tickCount = s.clk.tickCount := by rw [elapse_clk]
@[simp] theorem elapse_limp (s : State) (n : Nat) : (s.elapse n).clk.limp = s.clk.limp := by rw [elapse_clk]
@[simp] theorem elapse_running (s : State) (n : Nat) : (s.elapse n).clk.running = s.clk.running := by rw [elapse_clk]
@[simp] theorem elapse_mem (s : State) (n : Nat) : (s.elapse n).mem = s.mem := by rw [elapse_frame]
@[simp] theorem elapse_active (s : State) (n : Nat) : (s.elapse n).active = s.active := by rw [elapse_frame]
@[simp] theorem elapse_flt (s : State) (n : Nat) : (s.elapse n).flt = s.flt := by rw [elapse_frame]
@[simp] theorem elapse_pending (s : State) (n : Nat) : (s.elapse n).pending = s.pending := by rw [elapse_frame]
@[simp] theorem elapse_engs (s : State) (n : Nat) : (s.elapse n).engs = s.engs := by rw [elapse_frame]
@[simp] theorem elapse_fe (s : State) (n : Nat) : (s.elapse n).fe = s.fe := by rw [elapse_frame]
@[simp] theorem elapse_dfe (s : State) (n : Nat) : (s.elapse n).dfe = s.dfe := by rw [elapse_frame]

/-! ### Running to an instant: the state as it is, or after clocks that end before the next tick edge -/

theorem runTo_cases {s r : State} {t : Nat} (h : s.runTo t = some r) :
    (r = s ∧ t ≤ s.clk.acc) ∨ (r = s.elapse (s.clocksTo t) ∧ s.inTick (s.clocksTo t) = true ∧ s.clk.acc < t) := by
  unfold State.runTo at h
  split at h
  · rename_i hle; exact .inl ⟨(Option.some.inj h).symm, hle⟩
  · split at h
    · cases h
    · simp only [] at h
      split at h
      · exact .inr ⟨(Option.some.inj h).symm, ‹_›, by omega⟩
      · cases h

theorem ageStep_pos (s : State) : 0 < s.ageStep := by unfold State.ageStep; split <;> decide

/-- The clocks that `runAge` runs bring `ClkSt.age` to `t`, and no later than one clock beyond. -/
theorem runAge_cases {s r : State} {t : Nat} (h : s.runAge t = some r) :
    t ≤ r.clk.age ∧ ((r = s ∧ t ≤ s.clk.age) ∨ ∃ n, r = s.elapse n ∧ s.inTick n = true ∧ 0 < n ∧ r.clk.age < t + s.ageStep) := by
  unfold State.runAge at h
  split at h
  · rename_i hle
    cases h
    exact ⟨hle, .inl ⟨rfl, hle⟩⟩
  · rename_i hgt
    simp only [] at h
    split at h
    · cases h
      have hp := ageStep_pos s
      have h1 : (t - s.clk.age + s.ageStep - 1) / s.ageStep * s.ageStep ≤ t - s.clk.age + s.ageStep - 1 := Nat.div_mul_le_self ..
      have h2 : t - s.clk.age + s.ageStep - 1 < ((t - s.clk.age + s.ageStep - 1) / s.ageStep + 1) * s.ageStep :=
        Nat.lt_mul_of_div_lt (Nat.lt_succ_self _) hp
      have hin := ‹s.inTick _ = true›
      generalize (t - s.clk.age + s.ageStep - 1) / s.ageStep = n at h1 h2 hin ⊢
      rw [Nat.add_mul, Nat.one_mul] at h2
      have h3 : 0 < n := by
        rcases Nat.eq_zero_or_pos n with h0 | h0
        · rw [h0] at h2; omega
        · exact h0
      refine ⟨?_, .inr ⟨n, rfl, hin, h3, ?_⟩⟩ <;> rw [elapse_age] <;> omega
    · cases h

/-- What is due at `t` happens on the state as it is or after clocks, with `ClkSt.age` at `t` or past it; or it does not happen. -/
theorem dueAt_cases (s : State) (t : Nat) (f : State → State) :
    (s.runAge t = none ∧ s.dueAt t f = s) ∨
      ∃ r, s.runAge t = some r ∧ t ≤ r.clk.age ∧ s.dueAt t f = f r ∧ (r = s ∨ ∃ n, r = s.elapse n) := by
  unfold State.dueAt
  cases h : s.runAge t with
  | none => exact .inl ⟨rfl, rfl⟩
  | some r =>
    obtain ⟨hle, ⟨rfl, -⟩ | ⟨n, rfl, -⟩⟩ := runAge_cases h
    · exact .inr ⟨_, rfl, hle, rfl, .inl rfl⟩
    · exact .inr ⟨_, rfl, hle, rfl, .inr ⟨n, rfl⟩⟩

theorem dueClock_cases (s : State) (t : Nat) (f : State → State) :
    (t ≤ s.clk.total ∧ s.dueClock t f = f s) ∨
      (s.clk.total < t ∧ s.inTick (t - s.clk.total) = true ∧ s.dueClock t f = f (s.elapse (t - s.clk.total))) ∨
      (s.clk.total < t ∧ s.inTick (t - s.clk.total) = false ∧ s.dueClock t f = s) := by
  unfold State.dueClock
  simp only []
  split
  · exact .inl ⟨by omega, rfl⟩
  · split
    · exact .inr (.inl ⟨by omega, ‹_›, rfl⟩)
    · exact .inr (.inr ⟨by omega, Bool.eq_false_iff.mpr ‹_›, rfl⟩)

theorem inPhase_cases (s : State) (a b : Nat) (f : State → State) :
    s.inPhase a b f = s ∨ ∃ n, s.clk.running = true ∧ s.inPhase a b f = f (s.elapse n) := by
  unfold State.inPhase
  simp only []
  split
  · exact .inl rfl
  · rename_i h; exact .inr ⟨_, by simp at h; exact h.1, rfl⟩

theorem runSamples_cases (s : State) (k : Nat) : s.runSamples k = s ∨ ∃ n, s.runSamples k = s.elapse n := by
  unfold State.runSamples
  simp only []
  split
  · exact .inl rfl
  · exact .inr ⟨_, rfl⟩

theorem runBefore_cases {s r : State} {t : Int} {den x : Nat} (h : s.runBefore t den = some (r, x)) :
    (r = s ∧ x = 0 ∧ t < s.clk.acc * den) ∨ ∃ n, r = s.elapse n ∧ s.inTick n = true := by
  unfold State.runBefore at h
  simp only [] at h
  split at h
  · rename_i hlt
    obtain ⟨rfl, rfl⟩ := Prod.mk.inj (Option.some.inj h)
    exact .inl ⟨rfl, rfl, by omega⟩
  · split at h
    · cases h
    · have hn : ∀ n, (if s.inTick n = true then some (s.elapse n, (t - s.clk.acc * den - (s.advanced n * den : Nat)).toNat) else none) =
          some (r, x) → ∃ n, r = s.elapse n ∧ s.inTick n = true := by
        intro n hn
        split at hn
        · exact ⟨n, (Prod.mk.inj (Option.some.inj hn)).1.symm, ‹_›⟩
        · cases hn
      exact .inr (hn _ h)

/-- Samples that a path takes change the conditioning state, and the clocks run to their arrival. -/
theorem takeSamples_frame (s : State) (i : Nat) (l : List Adc) :
    s.takeSamples i l = { s with
      clk := (s.takeSamples i l).clk, regs := (s.takeSamples i l).regs, dfe := (s.takeSamples i l).dfe } := by
  unfold State.takeSamples
  simp only []
  generalize hs : ({ s with dfe := _ } : State) = u
  have hu : u = { s with dfe := u.dfe } := by rw [← hs]
  rcases runSamples_cases u ((s.dfe.taken.getD i []).length + _) with h | ⟨n, h⟩
  · rw [h, hu]
  · rw [h, elapse_frame, hu]

@[simp] theorem runSamples_dfe (s : State) (k : Nat) : (s.runSamples k).dfe = s.dfe := by
  rcases runSamples_cases s k with h | ⟨n, h⟩ <;> simp [h]

/-- A path to which nothing came keeps its samples. -/
theorem takeSamples_nil (s : State) (i : Nat) : (s.takeSamples i []).dfe = { s.dfe with
    taken := listPut s.dfe.taken i (s.dfe.taken.getD i []) [], win := listPut s.dfe.win i (s.dfe.win.getD i []) [] } := by
  have h : ∀ n, (List.take n ([] : List Adc)).zipIdx = [] := fun n => by cases n <;> rfl
  simp only [State.takeSamples, runSamples_dfe]
  rw [h]
  congr 1
  · exact congrArg (fun l => listPut s.dfe.taken i l []) (List.append_nil _)
  · exact congrArg (fun l => listPut s.dfe.win i l []) (List.append_nil _)

end Sys2Proof.Laws
end

