-- ==== Sys2Proof/Laws/Finish.lean ====
section
/-!
SUPPORT. Laws of the end of every command: Transmit Permit is followed and the faults of the clock are entered (R307, R561
to R563).
-/

namespace Sys2Proof.Machine

/-- All that the end of a command can do to the registers: DROP of SLC_PERMIT_STAT is set. -/
theorem trackPermit_cases (s : State) :
    s.trackPermit = { s with permitPrev := s.permit } ∨
    ∃ arg, s.trackPermit = { (s.putB R.SLC_PERMIT_STAT_DROP true).raise 0x0801 0xFF arg with permitPrev := s.permit } := by
  unfold State.trackPermit
  by_cases h : (s.permitPrev && !s.permit) = true
  · refine .inr ⟨4 * b2n (!s.settled) + 2 * b2n (!s.trusted) + b2n (!s.agreed), ?_⟩
    simp only [h, if_true]
  · refine .inl ?_
    simp only [h]
    rfl

theorem flush_eq (s : State) : s.flush = { s with flt := s.flush.flt } := rfl

@[simp] theorem trackPermit_pending (s : State) : s.trackPermit.pending = s.pending := by
  rcases trackPermit_cases s with h | ⟨_, h⟩ <;> simp only [h, raise_pending, putB_pending]
@[simp] theorem trackPermit_active (s : State) : s.trackPermit.active = s.active := by
  rcases trackPermit_cases s with h | ⟨_, h⟩ <;> simp only [h, raise_active, putB_active]
@[simp] theorem trackPermit_stage (s : State) : s.trackPermit.stage = s.stage := by
  rcases trackPermit_cases s with h | ⟨_, h⟩ <;> simp only [h, raise_stage, putB_stage]
@[simp] theorem trackPermit_late (s : State) : s.trackPermit.late = s.late := by
  rcases trackPermit_cases s with h | ⟨_, h⟩ <;> simp only [h, raise_late, putB_late]
@[simp] theorem trackPermit_latch (s : State) : s.trackPermit.latch = s.latch := by
  rcases trackPermit_cases s with h | ⟨_, h⟩ <;> simp only [h, raise_latch, putB_latch]
@[simp] theorem trackPermit_shadow (s : State) : s.trackPermit.shadow = s.shadow := by
  rcases trackPermit_cases s with h | ⟨_, h⟩ <;> simp only [h, raise_shadow, putB_shadow]
@[simp] theorem trackPermit_mem (s : State) : s.trackPermit.mem = s.mem := by
  rcases trackPermit_cases s with h | ⟨_, h⟩ <;> simp only [h, raise_mem, putB_mem]
@[simp] theorem trackPermit_memSt (s : State) : s.trackPermit.memSt = s.memSt := by
  rcases trackPermit_cases s with h | ⟨_, h⟩ <;> simp only [h, raise_memSt, putB_memSt]
@[simp] theorem trackPermit_clk (s : State) : s.trackPermit.clk = s.clk := by
  rcases trackPermit_cases s with h | ⟨_, h⟩ <;> simp only [h, raise_clk, putB_clk]
@[simp] theorem trackPermit_pwr (s : State) : s.trackPermit.pwr = s.pwr := by
  rcases trackPermit_cases s with h | ⟨_, h⟩ <;> simp only [h, raise_pwr, putB_pwr]
@[simp] theorem trackPermit_readData (s : State) : s.trackPermit.readData = s.readData := by
  rcases trackPermit_cases s with h | ⟨_, h⟩ <;> simp only [h, raise_readData, putB_readData]
@[simp] theorem trackPermit_fe (s : State) : s.trackPermit.fe = s.fe := by
  rcases trackPermit_cases s with h | ⟨_, h⟩ <;> simp only [h, raise_fe, putB_fe]
@[simp] theorem trackPermit_dfe (s : State) : s.trackPermit.dfe = s.dfe := by
  rcases trackPermit_cases s with h | ⟨_, h⟩ <;> simp only [h, raise_dfe, putB_dfe]
@[simp] theorem trackPermit_ch (s : State) : s.trackPermit.ch = s.ch := by
  rcases trackPermit_cases s with h | ⟨_, h⟩ <;> simp only [h, raise_ch, putB_ch]
@[simp] theorem trackPermit_perrSeen (s : State) : s.trackPermit.perrSeen = s.perrSeen := by
  rcases trackPermit_cases s with h | ⟨_, h⟩ <;> simp only [h, raise_perrSeen, putB_perrSeen]
@[simp] theorem trackPermit_srch (s : State) : s.trackPermit.srch = s.srch := by
  rcases trackPermit_cases s with h | ⟨_, h⟩ <;> simp only [h, raise_srch, putB_srch]
@[simp] theorem trackPermit_tb (s : State) : s.trackPermit.tb = s.tb := by
  rcases trackPermit_cases s with h | ⟨_, h⟩ <;> simp only [h, raise_tb, putB_tb]
@[simp] theorem trackPermit_tp (s : State) : s.trackPermit.tp = s.tp := by
  rcases trackPermit_cases s with h | ⟨_, h⟩ <;> simp only [h, raise_tp, putB_tp]
@[simp] theorem trackPermit_evt (s : State) : s.trackPermit.evt = s.evt := by
  rcases trackPermit_cases s with h | ⟨_, h⟩ <;> simp only [h, raise_evt, putB_evt]
@[simp] theorem trackPermit_syn (s : State) : s.trackPermit.syn = s.syn := by
  rcases trackPermit_cases s with h | ⟨_, h⟩ <;> simp only [h, raise_syn, putB_syn]
@[simp] theorem trackPermit_slc (s : State) : s.trackPermit.slc = s.slc := by
  rcases trackPermit_cases s with h | ⟨_, h⟩ <;> simp only [h, raise_slc, putB_slc]
@[simp] theorem trackPermit_engs (s : State) : s.trackPermit.engs = s.engs := by
  rcases trackPermit_cases s with h | ⟨_, h⟩ <;> simp only [h, raise_engs, putB_engs]
@[simp] theorem trackPermit_plc (s : State) : s.trackPermit.plc = s.plc := by
  rcases trackPermit_cases s with h | ⟨_, h⟩ <;> simp only [h, raise_plc, putB_plc]
@[simp] theorem trackPermit_weir (s : State) : s.trackPermit.weir = s.weir := by
  rcases trackPermit_cases s with h | ⟨_, h⟩ <;> simp only [h, raise_weir, putB_weir]
@[simp] theorem trackPermit_lcs (s : State) : s.trackPermit.lcs = s.lcs := by
  rcases trackPermit_cases s with h | ⟨_, h⟩ <;> simp only [h, raise_lcs, putB_lcs]
@[simp] theorem trackPermit_cfl (s : State) : s.trackPermit.cfl = s.cfl := by
  rcases trackPermit_cases s with h | ⟨_, h⟩ <;> simp only [h, raise_cfl, putB_cfl]
@[simp] theorem trackPermit_host (s : State) : s.trackPermit.host = s.host := by
  rcases trackPermit_cases s with h | ⟨_, h⟩ <;> simp only [h, raise_host, putB_host]
@[simp] theorem trackPermit_flash (s : State) : s.trackPermit.flash = s.flash := by
  rcases trackPermit_cases s with h | ⟨_, h⟩ <;> simp only [h, raise_flash, putB_flash]
@[simp] theorem trackPermit_start (s : State) : s.trackPermit.start = s.start := by
  rcases trackPermit_cases s with h | ⟨_, h⟩ <;> simp only [h, raise_start, putB_start]
@[simp] theorem trackPermit_free (s : State) : s.trackPermit.free = s.free := by
  rcases trackPermit_cases s with h | ⟨_, h⟩ <;> simp only [h, raise_free, putB_free]

@[simp] theorem finish_pending (s : State) : s.finish.pending = s.pending := trackPermit_pending s
@[simp] theorem finish_active (s : State) : s.finish.active = s.active := trackPermit_active s
@[simp] theorem finish_stage (s : State) : s.finish.stage = s.stage := trackPermit_stage s
@[simp] theorem finish_late (s : State) : s.finish.late = s.late := trackPermit_late s
@[simp] theorem finish_latch (s : State) : s.finish.latch = s.latch := trackPermit_latch s
@[simp] theorem finish_shadow (s : State) : s.finish.shadow = s.shadow := trackPermit_shadow s
@[simp] theorem finish_mem (s : State) : s.finish.mem = s.mem := trackPermit_mem s
@[simp] theorem finish_memSt (s : State) : s.finish.memSt = s.memSt := trackPermit_memSt s
@[simp] theorem finish_clk (s : State) : s.finish.clk = s.clk := trackPermit_clk s
@[simp] theorem finish_pwr (s : State) : s.finish.pwr = s.pwr := trackPermit_pwr s
@[simp] theorem finish_readData (s : State) : s.finish.readData = s.readData := trackPermit_readData s
@[simp] theorem finish_fe (s : State) : s.finish.fe = s.fe := trackPermit_fe s
@[simp] theorem finish_dfe (s : State) : s.finish.dfe = s.dfe := trackPermit_dfe s
@[simp] theorem finish_ch (s : State) : s.finish.ch = s.ch := trackPermit_ch s
@[simp] theorem finish_perrSeen (s : State) : s.finish.perrSeen = s.perrSeen := trackPermit_perrSeen s
@[simp] theorem finish_srch (s : State) : s.finish.srch = s.srch := trackPermit_srch s
@[simp] theorem finish_tb (s : State) : s.finish.tb = s.tb := trackPermit_tb s
@[simp] theorem finish_tp (s : State) : s.finish.tp = s.tp := trackPermit_tp s
@[simp] theorem finish_evt (s : State) : s.finish.evt = s.evt := trackPermit_evt s
@[simp] theorem finish_syn (s : State) : s.finish.syn = s.syn := trackPermit_syn s
@[simp] theorem finish_slc (s : State) : s.finish.slc = s.slc := trackPermit_slc s
@[simp] theorem finish_engs (s : State) : s.finish.engs = s.engs := trackPermit_engs s
@[simp] theorem finish_plc (s : State) : s.finish.plc = s.plc := trackPermit_plc s
@[simp] theorem finish_weir (s : State) : s.finish.weir = s.weir := trackPermit_weir s
@[simp] theorem finish_lcs (s : State) : s.finish.lcs = s.lcs := trackPermit_lcs s
@[simp] theorem finish_cfl (s : State) : s.finish.cfl = s.cfl := trackPermit_cfl s
@[simp] theorem finish_host (s : State) : s.finish.host = s.host := trackPermit_host s
@[simp] theorem finish_flash (s : State) : s.finish.flash = s.flash := trackPermit_flash s
@[simp] theorem finish_start (s : State) : s.finish.start = s.start := trackPermit_start s
@[simp] theorem finish_free (s : State) : s.finish.free = s.free := trackPermit_free s

@[simp] theorem gate_finish (s : State) (x : Nat) : s.finish.gate x = s.gate x := by simp only [State.gate, finish_slc]
@[simp] theorem eng_finish (s : State) (x : Nat) : s.finish.eng x = s.eng x := by simp only [State.eng, finish_engs]
@[simp] theorem tpOut_finish (s : State) (x : Nat) : s.finish.tpOut x = s.tpOut x := by simp only [State.tpOut, finish_tp]
@[simp] theorem taskSt_finish (s : State) (x : Nat) : s.finish.taskSt x = s.taskSt x := by simp only [State.taskSt, finish_plc]
@[simp] theorem chan_finish (s : State) (x : Nat) : s.finish.chan x = s.chan x := by simp only [State.chan, finish_ch]
@[simp] theorem pipe_finish (s : State) (x : Nat) : s.finish.pipe x = s.pipe x := by simp only [State.pipe, finish_srch]
@[simp] theorem cflPort_finish (s : State) (x : Nat) : s.finish.cflPort x = s.cflPort x := by simp only [State.cflPort, finish_cfl]
@[simp] theorem act_finish (s : State) (x : Fld) : s.finish.act x = s.act x := act_congr (finish_active s) x
@[simp] theorem actRg_finish (s : State) (x : Nat) : s.finish.actRg x = s.actRg x := by simp only [actRg_eq, finish_active]
@[simp] theorem memGet_finish (s : State) (x : Nat) : s.finish.memGet x = s.memGet x := by simp only [State.memGet, finish_mem]

/-- The only field that the end of a command can change. -/
theorem get_finish (s : State) (f : Fld) (h : R.SLC_PERMIT_STAT_DROP.apart f) : s.finish.get f = s.get f := by
  show s.trackPermit.get f = s.get f
  rcases trackPermit_cases s with e | ⟨arg, e⟩
  · rw [e]; rfl
  · rw [e]
    refine Eq.trans (b := (s.putB R.SLC_PERMIT_STAT_DROP true).get f) (get_congr ?_ f) ?_
    · simp only [raise_regs]
    exact get_putB_apart s _ f true (by decide) h

theorem isOn_finish (s : State) (f : Fld) (h : R.SLC_PERMIT_STAT_DROP.apart f) : s.finish.isOn f = s.isOn f := by
  unfold State.isOn; rw [get_finish s f h]

/-- The only register that the end of a command can change. -/
theorem rg_finish (s : State) (a : Nat) (h : a ≠ 0x70A003) : s.finish.rg a = s.rg a := by
  show s.trackPermit.rg a = s.rg a
  rcases trackPermit_cases s with e | ⟨arg, e⟩
  · rw [e]; rfl
  · rw [e]
    refine Eq.trans (b := (s.putB R.SLC_PERMIT_STAT_DROP true).rg a) (rg_congr ?_ a) ?_
    · simp only [raise_regs]
    exact rg_put_ne s _ h

theorem permit_congr {s t : State} (h1 : t.isOn R.SYN_STAT_SETTLED = s.isOn R.SYN_STAT_SETTLED)
    (h2 : t.get R.TB_STAT_TRUST = s.get R.TB_STAT_TRUST) (h3 : t.isOn R.CFL_STAT_AGREE = s.isOn R.CFL_STAT_AGREE) :
    t.permit = s.permit := by
  simp only [State.permit, State.settled, State.trusted, State.agreed, h1, h2, h3]

/-- The end of a command leaves Transmit Permit as it stands. -/
@[simp] theorem permit_finish (s : State) : s.finish.permit = s.permit :=
  permit_congr (isOn_finish s _ (by decide)) (get_finish s _ (by decide)) (isOn_finish s _ (by decide))

@[simp] theorem finish_permitPrev (s : State) : s.finish.permitPrev = s.permit := rfl

@[simp] theorem finish_now (s : State) : s.finish.flt.now = [] := rfl

/-- After every command that ends, permit has been followed and every fault entered. -/
theorem finish_settled (s : State) : Safety.Settled s.finish :=
  ⟨by show s.finish.permitPrev = s.finish.permit; rw [permit_finish, finish_permitPrev], rfl⟩

theorem done_eq (s : State) : done s = .next s.finish := rfl

/-- With permit as last followed, or risen, nothing is recorded. -/
theorem trackPermit_quiet (s : State) (h : s.permitPrev = true → s.permit = true) :
    s.trackPermit = { s with permitPrev := s.permit } := by
  unfold State.trackPermit
  have : (s.permitPrev && !s.permit) = false := by
    cases hp : s.permitPrev
    · rfl
    · rw [h hp]; rfl
  simp only [this]
  rfl

theorem flush_none (s : State) (h : s.flt.now = []) : s.flush = s := by
  unfold State.flush
  rw [h]
  show ({ s with flt := { s.flt with now := [] } } : State) = s
  rw [← h]

theorem flush_one (s : State) (e : FaultEvent) (h : s.flt.now = [e]) :
    s.flush.flt = { s.flt.enter e with now := [] } := by
  unfold State.flush
  rw [h]
  rfl

/-- A command that raises nothing and leaves permit alone changes nothing at its end but what it follows. -/
theorem finish_quiet (s : State) (hp : s.permitPrev = true → s.permit = true) (hn : s.flt.now = []) :
    s.finish = { s with permitPrev := s.permit } := by
  unfold State.finish
  rw [trackPermit_quiet s hp]
  exact flush_none _ hn

end Sys2Proof.Machine
end

