-- ==== Sys2Proof/Laws/Engine.lean ====
section
/-!
SUPPORT. Laws of a Tabile engine that issues an instruction (R326, R327, R341 to R347).
-/

namespace Sys2Proof.Machine

theorem listPut_listPut {α : Type} (l : List α) (i : Nat) (a b d : α) :
    listPut (listPut l i a d) i b d = listPut l i b d := by
  induction i generalizing l with
  | zero => cases l <;> rfl
  | succ n ih =>
    cases l with
    | nil => simp only [listPut, ih]
    | cons x t => simp only [listPut, ih]

/-- The later of two settings of one engine stays. -/
@[simp] theorem setEng_setEng (s : State) (e : Nat) (g h : Engine) : (s.setEng e g).setEng e h = s.setEng e h := by
  simp only [State.setEng, listPut_listPut]

/-! ### The end of a run -/

theorem runEnds_eng (s : State) (e o : Nat) : (s.runEnds e o).eng e = { s.eng e with task := none } := by
  unfold State.runEnds
  cases h : (s.eng e).task with
  | none => simp only [h]; rw [← h]
  | some t => simp only [h, eng_setEng_self]

theorem taskEnds_eng (s : State) (e : Nat) : (s.taskEnds e).eng e = { s.eng e with task := none, issuing := false } := by
  simp only [State.taskEnds, eng_setEng_self, runEnds_eng]

/-- The engine after an instruction of `len` parcels that takes `n` cycles, with flow `f` and results `lands`. -/
def Engine.issued (g : Engine) (n len : Nat) (f : Flow) (lands : List Land) : Engine :=
  ((g.spent n).flowStep len f).retired lands

/-- The engine once its run has ended with TEND's second delay slot. -/
def Engine.ended (g : Engine) : Engine :=
  if g.tend = some 0 then { g with tend := none, task := none, issuing := false } else g

/-- All that an instruction which acts on registers does, on an engine that issues it. -/
theorem issueOn_ok (s t : State) (i : Issue) (len : Nat) (lands : List Land) (stall slots : Nat) (f : Flow) :
    s.issueOn i len (.ok t lands stall slots f) =
      (t.setEng i.e.val ((t.eng i.e.val).issued (1 + stall + i.stall + t.fixedStall i.e.val len slots) len f lands)).afterTend
        i.e.val := by
  simp only [State.issueOn, State.spend, State.retire, eng_setEng_self, setEng_setEng, Engine.issued]

theorem afterTend_eng (s : State) (e : Nat) : (s.afterTend e).eng e = (s.eng e).ended := by
  unfold State.afterTend Engine.ended
  split
  · simp only [taskEnds_eng, eng_setEng_self]
  · rfl

theorem issueOn_ok_eng (s t : State) (i : Issue) (len : Nat) (lands : List Land) (stall slots : Nat) (f : Flow) :
    (s.issueOn i len (.ok t lands stall slots f)).eng i.e.val =
      ((t.eng i.e.val).issued (1 + stall + i.stall + t.fixedStall i.e.val len slots) len f lands).ended := by
  rw [issueOn_ok, afterTend_eng, eng_setEng_self]

/-! ### Flow: all that it can change -/

/-- `h` is `g` but for its program counter, delay slots, hardware loops and ST.TM. -/
def Engine.FlowOnly (g h : Engine) : Prop :=
  h = { g with lc := h.lc, loops := h.loops, jump := h.jump, tend := h.tend, pc := h.pc, st := h.st } ∧
    (h.st = g.st ∨ h.st = g.st &&& 0x7FFF)

theorem Engine.FlowOnly.refl (g : Engine) : g.FlowOnly g := ⟨rfl, .inl rfl⟩

theorem Engine.FlowOnly.trans {g h k : Engine} (a : g.FlowOnly h) (b : h.FlowOnly k) : g.FlowOnly k := by
  obtain ⟨a1, a2⟩ := a
  obtain ⟨b1, b2⟩ := b
  refine ⟨by rw [b1, a1], ?_⟩
  rcases a2 with a | a <;> rcases b2 with b | b <;> rw [b, a]
  · exact .inl rfl
  · exact .inr rfl
  · exact .inr rfl
  · exact .inr (by rw [BitVec.and_assoc]; rfl)

theorem loopTest_flowOnly (g : Engine) (k p n : Nat) : g.FlowOnly (g.loopTest k p n).1 := by
  unfold Engine.loopTest
  split
  · exact .refl g
  · split
    · exact .refl g
    · split <;> exact ⟨rfl, .inl rfl⟩

theorem loopNext_flowOnly (g : Engine) (len : Nat) : g.FlowOnly (g.loopNext len).1 := by
  unfold Engine.loopNext
  split
  · exact .refl g
  · dsimp only
    split
    · exact (loopTest_flowOnly ..).trans (loopTest_flowOnly ..)
    · exact loopTest_flowOnly ..

theorem slotStep_flowOnly (g : Engine) (n : Nat) : g.FlowOnly (g.slotStep n) := by
  unfold Engine.slotStep
  dsimp only
  split
  · exact ⟨rfl, .inl rfl⟩
  · split
    · refine ⟨rfl, ?_⟩
      dsimp only
      split
      · exact .inr rfl
      · exact .inl rfl
    · exact ⟨rfl, .inl rfl⟩

theorem flowSet_flowOnly (g : Engine) (start : Nat) (f : Flow) : g.FlowOnly (g.flowSet start f) := by
  cases f <;> dsimp only [Engine.flowSet] <;> (try split) <;> exact ⟨rfl, .inl rfl⟩

theorem flowStep_flowOnly (g : Engine) (len : Nat) (f : Flow) : g.FlowOnly (g.flowStep len f) :=
  (loopNext_flowOnly g len).trans ((slotStep_flowOnly _ _).trans (flowSet_flowOnly _ _ _))

/-! ### Landing -/

/-- Results that land in the cycle that passes, in order of issue. -/
def dueNow (l : List Land) : List Land := (l.map (fun r => { r with dist := r.dist - 1 })).filter (fun r => r.dist == 0)

/-- Results still in flight after the cycle that passes. -/
def stillOut (l : List Land) : List Land := (l.map (fun r => { r with dist := r.dist - 1 })).filter (fun r => r.dist != 0)

theorem dueNow_append (a b : List Land) : dueNow (a ++ b) = dueNow a ++ dueNow b := by simp [dueNow]
theorem stillOut_append (a b : List Land) : stillOut (a ++ b) = stillOut a ++ stillOut b := by simp [stillOut]

theorem advance_eq (g : Engine) : g.advance = (dueNow g.fly).foldl Engine.land { g with fly := stillOut g.fly } := rfl

/-- The results of an instruction land after all earlier ones that are due with them. -/
theorem retired_eq (g : Engine) (l : List Land) :
    g.retired l = (dueNow l).foldl Engine.land
      ((dueNow g.fly).foldl Engine.land { g with fly := stillOut g.fly ++ stillOut l }) := by
  simp only [Engine.retired, advance_eq, dueNow_append, stillOut_append, List.foldl_append]

theorem land_wr (g : Engine) (d i v : Nat) (m : Bool) (n : Nat) :
    (g.land { dist := n, dest := .w i, val := v, mac := m }).wr d = if d = i then BitVec.ofNat 16 v else g.wr d :=
  getD_listPut ..

theorem land_wr_st (g : Engine) (d k v : Nat) (m : Bool) (n : Nat) :
    (g.land { dist := n, dest := .st k, val := v, mac := m }).wr d = g.wr d := rfl

theorem land_st (g : Engine) (k v : Nat) (m : Bool) (n : Nat) :
    (g.land { dist := n, dest := .st k, val := v, mac := m }).st =
      g.st &&& ~~~(BitVec.ofNat 16 k) ||| (BitVec.ofNat 16 v &&& BitVec.ofNat 16 k) := rfl

theorem land_st_w (g : Engine) (i v : Nat) (m : Bool) (n : Nat) :
    (g.land { dist := n, dest := .w i, val := v, mac := m }).st = g.st := rfl

/-- A result to a word, with its flags, stands at the end of its cycle. -/
theorem retired_word (g : Engine) (d : Nat) (r : WordRes) :
    (g.retired (wordLands 1 d r)).wr d = BitVec.ofNat 16 r.val ∧
    ∃ st, (g.retired (wordLands 1 d r)).st =
      st &&& ~~~(BitVec.ofNat 16 (12 + (if r.c.isSome then 2 else 0) + (if r.v.isSome then 1 else 0) + (if r.ss then 16 else 0)))
      ||| (BitVec.ofNat 16 ((if r.val % 65536 = 0 then 8 else 0) + (if bitOf r.val 15 then 4 else 0)
        + (if r.c == some true then 2 else 0) + (if r.v == some true then 1 else 0) + (if r.ss then 16 else 0)) &&&
        BitVec.ofNat 16 (12 + (if r.c.isSome then 2 else 0) + (if r.v.isSome then 1 else 0) + (if r.ss then 16 else 0))) := by
  rw [retired_eq]
  have h : dueNow (wordLands 1 d r) = [{ dist := 0, dest := .w d, val := r.val }, { wordFlags 1 r with dist := 0 }] := rfl
  rw [h]
  simp only [List.foldl, wordFlags, land_wr_st, land_wr, if_true, land_st, true_and]
  exact ⟨_, rfl⟩

/-- The flags that a word result leaves (R361). -/
theorem word_flags (g : Engine) (d : Nat) (r : WordRes) (v : Word) (hv : v = BitVec.ofNat 16 r.val) :
    (g.retired (wordLands 1 d r)).st.getLsbD 3 = (v == 0) ∧ (g.retired (wordLands 1 d r)).st.getLsbD 2 = v.msb ∧
    (∀ b, r.c = some b → (g.retired (wordLands 1 d r)).st.getLsbD 1 = b) ∧
    (∀ b, r.v = some b → (g.retired (wordLands 1 d r)).st.getLsbD 0 = b) ∧
    (r.ss = true → (g.retired (wordLands 1 d r)).st.getLsbD 4 = true) := by
  obtain ⟨_, st, h⟩ := retired_word g d r
  rw [h]
  have hz : (v == 0) = decide (r.val % 65536 = 0) := by
    rw [hv, Bool.eq_iff_iff]
    simp only [beq_iff_eq, decide_eq_true_eq]
    constructor
    · intro h; have := congrArg BitVec.toNat h; simpa using this
    · intro h; apply BitVec.eq_of_toNat_eq; simpa using h
  have hn : v.msb = bitOf r.val 15 := by
    rw [hv, BitVec.msb_eq_getLsbD_last, BitVec.getLsbD_ofNat, bitOf, Nat.testBit_eq_decide_div_mod_eq]
    simp [BEq.beq]
  rw [hz, hn]
  generalize hzz : decide (r.val % 65536 = 0) = z
  generalize bitOf r.val 15 = n
  have hif : (if r.val % 65536 = 0 then 8 else 0) = if z then 8 else 0 := by rw [← hzz]; simp
  rw [hif]
  obtain ⟨val, c, w, ss⟩ := r
  dsimp only
  rcases c with _ | _ | _ <;> rcases w with _ | _ | _ <;> cases ss <;> cases z <;> cases n <;>
    simp

/-! ### Issue -/

theorem guard_not_bad (g : Engine) (c : Guard) (h : g.guardOn c = true) : guardBad c = false := by
  unfold guardBad
  by_cases hc : c.gp = 0
  · simp only [Engine.guardOn, Engine.pr, hc] at h
    cases hg : c.gn
    · simp
    · rw [hg] at h; simp at h
  · simp [hc]

/-- An instruction that issues with its guard true, and is not reserved, takes its effect. -/
theorem issue_runs (s : State) (i : Issue) (len : Nat) (c : Guard) (x : State → Effect) (h : Safety.Runs s i c) :
    s.issue i len c false x = s.issueOn i len (x s) := by
  obtain ⟨h1, h2, h3⟩ := h
  simp [State.issue, h1, h2, h3, guard_not_bad _ _ h3]

theorem ended_w (g : Engine) : g.ended.w = g.w := by unfold Engine.ended; split <;> rfl
theorem ended_st (g : Engine) : g.ended.st = g.st := by unfold Engine.ended; split <;> rfl

/-- A word result of an instruction that runs stands with its flags. -/
theorem issue_word (s : State) (i : Issue) (len : Nat) (c : Guard) (x : State → Effect) (d : Nat) (r : WordRes)
    (h : Safety.Runs s i c) (hx : x s = .regs s (wordLands 1 d r)) :
    Safety.WordShown (s.issue i len c false x).finish i.e d (BitVec.ofNat 16 r.val) r.c r.v r.ss := by
  rw [issue_runs s i len c x h, hx]
  unfold Safety.WordShown
  have he : ((s.issueOn i len (Effect.regs s (wordLands 1 d r))).finish.eng i.e.val) = _ :=
    (eng_finish _ _).trans (issueOn_ok_eng s s i len (wordLands 1 d r) 0 0 .seq)
  rw [he, Engine.wr, ended_w, ended_st]
  exact ⟨(retired_word _ d r).1, word_flags _ d r _ rfl⟩

/-- All that an operation of R361 shows, in either form. -/
theorem aluForm_word (s : State) (i : Issue) (f : AluForm) (k : Nat) (h : Safety.Runs s i (Safety.aluGuard f))
    (hb : aluUnary k = true → Safety.aluOne f) (r : WordRes)
    (hr : r = aluOp k (s.eng i.e).st (Safety.aluLeft (s.eng i.e) f)
      (if aluUnary k then Safety.aluOnly (s.eng i.e) f else Safety.aluRight (s.eng i.e) f)) :
    Safety.WordShown (s.aluForm i k f).finish i.e (Safety.aluDest f) (BitVec.ofNat 16 r.val) r.c r.v r.ss := by
  subst hr
  cases f with
  | short d b =>
    simp only [Safety.aluLeft, Safety.aluOnly, Safety.aluRight, ite_self]
    exact issue_word s i 1 {} (opAlu i.e k d d b) d _ h rfl
  | long c d a b =>
    by_cases hu : aluUnary k = true
    · have hb0 : b = 0 := hb hu
      subst hb0
      simpa [Safety.aluLeft, Safety.aluOnly, Safety.aluRight, State.aluForm, hu, Safety.aluDest] using
        issue_word s i 2 c (opAlu i.e k d a a) d _ h rfl
    · simpa [Safety.aluLeft, Safety.aluOnly, Safety.aluRight, State.aluForm, hu, Safety.aluDest] using
        issue_word s i 2 c (opAlu i.e k d a b) d _ h rfl

/-! ### Results that land later -/

/-- The results of `l` at distance `n`. -/
def atDist (n : Nat) (l : List Land) : List Land := l.filter (fun r => r.dist == n)

theorem land_dist (g : Engine) (r : Land) (n : Nat) : g.land { r with dist := n } = g.land r := rfl

theorem foldl_land_dist (l : List Land) (n : Nat) (g : Engine) :
    (l.map (fun r => { r with dist := n })).foldl Engine.land g = l.foldl Engine.land g := by
  induction l generalizing g with
  | nil => rfl
  | cons r l ih => simp only [List.map_cons, List.foldl_cons, land_dist, ih]

theorem foldl_land_dueNow (l : List Land) (h : ∀ r ∈ l, 1 ≤ r.dist) (g : Engine) :
    (dueNow l).foldl Engine.land g = (atDist 1 l).foldl Engine.land g := by
  induction l generalizing g with
  | nil => rfl
  | cons r l ih =>
    have hr := h r (by simp)
    have hl := fun g => ih (fun x hx => h x (by simp [hx])) g
    by_cases h1 : r.dist = 1
    · have e1 : dueNow (r :: l) = { r with dist := r.dist - 1 } :: dueNow l := by simp [dueNow, h1]
      have e2 : atDist 1 (r :: l) = r :: atDist 1 l := by simp [atDist, h1]
      rw [e1, e2, List.foldl_cons, List.foldl_cons, land_dist, hl]
    · have e1 : dueNow (r :: l) = dueNow l := by
        simp only [dueNow, List.map_cons]
        rw [List.filter_cons_of_neg]
        simp; omega
      have e2 : atDist 1 (r :: l) = atDist 1 l := by simp [atDist, h1]
      rw [e1, e2, hl]

theorem stillOut_pos (l : List Land) : ∀ r ∈ stillOut l, 1 ≤ r.dist := by
  intro r hr
  simp only [stillOut, List.mem_filter, bne_iff_ne, ne_eq] at hr
  omega

theorem foldl_land_stillOut (l : List Land) (n : Nat) (g : Engine) :
    (atDist (n + 1) (stillOut l)).foldl Engine.land g = (atDist (n + 2) l).foldl Engine.land g := by
  induction l generalizing g with
  | nil => rfl
  | cons r l ih =>
    by_cases h1 : r.dist = n + 2
    · have e1 : atDist (n + 1) (stillOut (r :: l)) = { r with dist := r.dist - 1 } :: atDist (n + 1) (stillOut l) := by
        simp [stillOut, atDist, h1]
      have e2 : atDist (n + 2) (r :: l) = r :: atDist (n + 2) l := by simp [atDist, h1]
      rw [e1, e2, List.foldl_cons, List.foldl_cons, land_dist, ih]
    · have e1 : atDist (n + 1) (stillOut (r :: l)) = atDist (n + 1) (stillOut l) := by
        simp only [stillOut, atDist, List.map_cons, List.filter_filter]
        rw [List.filter_cons_of_neg]
        simp; omega
      have e2 : atDist (n + 2) (r :: l) = atDist (n + 2) l := by simp [atDist, h1]
      rw [e1, e2, ih]

theorem foldl_land_fly (l : List Land) (g : Engine) : (l.foldl Engine.land g).fly = g.fly := by
  induction l generalizing g with
  | nil => rfl
  | cons r l ih =>
    rw [List.foldl_cons, ih]
    unfold Engine.land
    cases r.dest <;> (try rfl)
    dsimp only; split <;> rfl

/-- After `n` further cycles, the results of an instruction at distance `n + 1` are the last to have landed. -/
theorem advances_last (L : List Land) (hL : ∀ r ∈ L, 1 ≤ r.dist) (n : Nat) (g : Engine) (f : List Land)
    (hf : g.fly = f ++ L) : ∃ G, g.advances (n + 1) = (atDist (n + 1) L).foldl Engine.land G := by
  induction n generalizing g f L with
  | zero =>
    refine ⟨(dueNow f).foldl Engine.land { g with fly := stillOut g.fly }, ?_⟩
    show g.advance = _
    rw [advance_eq]
    rw [hf, dueNow_append, List.foldl_append, foldl_land_dueNow _ hL]
  | succ n ih =>
    have hfly : g.advance.fly = stillOut f ++ stillOut L := by
      rw [advance_eq, foldl_land_fly, hf, ← stillOut_append]
    obtain ⟨G, hG⟩ := ih (stillOut L) (stillOut_pos L) g.advance (stillOut f) hfly
    refine ⟨G, ?_⟩
    show g.advance.advances (n + 1) = _
    rw [hG, foldl_land_stillOut]

theorem retired_last (g : Engine) (L : List Land) (hL : ∀ r ∈ L, 1 ≤ r.dist) (n : Nat) :
    ∃ G, (g.retired L).advances n = (atDist (n + 1) L).foldl Engine.land G :=
  advances_last L hL n { g with fly := g.fly ++ L } g.fly rfl

/-- With nothing else in flight, nothing lands before an instruction's first result is due. -/
theorem advances_wait (n : Nat) (g : Engine) (h : ∀ r ∈ g.fly, n < r.dist) :
    ∃ f, g.advances n = { g with fly := f } := by
  induction n generalizing g with
  | zero => exact ⟨g.fly, rfl⟩
  | succ n ih =>
    have h0 : dueNow g.fly = [] := by
      rw [dueNow, List.filter_eq_nil_iff]
      intro r hr
      obtain ⟨q, hq, rfl⟩ := List.mem_map.1 hr
      have := h q hq
      simp; omega
    have ha : g.advance = { g with fly := stillOut g.fly } := by rw [advance_eq, h0]; rfl
    obtain ⟨f, hf⟩ := ih g.advance (by
      intro r hr
      rw [ha] at hr
      simp only [stillOut, List.mem_filter, List.mem_map] at hr
      obtain ⟨⟨q, hq, rfl⟩, -⟩ := hr
      have := h q hq
      simp only; omega)
    exact ⟨f, by show g.advance.advances n = _; rw [hf, ha]⟩

theorem retired_wait (g : Engine) (L : List Land) (n : Nat) (hg : g.fly = []) (hL : ∀ r ∈ L, n + 1 < r.dist) :
    ∃ f, (g.retired L).advances n = { g with fly := f } :=
  advances_wait (n + 1) { g with fly := g.fly ++ L } (by simpa [hg] using hL)

/-! ### The end of a run leaves the results in flight -/

/-- `g` with what the end of a run sets. -/
def Engine.closed (g : Engine) (a : Option Nat) (b : Option Nat) (c : Bool) : Engine :=
  { g with tend := a, task := b, issuing := c }

theorem land_closed (g : Engine) (a b : Option Nat) (c : Bool) (r : Land) :
    (g.closed a b c).land r = (g.land r).closed a b c := by
  unfold Engine.land Engine.closed
  cases r.dest <;> (try rfl)
  dsimp only; split <;> rfl

theorem foldl_land_closed (l : List Land) (g : Engine) (a b : Option Nat) (c : Bool) :
    l.foldl Engine.land (g.closed a b c) = (l.foldl Engine.land g).closed a b c := by
  induction l generalizing g with
  | nil => rfl
  | cons r l ih => rw [List.foldl_cons, List.foldl_cons, land_closed, ih]

theorem advance_closed (g : Engine) (a b : Option Nat) (c : Bool) : (g.closed a b c).advance = g.advance.closed a b c := by
  rw [advance_eq, advance_eq, ← foldl_land_closed]; rfl

theorem advances_closed (n : Nat) (g : Engine) (a b : Option Nat) (c : Bool) :
    (g.closed a b c).advances n = (g.advances n).closed a b c := by
  induction n generalizing g with
  | zero => rfl
  | succ n ih =>
    show (g.closed a b c).advance.advances n = _
    rw [advance_closed, ih]; rfl

theorem ended_closed (g : Engine) : ∃ a b c, g.ended = g.closed a b c := by
  unfold Engine.ended
  split
  · exact ⟨_, _, _, rfl⟩
  · exact ⟨g.tend, g.task, g.issuing, rfl⟩

/-- All that an instruction acting on registers does to its engine, `n` cycles later: its results at distance `n + 1` are
the last to have landed. -/
theorem issue_last (s : State) (i : Issue) (len : Nat) (c : Guard) (x : State → Effect) (L : List Land) (st sl : Nat)
    (f : Flow) (h : Safety.Runs s i c) (hx : x s = .ok s L st sl f) (hL : ∀ r ∈ L, 1 ≤ r.dist) (n : Nat) :
    ∃ G a b k, ((s.issue i len c false x).finish.eng i.e).advances n =
      ((atDist (n + 1) L).foldl Engine.land G).closed a b k := by
  rw [issue_runs s i len c x h, hx, eng_finish, issueOn_ok_eng]
  obtain ⟨a, b, k, he⟩ := ended_closed (((s.eng i.e).issued (1 + st + i.stall + s.fixedStall i.e len sl) len f L))
  rw [he, advances_closed]
  obtain ⟨G, hG⟩ := retired_last (((s.eng i.e).spent (1 + st + i.stall + s.fixedStall i.e len sl)).flowStep len f) L hL n
  exact ⟨G, a, b, k, by rw [Engine.issued, hG]⟩

/-- With nothing in flight before, the registers stand until its first result lands. -/
theorem issue_wait (s : State) (i : Issue) (len : Nat) (c : Guard) (x : State → Effect) (L : List Land) (st sl : Nat)
    (f : Flow) (h : Safety.Runs s i c) (hx : x s = .ok s L st sl f) (n : Nat) (hg : (s.eng i.e).fly = [])
    (hL : ∀ r ∈ L, n + 1 < r.dist) :
    ∃ G q a b k, ((s.issue i len c false x).finish.eng i.e).advances n = ({ G with fly := q } : Engine).closed a b k ∧
      ((s.eng i.e).spent (1 + st + i.stall + s.fixedStall i.e len sl)).FlowOnly G := by
  rw [issue_runs s i len c x h, hx, eng_finish, issueOn_ok_eng]
  obtain ⟨a, b, k, he⟩ := ended_closed (((s.eng i.e).issued (1 + st + i.stall + s.fixedStall i.e len sl) len f L))
  rw [he, advances_closed]
  have hf := flowStep_flowOnly ((s.eng i.e).spent (1 + st + i.stall + s.fixedStall i.e len sl)) len f
  obtain ⟨q, hq⟩ := retired_wait (((s.eng i.e).spent (1 + st + i.stall + s.fixedStall i.e len sl)).flowStep len f) L n
    (by rw [hf.1]; exact hg) hL
  exact ⟨_, q, a, b, k, by rw [Engine.issued, hq], hf⟩

/-- Two engines hold the same registers, loop counters and ST.TM apart. -/
def SameFile (g h : Engine) : Prop :=
  h.w = g.w ∧ h.a = g.a ∧ h.x = g.x ∧ h.m = g.m ∧ h.b = g.b ∧ h.l = g.l ∧ h.p = g.p ∧ h.lk = g.lk ∧ h.lkT = g.lkT ∧
    (h.st = g.st ∨ h.st = g.st &&& 0x7FFF)

theorem sameFile_flow {g h : Engine} (n : Nat) (f : (g.spent n).FlowOnly h) (q : List Land) (a b : Option Nat) (c : Bool) :
    SameFile g (({ h with fly := q } : Engine).closed a b c) := by
  obtain ⟨f1, f2⟩ := f
  rw [f1]
  exact ⟨rfl, rfl, rfl, rfl, rfl, rfl, rfl, rfl, rfl, f2⟩

/-- A result at distance `d` of an instruction that acts on registers. -/
theorem issue_result {α : Type} (read : Engine → α) (new : α) (d : Nat) (s : State) (i : Issue) (len : Nat) (c : Guard)
    (x : State → Effect) (L : List Land) (st sl : Nat) (f : Flow) (h : Safety.Runs s i c)
    (hx : x s = .ok s L st sl f) (hd : 1 ≤ d) (hL : ∀ r ∈ L, d ≤ r.dist)
    (hf : ∀ g h, SameFile g h → read h = read g)
    (hn : ∀ G, read ((atDist d L).foldl Engine.land G) = new) :
    Safety.ResultAt s (s.issue i len c false x).finish i.e d read new := by
  obtain ⟨d, rfl⟩ : ∃ k, d = k + 1 := ⟨d - 1, by omega⟩
  refine ⟨?_, ?_⟩
  · obtain ⟨G, a, b, k, hG⟩ := issue_last s i len c x L st sl f h hx (fun r hr => by have := hL r hr; omega) d
    rw [Nat.add_sub_cancel, hG, hf ((atDist (d + 1) L).foldl Engine.land G)
      (((atDist (d + 1) L).foldl Engine.land G).closed a b k) ⟨rfl, rfl, rfl, rfl, rfl, rfl, rfl, rfl, rfl, .inl rfl⟩, hn]
  · intro hg n hnd
    obtain ⟨G, q, a, b, k, hG, hfl⟩ := issue_wait s i len c x L st sl f h hx n hg
      (fun r hr => by have := hL r hr; omega)
    rw [hG]
    exact hf _ _ (sameFile_flow _ hfl q a b k)

end Sys2Proof.Machine
end

