-- ==== Sys2Proof/Laws/Memory.lean ====
section
/-!
SUPPORT. Every operation that changes the memories or the flash keeps them in canonical form, and a word written reads
back.
-/

namespace Sys2Proof.Laws

open Sys2Proof.Machine Sys2Proof.Safety

/-- Memory and flash, and nothing else, decide the canonical form. -/
theorem canonical_congr {s t : State} (hm : t.mem = s.mem) (hf : t.flash.cells = s.flash.cells) (h : MemoryCanonical s) :
    MemoryCanonical t := by
  unfold MemoryCanonical at *
  rwa [hm, hf]

theorem memPut_canonical (s : State) (a : Nat) (v : Word) (h : MemoryCanonical s) : MemoryCanonical (s.memPut a v) :=
  ⟨wmWf_wmPut_zero a v h.1, h.2⟩

theorem memPuts_canonical (s : State) (a : Nat) (l : List Word) (h : MemoryCanonical s) :
    MemoryCanonical (s.memPuts a l) := by
  induction l generalizing s a with
  | nil => exact h
  | cons w t ih => exact ih _ _ (memPut_canonical s a w h)

theorem capWords_canonical (s : State) (ring i : Nat) (l : List Word) (h : MemoryCanonical s) :
    MemoryCanonical (s.capWords ring i l) := by
  induction l generalizing s i with
  | nil => exact h
  | cons w t ih => exact ih _ _ (memPut_canonical s _ w h)

theorem capClear_canonical (s : State) (ring i n : Nat) (h : MemoryCanonical s) : MemoryCanonical (s.capClear ring i n) :=
  ⟨wmWf_filter _ _ h.1, h.2⟩

/-- A span of memory cleared. -/
theorem replaced_canonical {m : WMap} (lo hi : Nat) (hl : lo ≤ hi) (h : wmWf (fun _ => 0) m = true) :
    wmWf (fun _ => 0) (wmReplace lo hi m []) = true := wmWf_wmReplace _ lo hi hl h rfl

theorem startWipe_canonical (s : State) (cause : Nat) (h : MemoryCanonical s) : MemoryCanonical (s.startWipe cause) := by
  have hr := replaced_canonical 0x620000 0x624000 (by omega) h.1
  simp only [State.startWipe, State.putB, State.put, State.setRg]
  split
  · exact h
  · exact ⟨hr, h.2⟩

theorem setFlashWord_canonical (s : State) (w : Nat) (v : Word) (h : MemoryCanonical s) :
    MemoryCanonical (s.setFlashWord w v) :=
  ⟨h.1, wmWf_wmPut (fun _ => 0xFFFF) w v h.2⟩

/-- A fold of register writes leaves memory and flash. -/
theorem setRgs_memory (l : List (Nat × Nat)) (f : State → Nat × Nat → Word) (s : State) :
    (l.foldl (fun t k => t.setRg k.1 (f t k)) s).mem = s.mem ∧
      (l.foldl (fun t k => t.setRg k.1 (f t k)) s).flash = s.flash := by
  induction l generalizing s with
  | nil => exact ⟨rfl, rfl⟩
  | cons k t ih => exact ⟨(ih _).1.trans rfl, (ih _).2.trans rfl⟩

theorem resetKept_canonical (s : State) (h : MemoryCanonical s) : MemoryCanonical s.resetKept := by
  unfold State.resetKept
  refine canonical_congr (setRgs_memory _ _ _).1 (by rw [(setRgs_memory _ _ _).2]) ?_
  exact ⟨wmWf_wmSlice _ _ _ h.1, h.2⟩

/-- Losing the kept bits changes registers only. -/
theorem loseKept_memory (s : State) : s.loseKept.mem = s.mem ∧ s.loseKept.flash = s.flash := by
  unfold State.loseKept
  exact setRgs_memory _ _ _

theorem retOff_canonical (s : State) (h : MemoryCanonical s) : MemoryCanonical s.retOff := canonical_congr rfl rfl h

theorem loseKept_canonical (s : State) (h : MemoryCanonical s) : MemoryCanonical s.loseKept :=
  canonical_congr (loseKept_memory s).1 (by rw [(loseKept_memory s).2]) h

theorem retLoss_canonical (s : State) (h : MemoryCanonical s) : MemoryCanonical s.retLoss := by
  unfold State.retLoss
  exact retOff_canonical _ (loseKept_canonical _ ⟨replaced_canonical 0x600000 0x624000 (by omega) h.1, h.2⟩)

/-- A word written reads back, and every other word keeps its value. -/
theorem memGet_memPut (s : State) (a b : Nat) (v : Word) : (s.memPut a v).memGet b = if b = a then v else s.memGet b := by
  simp [State.memGet, State.memPut, wmGet_wmPut]

end Sys2Proof.Laws
end

