-- ==== Sys2Proof/Laws/Samples.lean ====
section
/-! SUPPORT. What the blanker passes with DFE_BLANK.EN at 0 (R109), and the level of such a window (R110). -/

namespace Sys2Proof.Laws

open Sys2Proof.Machine

/-- With EN at 0 nothing enters the blanker as a hit or as held. -/
theorem blankIn_off (l : List (Cplx × Nat)) (hl : ∀ e ∈ l, bitOf e.2 15 = false) :
    ∀ h, (blankIn l h).1.length = l.length ∧ ∀ b ∈ (blankIn l h).1, b.hit = false ∧ b.en = false := by
  induction l with
  | nil => intro h; simp [blankIn]
  | cons e t ih =>
    intro h
    obtain ⟨x, w⟩ := e
    have hw : bitOf w 15 = false := hl (x, w) (by simp)
    have ht := ih (fun e he => hl e (by simp [he])) (h - 1)
    simpa [blankIn, hw] using ht

/-- What is no hit and not held leaves the blanker as it entered. -/
theorem blankOut_off : ∀ l : List Blank, (∀ b ∈ l, b.hit = false ∧ b.en = false) →
    (blankOut l).map (·.2) = List.replicate (l.length - 4) false
  | [], _ => rfl
  | [_], _ => rfl
  | [_, _], _ => rfl
  | [_, _, _], _ => rfl
  | [_, _, _, _], _ => rfl
  | e :: a :: b :: c :: d :: t, h => by
    have ih := blankOut_off (a :: b :: c :: d :: t) (fun x hx => h x (List.mem_cons_of_mem _ hx))
    have he := h e (by simp)
    have ha := (h a (by simp)).1
    have hb := (h b (by simp)).1
    have hc := (h c (by simp)).1
    have hd := (h d (by simp)).1
    have hn : (e :: a :: b :: c :: d :: t).length - 4 = ((a :: b :: c :: d :: t).length - 4) + 1 := by simp
    rw [hn, List.replicate_succ, ← ih]
    simp [blankOut, Blank.drop, he, ha, hb, hc, hd]

/-- Of a run of samples none of which was blanked, the energy is that of all. -/
theorem unblanked_off (l : List Cplx) : ∀ r : Nat × Nat,
    (l.zip (List.replicate l.length false)).foldl (fun r e => if e.2 then r else (r.1 + e.1.energy, r.2 + 1)) r =
      (r.1 + (l.map Cplx.energy).sum, r.2 + l.length) := by
  induction l with
  | nil => intro r; simp
  | cons x t ih => intro r; simp [List.replicate_succ, ih, Nat.add_comm, Nat.add_left_comm]

/-- The level of a window with DFE_BLANK.EN at 0: every sample counts. -/
theorem windowLevel_off (s : State) (i : Nat) (l : List Taken) (h : bitOf (s.rg (0x704008 + i)).toNat 15 = false) :
    s.windowLevel i l = ((l.map (fun t => ({ re := t.i, im := t.q } : Cplx).energy)).sum, l.length) := by
  have hin := blankIn_off (l.map (fun t => (t.x, (s.rg (0x704008 + i)).toNat))) (by simpa using fun _ _ => h) 0
  have hout := blankOut_off ((blankIn (l.map (fun t => (t.x, (s.rg (0x704008 + i)).toNat))) 0).1 ++ List.replicate 4 ({} : Blank))
    (by
      intro b hb
      rcases List.mem_append.mp hb with hb | hb
      · exact hin.2 b hb
      · rw [(List.mem_replicate.mp hb).2]; exact ⟨rfl, rfl⟩)
  have hlen : ((blankIn (l.map (fun t => (t.x, (s.rg (0x704008 + i)).toNat))) 0).1 ++ List.replicate 4 ({} : Blank)).length - 4 = l.length := by
    simp [hin.1]
  rw [hlen] at hout
  have := unblanked_off (l.map (fun t => ({ re := t.i, im := t.q } : Cplx))) (0, 0)
  simp only [List.length_map] at this
  simp only [State.windowLevel, unblanked, hout, this]
  simp [List.map_map, Function.comp_def]

end Sys2Proof.Laws
end

