-- ==== Sys2Proof/WellFormed.lean ====
section
/-!
DEFINITION. Which operands of a command the hardware around it can bring: lists of the lengths, and values of the ranges,
that spec/ gives the measurement. Every other command is well formed with any operands of its type.
-/

namespace Sys2Proof

/-- A tick holds at most 81,922 band samples (R24). -/
def adcOk (l : List Adc) : Bool := decide (l.length ≤ 81922)

/-- Two aerials, six paths (R77); the control value has 24 bits (R274). -/
def TickEnv.ok (t : TickEnv) : Bool :=
  decide (t.bias.length ≤ 2) && decide (t.adc.length ≤ 6) && t.adc.all adcOk && decide (t.cval < 2 ^ 24)

/-- The operands are ones that the hardware can bring. -/
def Instr.wellFormed : Instr → Bool
  | .tick env => env.ok
  | .bootComplete env => env.ok
  | .pathCalDone _ cal => decide ((cal.map (·.band)).Nodup)
  | .agcWindow _ adc => decide (adc.length ≤ 8192)
  | .spectrum bad => bad.all (fun e => decide (e.1 < 6) && decide (e.2 < 1024))
  | .divDecision _ a b => adcOk a && adcOk b
  | .synLock wins => wins.all (fun w => decide (w.cval < 2 ^ 24))
  | .synLockLost wins => wins.all (fun w => decide (w.cval < 2 ^ 24))
  | .weirDecision _ sens => decide (sens.length = 6)
  | .hostWriteFrame _ _ ws _ _ => decide (ws.length ≤ 4096)
  | .cmdFrame _ _ rx _ => decide (rx.length ≤ 128)
  | .otpProgramDone fail => decide ((fail.map (·.1)).Nodup)
  | _ => true

end Sys2Proof
end

