-- ==== Sys2Proof/Tests/Slice0.lean ====
section
/-!
SUPPORT. Tests: operands that are not well formed are refused; worked examples of the spec; and for every obligation with
hypotheses, states and operands that meet them.
-/

namespace Sys2Proof.Tests

open Sys2Proof Sys2Proof.Machine Sys2Proof.Safety

/-! ### Helpers -/

/-- The state after a command. -/
def after (c : Instr) (s : State) : State :=
  match exec c s with
  | .next t => t
  | _ => s

/-- The command answers a next state; the step does. -/
def goesOn (c : Instr) (s : State) : Bool :=
  match exec c s with
  | .next _ => true
  | _ => false

def stepsOn (s : State) : Bool :=
  match step s with
  | .next _ => true
  | _ => false

/-- After reset, with engine 0 as `g`, issuing. -/
def onEngine (g : Engine) : State := State.reset.setEng 0 { g with issuing := true }

/-- The block running on the system clock, at the start of tick 5. -/
def run : State :=
  { State.reset with
    pwr := { State.reset.pwr with stage := .running }
    clk := { State.reset.clk with limp := false, running := true, tbRun := true, tickCount := 5 } }

/-- `run` 256 cycles before the tick edge: the commit guard. -/
def guard : State := { run with clk := { run.clk with phase := 491264 } }

/-- `run` with its first `n` clocks of the tick gone by and the counter of the time base at `acc`. -/
def runAt (n acc : Nat) : State := { run with clk := { run.clk with phase := n, total := n, acc := acc } }

/-- `s` at `n` of `ClkSt.age`. -/
def aged (n : Nat) (s : State) : State := { s with clk := { s.clk with age := n } }

/-- The clocks come to `ClkSt.age` `x`, as `Comes` says. -/
def comes (s : State) (x : Nat) : Bool := s.clk.waking == [] && (s.runAge x).isSome

def i0 : Issue := { e := 0 }

/-- No hardware loop is open where none is listed. -/
theorem noLoops_of (g : Engine) (h : g.loops = [none, none]) : NoLoops g := by
  intro k
  rw [h]
  match k with
  | 0 => rfl
  | 1 => rfl
  | _ + 2 => rfl

/-- The RW fields of the register at `a` hold values that it accepts. -/
def legal (s : State) (a : Nat) : Bool :=
  match regAt a with
  | none => true
  | some (g, _) => g.fields.all (fun f => f.ty != .rw || f.accepts (s.rg a).toNat)

theorem legal_of {s : State} {a : Nat} (h : legal s a = true) : Legal s a := by
  intro g k hr f hf ht
  unfold legal at h
  rw [hr] at h
  have := List.all_eq_true.mp h f hf
  simpa [ht] using this

/-! ### Operands that the hardware cannot bring -/

set_option maxRecDepth 100000 in
/-- R24: a tick holds at most 81,922 band samples -/
theorem test_samples_of_a_tick :
    adcOk (List.replicate 2 (0x80, 0x7F)) = true ∧ Instr.wellFormed (.divDecision 0 [(0x80, 0x7F)] []) = true := by decide

set_option maxRecDepth 100000 in
/-- R77, R274 -/
theorem test_tick_environment :
    Instr.wellFormed (.tick {}) = true ∧ Instr.wellFormed (.tick { bias := [0, 0, 0] }) = false ∧
    Instr.wellFormed (.tick { adc := List.replicate 7 [] }) = false ∧ Instr.wellFormed (.bootComplete { cval := 2 ^ 24 }) = false ∧
    Instr.wellFormed (.tick { cval := 2 ^ 24 }) = false ∧ Instr.wellFormed (.synLock [⟨0, 2 ^ 24⟩]) = false := by decide

set_option maxRecDepth 100000 in
/-- One measurement for each band -/
theorem test_path_cal_bands :
    Instr.wellFormed (.pathCalDone 0 [⟨0, 0, 0, 0, 0, 0, 0⟩, ⟨0, 0, 0, 0, 0, 0, 0⟩]) = false := by decide

set_option maxRecDepth 100000 in
/-- R82 -/
theorem test_agc_window :
    Instr.wellFormed (.agcWindow 0 []) = true ∧ Instr.wellFormed (.agcWindow 0 (List.replicate 8193 (0, 0))) = false := by decide

set_option maxRecDepth 100000 in
/-- R115: six paths of 1,024 words -/
theorem test_spectrum_shape :
    Instr.wellFormed (.spectrum [(5, 1023)]) = true ∧ Instr.wellFormed (.spectrum [(6, 0)]) = false ∧ Instr.wellFormed (.spectrum [(0, 1024)]) = false := by decide

set_option maxRecDepth 100000 in
/-- R85: −128 is delivered as −127, and ±127 counts as clipped -/
theorem test_adc_codes :
    adcSample 0x80 = -127 ∧ adcSample 0x7F = 127 ∧ adcSample 0xFF = -1 ∧ clippedSample (-127) 0 = true ∧ clippedSample 0 126 = false := by decide

set_option maxRecDepth 100000 in
/-- R86: a correction of 1 LSB on I, 1/2 on Q; the clamp at ±127; GAIN 2,048 adds half of Q and PHASE 2,048 half of I -/
theorem test_iq_correction :
    correctSample 16 0 0 0 5 5 = { re := 4, im := 5 } ∧ correctSample (-16) 0 0 0 127 0 = { re := 127, im := 0 } ∧
    correctSample 0 0 2048 0 0 40 = { re := 0, im := 60 } ∧ correctSample 0 0 0 2048 40 0 = { re := 40, im := 20 } := by decide

set_option maxRecDepth 100000 in
/-- R120: a gain of 32 is 1, and −16 is never produced -/
theorem test_requantise :
    requantise 32 (-16) = -15 ∧ requantise 32 15 = 15 ∧ requantise 64 5 = 10 ∧ requantise 24 3 = 2 ∧ requantise 24 (-3) = -2 := by decide

set_option maxRecDepth 100000 in
/-- R494: the check value of this CRC-32, that of the bytes "123456789" -/
theorem test_crc32 :
    crc32 [0x31, 0x32, 0x33, 0x34, 0x35, 0x36, 0x37, 0x38, 0x39] = 0xCBF43926 := by decide

set_option maxRecDepth 100000 in
/-- R217: of 8 phases, ties go to the lower one, and cells within 2 samples of a peak are passed over -/
theorem test_job_peaks :
    peakCells 8 1 8 [0, 5, 9, 9, 1, 0, 3, 0] 2 [] = [(0, 0, 2), (0, 0, 6)] := by decide

set_option maxRecDepth 100000 in
/-- R217: δ is 0 where the neighbours agree, and (0 − 8) ÷ (2 × (0 − 16 + 8)) = 1/2 -/
theorem test_job_fit :
    fitSixteenth 4 10 4 = 0 ∧ fitSixteenth 0 8 8 = 8 := by decide

set_option maxRecDepth 100000 in
/-- R420 -/
theorem test_weir_sensors :
    Instr.wellFormed (.weirDecision 0 [0, 0, 0, 0, 0, 0]) = true ∧ Instr.wellFormed (.weirDecision 0 [0]) = false := by decide

set_option maxRecDepth 100000 in
/-- R487 -/
theorem test_cmd_frame_bytes :
    Instr.wellFormed (.cmdFrame 0 0 (List.replicate 129 0) []) = false := by decide

set_option maxRecDepth 100000 in
/-- Each word of a row reads back once -/
theorem test_otp_fail_words :
    Instr.wellFormed (.otpProgramDone [(0, 0), (0, 1)]) = false := by decide

/-! ### Worked examples of the spec -/

/-- The delay line of chapter 11 (R329): B2 = 0x00_1000, L2 = 100, M2 = 3, X2 = 0x00_1062. -/
def delayLine : Engine :=
  { x := [0, 0, 0x1062, 0, 0, 0, 0, 0], b := [0, 0, 0x1000, 0, 0, 0, 0, 0], l := [0, 0, 100, 0, 0, 0, 0, 0]
    m := [0, 0, 3, 0, 0, 0, 0, 0] }

set_option maxRecDepth 100000 in
/-- The accesses of the example: 0x00_1062 and X2 at 0x00_1001, then 0x00_103E with L2 at 64 -/
theorem test_delay_line :
    delayLine.longAddr (.postM 2 2) = (0x1062, some (2, 0x1001)) ∧
    Engine.longAddr { delayLine with x := [0, 0, 0x1001, 0, 0, 0, 0, 0], l := [0, 0, 64, 0, 0, 0, 0, 0] } (.preM 2 2) =
    (0x103E, some (2, 0x103E)) ∧
    Engine.longAddr { delayLine with x := [0, 0, 0x1050, 0, 0, 0, 0, 0], l := [0, 0, 64, 0, 0, 0, 0, 0] } (.postM 2 2) =
    (0x1050, some (2, 0x1013)) := by decide

set_option maxRecDepth 100000 in
/-- R382: 0x4000 by 1 leaves the range; SAT is 1 after reset -/
theorem test_shift_left_saturates :
    ((after (.ashi i0 1 1) (onEngine { w := [0, 0x4000] })).eng 0).wr 1 = 0x7FFF ∧
    ((after (.ashi i0 1 1) (onEngine { w := [0, 0x4000] })).eng 0).st = 0x4011 := by decide

set_option maxRecDepth 100000 in
/-- R381 -/
theorem test_neg_most_negative :
    ((after (.neg i0 (.short 1 2)) (onEngine { w := [0, 0, 0x8000] })).eng 0).wr 1 = 0x7FFF ∧
    ((after (.neg i0 (.short 1 2)) (onEngine { w := [0, 0, 0x8000], st := 0 })).eng 0).wr 1 = 0x8000 := by decide

set_option maxRecDepth 100000 in
/-- R384: 0x8000 by −1 in integer mode -/
theorem test_div_minus_one :
    (((after (.div i0 {} 1 2 3 4) (onEngine { w := [0, 0, 0, 0x8000, 0xFFFF] })).eng 0).advances 17).wr 1 = 0x7FFF ∧
    (((after (.div i0 {} 1 2 3 4) (onEngine { w := [0, 0, 0, 0x8000, 0xFFFF] })).eng 0).advances 17).wr 2 = 0 := by decide

set_option maxRecDepth 100000 in
/-- R357: GOT 1, HELD 1 and OWNER the reader -/
theorem test_semaphore_claim :
    (after (.semRead 3 0) run).readData = 0xC003 ∧ (after (.semRead 4 0) (after (.semRead 3 0) run)).readData = 0x4003 := by decide

/-- The sine table of chapter 12's example: the descriptor at 0x0400, entries 42 and 43 at 0x202A and 0x202B, RND NEAR. -/
def sine (rnd : Word) : State :=
  onEngine { w := [0, 0, 0x2A5C], x := [0, 0x400, 0, 0, 0, 0, 0, 0], st := 0x4000 ||| rnd
             loc := [(0x400, 0x2000), (0x401, 0x8800), (0x202A, 28105), (0x202B, 28510)] }

set_option maxRecDepth 100000 in
/-- R391: W3 = 0x6E5B, and 0x6E5A under TRUNC -/
theorem test_sine :
    (((after (.tbli i0 {} 3 2 1 []) (sine 0x800)).eng 0).advances 2).wr 3 = 0x6E5B ∧
    (((after (.tbli i0 {} 3 2 1 []) (sine 0)).eng 0).advances 2).wr 3 = 0x6E5A := by decide

/-- Chapter 19's example: tick 1,234,567 at phase 9,000 (in 16 clocks); 5 records, RD 12, SEQ 0x002A; the scrubber at 0x11_9004. -/
def scrubbing : State :=
  let s := { run with clk := { run.clk with tickCount := 1234567, phase := 144000, total := 144000 }, flt := { run.flt with depth := 5, rd := 12, seq := 42 } }
  ((s.setRg 0x70D008 0x9004).setRg 0x70D009 0x11).putB R.MEM_ECC_CFG_SCRUB_EN true

set_option maxRecDepth 100000 in
/-- The record of the example stands in slot 17, from 0x71_2498 -/
theorem test_scrub_double_error :
    let t := after (.scrub [⟨0x119004, 3, 0⟩]) scrubbing
    (List.range 8).map (fun k => wmGet 0 t.flt.ring (0x712498 + k)) =
    [0x0C02, 0xF4FF, 0xD687, 0x0012, 0x2328, 0x9004, 0x0011, 0x002A] ∧ t.flt.depth = 6 ∧ t.flt.pend.testBit 11 = true := by decide

/-! ### States and operands that meet the hypotheses of the obligations: the engines -/

/-- An engine with a value in each kind of register. -/
def full : Engine :=
  { w := (List.range 16).map (fun k => BitVec.ofNat 16 (0x1111 * k)), a := [5, 0xFF00000000, 0x7FFFFFFFFF, 0]
    x := [0x100, 0x101, 0x3FFF, 0x100000, 0x2000, 0x10, 0x20, 0x30], p := 0x0B, pc := 0x7FFF }

/-- `full` issuing on engine 0, with its local words. -/
def busy : State := onEngine { full with loc := [(0x100, 7), (0x101, 8)], pc := 0x100 }

/-- A guard that is true on `full`, and one that is false. -/
def yes : Guard := { gp := 3 }

def no : Guard := { gp := 2 }

set_option maxRecDepth 100000 in
/-- The states of these tests are settled -/
theorem witness_settled :
    Settled State.reset ∧ Settled run ∧ Settled guard ∧ Settled busy ∧ Settled (onEngine full) := by
  unfold Settled PermitFollowed FaultsEntered
  decide

set_option maxRecDepth 100000 in
theorem witness_StepRunsFrontCommand :
    ({ State.reset with pending := [.vinRecover, .tick {}] } : State).pending = .vinRecover :: [.tick {}] := by decide

set_option maxRecDepth 100000 in
/-- In reset; and running, before the tick's last clock and at it -/
theorem witness_IdleStep :
    (after .reset run).pending = [] ∧ (after .reset run).live = false ∧ Settled (after .reset run) ∧
    run.pending = [] ∧ run.live = true ∧ run.clk.running = true ∧ run.clk.waking = [] ∧ (∀ e : Fin 8, (run.eng e).wbuf = []) ∧
    (∀ n : Fin 16, (run.gate n).opened = none) ∧ (∀ c : Fin 192, (run.chan c).buf = none) ∧
    run.clk.phase + 1 < run.clk.tickLen ∧ (runAt 491519 0).clk.tickLen ≤ (runAt 491519 0).clk.phase + 1 := by
  unfold Settled PermitFollowed FaultsEntered
  decide

set_option maxRecDepth 100000 in
/-- A step answers a next state, with the queue empty and with a command waiting -/
theorem witness_StepsStaySettled :
    stepsOn run = true ∧ stepsOn { run with pending := [.tick {}] } = true := by decide

set_option maxRecDepth 100000 in
/-- WordLogic, WordSums, WordShifts, WordSelectsAndImmediates and their frames: short, guarded long and unary
forms; shift counts −32, −16, −1, 0, 1, 16 and 31; an operand of 0, of −1 and any other -/
theorem witness_WordForms :
    Runs busy i0 (aluGuard (.short 1 2)) ∧ Runs busy i0 (aluGuard (.long yes 15 0 15)) ∧ Runs busy i0 {} ∧ Runs busy i0 yes ∧
    aluOne (.long yes 1 2 0) ∧
    [32, 48, 63, 0, 1, 16, 31].map (fun n => (BitVec.ofNat 6 n).toInt) = [-32, -16, -1, 0, 1, 16, 31] ∧
    (aluRight full (.short 1 8)).toInt ≠ 0 ∧ (aluOnly full (.short 1 15)).toInt = -1 ∧ (aluOnly full (.short 1 0)).toInt = 0 ∧
    (15 : BitVec 6).toNat < 16 := by
  unfold Runs aluOne
  decide

set_option maxRecDepth 100000 in
/-- MOVX to the high byte; ST with a legal RND -/
theorem witness_RegisterMoves :
    Runs busy i0 yes ∧ Runs busy i0 {} ∧ (255 : Word).toNat < 256 ∧ (busy.eng 0).fly = [] ∧
    ((busy.eng 0).wr 1).extractLsb' 11 2 ≠ 3 ∧ ((busy.eng 0).regRead { kind := 11, idx := 3, part := false }).isSome = true := by
  unfold Runs
  decide

set_option maxRecDepth 100000 in
theorem witness_Predicates :
    Runs busy i0 yes ∧ (11 : Fin 16).val < 12 ∧ (5 : Fin 16).val < 6 ∧ plogBad 0 0 6 = false := by
  unfold Runs
  decide

set_option maxRecDepth 100000 in
/-- Counts 63, 0, −1 and −64; an accumulator beyond 32 bits; a legal RND; an accumulator of 0, −1 and other -/
theorem witness_Accumulators :
    Runs busy i0 yes ∧ (63 : BitVec 7).toInt = 63 ∧ (127 : BitVec 7).toInt = -1 ∧ (64 : BitVec 7).toInt = -64 ∧
    clampInt (-2 ^ 31) (2 ^ 31 - 1) (full.ar 2).toInt ≠ (full.ar 2).toInt ∧ RndLegal (busy.eng 0).st ∧ (full.ar 3).toInt = 0 ∧
    (0xFFFFFFFFFF : BitVec 40).toInt = -1 ∧ (full.ar 0).toInt ≠ 0 := by
  unfold Runs RndLegal
  decide

set_option maxRecDepth 100000 in
/-- Both forms; M2 with an even and with an odd accumulator; and a chain on A0 in range -/
theorem witness_Multiplies :
    Runs busy i0 {} ∧ Runs busy i0 yes ∧ (∀ d : Fin 4, Unchained (busy.eng 0) d) ∧ RndLegal (busy.eng 0).st ∧
    (2 : Fin 4).val % 2 = 0 ∧ (3 : Fin 4).val % 2 = 1 ∧ (busy.eng 0).fly = [] ∧ (busy.eng 0).tend = none ∧
    outOfAcc ((full.ar 0).toInt + productOf (busy.eng 0).st (full.wr 1) (full.wr 2)) = false ∧
    goesOn (.mac i0 (.short 0 1 2)) busy = true := by
  unfold Runs RndLegal Unchained
  decide

set_option maxRecDepth 100000 in
/-- A divisor, and the divisor 0, in integer mode -/
theorem witness_Division :
    Runs busy i0 yes ∧ (1 : Fin 16) ≠ 2 ∧ (full.wr 3).toInt ≠ 0 ∧ (full.wr 0).toInt = 0 ∧ (busy.eng 0).st.getLsbD 13 = false := by
  unfold Runs
  decide

/-- `busy` with a word of the Pool set. -/
def pool : State := busy.memPut 0x100000 0x1234

set_option maxRecDepth 100000 in
set_option synthInstance.maxSize 4096 in
/-- A local word; a Pool word; an accumulator part and a whole accumulator; LD2; LDS of X, of A and of ST -/
theorem witness_Loads :
    Runs busy i0 (memGuard (.short 0 0 15)) ∧ memAddr (busy.eng 0) (.short 0 0 15) = some (0x100, none) ∧
    PlainRead busy 0 0x100 7 ∧ PlainRead busy 0 0x101 8 ∧ PlainRead busy 0 0x7FFF 0 ∧ memReg (.short 0 0 15) < 16 ∧
    Runs pool i0 (memGuard (.long yes 27 (.offset 3 0))) ∧ memAddr (pool.eng 0) (.long yes 27 (.offset 3 0)) = some (0x100000, none) ∧
    PlainRead pool 0 0x100000 0x1234 ∧ PlainRead pool 0 0x2FFFFF 0 ∧ memReg (.long yes 27 (.offset 3 0)) = 27 ∧
    memReg (.long yes 28 (.offset 3 0)) = 28 ∧ (0 : Fin 8) ≠ 1 ∧ (full.dualAddr 0 0).1 = 0x100 ∧ (full.dualAddr 1 1).1 = 0x101 ∧
    (busy.eng 0).specAddr ⟨0, false, 1⟩ = some (0x100, some (0, 0x101)) ∧ (regDest ⟨0, 7, true⟩).isSome = true ∧
    regDest ⟨10, 3, true⟩ = some (.aHs 3, 2) ∧ (regDest ⟨7, 0, false⟩).isSome = true ∧ (7 : Word).extractLsb' 11 2 ≠ 3 := by
  unfold Runs
  and_intros <;> first | decide | exact Or.inl (by decide) | exact Or.inr (by decide)

set_option maxRecDepth 100000 in
/-- To local memory, across its end, and to the write buffer; STS to local memory -/
theorem witness_Stores :
    Settled busy ∧ Quiet (busy.eng 0) ∧ Runs busy i0 (memGuard (.short 1 0 3)) ∧
    memAddr (busy.eng 0) (.short 1 0 3) = some (0x100, some (0, 0x101)) ∧ (0x100 : Nat) < 0x8000 ∧
    memAddr (busy.eng 0) (.long yes 31 (.absolute 0x7FFE)) = some (0x7FFE, none) ∧ (0x7FFE + 1) % 2 ^ 24 < 0x8000 ∧
    outOf32 (full.ar 2).toInt = true ∧ memAddr (busy.eng 0) (.long yes 27 (.absolute 0x8000)) = some (0x8000, none) ∧
    (busy.eng 0).wbuf.length < 8 ∧ (busy.eng 0).specAddr ⟨7, true, 0⟩ = some (0x2F, some (7, 0x2F)) ∧
    (busy.eng 0).regRead ⟨6, 0, false⟩ = some 0 ∧ stsBad ⟨6, 0, false⟩ 7 = false := by
  unfold Settled PermitFollowed FaultsEntered Runs Quiet
  decide

set_option maxRecDepth 100000 in
/-- The sine table: its descriptor and both entries are read -/
theorem witness_TableLookUp :
    Runs (sine 0x800) i0 {} ∧ PlainRead (sine 0x800) 0 (0x400 % 2 ^ 24) 0x2000 ∧
    PlainRead (sine 0x800) 0 0x401 0x8800 ∧ PlainRead (sine 0x800) 0 0x402 0 ∧ PlainRead (sine 0x800) 0 0x403 0 ∧
    PlainRead (sine 0x800) 0 0x202A 28105 ∧ PlainRead (sine 0x800) 0 0x202B 28510 ∧ RndLegal ((sine 0x800).eng 0).st := by
  unfold Runs RndLegal
  and_intros <;> first | decide | exact Or.inl (by decide) | exact Or.inr (by decide)

set_option maxRecDepth 100000 in
/-- At parcel 0x100, and at the last parcel -/
theorem witness_Branches :
    Settled busy ∧ (busy.eng 0).jump = none ∧ (busy.eng 0).tend = none ∧ (busy.eng 0).loops = [none, none] ∧ Runs busy i0 {} ∧
    Runs busy i0 yes ∧ Runs (onEngine full) i0 {} ∧ (busy.eng 0).fly = [] := by
  unfold Settled PermitFollowed FaultsEntered Runs
  decide

/-- Engine 0 in task 0 with a write of the Pool's last word waiting. -/
def inTask : State := onEngine { full with task := some 0, wbuf := [(0x2FFFFF, 9)] }

set_option maxRecDepth 100000 in
/-- SWI, RTT, FENCE with a Pool write waiting, TEND in a task -/
theorem witness_TrapsFencesAndTaskEnds :
    Runs inTask i0 {} ∧ (inTask.eng 0).tm = false ∧ (inTask.eng 0).fly = [] ∧ (inTask.eng 0).jump = none ∧ (inTask.eng 0).tend = none ∧
    (inTask.eng 0).loops = [none, none] ∧ (0x2FFFFF : Nat) < 0x300000 ∧ inTask.live = true ∧
    inTask.allowed 0 ((0x2FFFFF - 0x100000) / 0x10000) .write = true ∧ inTask.memSt.borrowed = none ∧
    inTask.frozenAt 0x2FFFFF = false ∧ (inTask.eng 0).wbuf = [(0x2FFFFF, BitVec.ofNat 16 9)] ∧
    (inTask.eng 0).task = some (0 : Fin 240).val := by
  unfold Runs
  decide

/-- Engine 0 at the end parcel of a loop on level 1, with `n` passes left. -/
def looping (n : Word) : State := onEngine { full with pc := 0x110, lc := [0, n], loops := [none, some ⟨0x100, 0x110⟩] }

set_option maxRecDepth 100000 in
/-- LOOPI with count 1, LOOPR with a count and with 0, LBRK, and end parcels with 2 passes left and with 1 -/
theorem witness_HardwareLoops :
    (busy.eng 0).jump = none ∧ (busy.eng 0).tend = none ∧ (busy.eng 0).tm = false ∧ Runs busy i0 yes ∧ (1 : BitVec 10) ≠ 0 ∧
    (busy.eng 0).wr 1 ≠ 0 ∧ (busy.eng 0).wr 0 = 0 ∧ Runs (looping 2) i0 {} ∧ ((looping 2).eng 0).fly = [] ∧
    (0x110 : Nat) = ((looping 2).eng 0).pc % 32768 ∧ ((looping 2).eng 0).loops.getD 1 none = some ⟨0x100, 0x110⟩ ∧
    ((looping 2).eng 0).loops.getD 0 none = none ∧ ((looping 2).eng 0).lcr 1 = 2 ∧ ((looping 1).eng 0).lcr 1 = 1 := by
  unfold Runs
  decide

/-- Engine 0 with user opcode 3: MOVL L2 in its first micro-word, which is the last, with flags `f` in word 2. -/
def user (f : Word) : State := onEngine { full with dtab := [(3, 0x8001)], ucode := [(3, 0x1234), (4, 0xE17A), (5, f)] }

set_option maxRecDepth 100000 in
/-- A slot with no microcode; a MOVL with its own immediate, and with the parcel's -/
theorem witness_UserOpcodes :
    ((user 0x8000).eng 0).issuing = true ∧ i0.parity = false ∧ ((user 0x8000).eng 0).ucBad = [] ∧ ((user 0x8000).eng 0).tm = false ∧
    (wmGet 0 ((user 0x8000).eng 0).dtab 4).msb = false ∧ (wmGet 0 ((user 0x8000).eng 0).dtab 3).msb = true ∧
    ((user 0x8000).eng 0).guardOn yes = true ∧ wmGet 0 ((user 0x8000).eng 0).ucode 4 = BitVec.ofNat 16 (0xE178 + 2) ∧
    wmGet 0 ((user 0x8000).eng 0).ucode 3 = 0x1234 ∧ wmGet 0 ((user 0x829C).eng 0).ucode 5 = 0x829C := by decide

set_option maxRecDepth 100000 in
theorem witness_ReservedFormsTrap :
    (busy.eng 0).issuing = true ∧ (busy.eng 0).tm = false ∧ ({ e := 0, parity := true } : Issue).parity = true ∧ i0.parity = false ∧
    (1 : Fin 16) ≠ 0 ∧ 16 ≤ (16 : BitVec 6).toNat ∧ 256 ≤ (256 : Word).toNat ∧ 12 ≤ (12 : Fin 16).val ∧ 6 ≤ (6 : Fin 16).val ∧
    (3 : Fin 4).val % 2 = 1 ∧ bitsOf ((onEngine { w := [0x1800] }).eng 0 |>.wr 0).toNat 12 11 = 3 ∧
    ((onEngine { jump := some { slots := 1, target := 0 } }).eng 0).inSlot = true := by decide

set_option maxRecDepth 100000 in
theorem witness_GuardFalse :
    Settled busy ∧ (busy.eng 0).issuing = true ∧ guardBad no = false ∧ (busy.eng 0).guardOn no = false ∧ Quiet (busy.eng 0) ∧
    (busy.eng 0).loops = [none, none] ∧ (1 : BitVec 10) ≠ 0 ∧ (busy.eng 0).tm = false ∧ (wmGet 0 ((user 0x8000).eng 0).dtab 3).msb = true := by
  unfold Settled PermitFollowed FaultsEntered Quiet
  decide

set_option maxRecDepth 100000 in
/-- Beside the states of the statements above -/
theorem witness_InstructionFrames :
    Settled busy ∧ Quiet (busy.eng 0) ∧ (busy.eng 0).wbuf = [] ∧ (2 : Fin 4).val % 2 = 0 ∧ (0 : Fin 16) ≠ 1 ∧ (11 : Fin 16).val < 12 ∧
    plogBad 7 0 5 = false ∧ regDest ⟨2, 7, true⟩ = some (.bH 7, 2) ∧ Settled (sine 0) ∧ Quiet ((sine 0).eng 0) := by
  unfold Settled PermitFollowed FaultsEntered Quiet
  decide

/-! ### Registers, the tick and the front ends -/

/-- `s` with fields set. -/
def sets (s : State) (l : List (Fld × Nat)) : State := l.foldl (fun s e => s.put e.1 e.2) s

set_option maxRecDepth 100000 in
/-- FE's band synthesiser block, TP, WEIR and HP: the first is written whole, and refused where it holds a reserved value -/
theorem witness_RegisterWrites :
    CanWrite run 0 0x703004 ∧ (0x703004 / 0x1000) ∈ [0x703, 0x708, 0x70C, 0x70F] ∧ (0x703004 % 0x1000) ≠ 1 ∧
    (regAt 0x703004).isSome = true ∧
    (match regAt 0x703004 with | some (g, _) => g.writable && g.accepts (g.resets.headD 0) | none => false) = true ∧
    run.agrees 0x703004 (run.rg 0x703004).toNat = true ∧
    CanWrite run 0 0x709003 ∧ run.lockedEntry 0x709003 = none ∧ run.droppedWrite 0x709003 = false ∧
    (match regAt 0x709003 with | some (g, _) => g.writable && !g.accepts 0xF000 | none => false) = true ∧ (0x700060 ≤ 0x709003) := by
  unfold CanWrite NoneWaits
  decide

set_option maxRecDepth 100000 in
/-- Bank 0 shut; the violation is the first of its tick, and not -/
theorem witness_DeniedAccess :
    (run.setRg 0x70E101 0).live = true ∧ (regionOf 0x100000).target = some 0 ∧ (run.setRg 0x70E101 0).allowed 8 0 .write = false ∧
    NoneWaits run 8 ∧ NoneWaits run 0 ∧ run.memSt.violSeen.contains (8, 0) = false ∧ ({ run.memSt with violSeen := [(8, 0)] } : MemSt).violSeen.contains (8, 0) = true := by
  unfold NoneWaits
  decide

set_option maxRecDepth 100000 in
/-- In the guard and outside -/
theorem witness_CommitStages :
    CanWrite run 0 (commitReg .tp) ∧ run.inGuard = false ∧ CanWrite guard 0 (commitReg .tp) ∧ guard.inGuard = true := by
  unfold CanWrite NoneWaits
  decide

set_option maxRecDepth 100000 in
theorem witness_Reads :
    CanRead run 0 0x700010 ∧ run.shadowOf 0 0x700010 = none ∧ CanRead run 0 0x700011 ∧
    Settled (after (.shadowRead 0 0x700010) run) ∧ CanRead (after (.shadowRead 0 0x700010) run) 0 0x700011 ∧
    CanRead run 0 0x712006 ∧ run.host.open_ = false ∧ run.shadowOf 0 0x712006 = none ∧ run.flt.lostCnt < 65536 ∧
    regionOf 0x008000 = .reserved ∧ regionOf 0x0FFFFF = .reserved ∧ run.live = true ∧ NoneWaits run 0 := by
  unfold Settled PermitFollowed FaultsEntered CanRead NoneWaits
  decide

set_option maxRecDepth 100000 in
/-- The time base exact, just late and early by half a coincidence period -/
theorem witness_TickEdge :
    run.clk.running = true ∧ (∀ e : Fin 8, (run.eng e).wbuf = []) ∧ (0 : Nat) < 6 * 400000 * 2 ^ 72 ∧
    6 * 400000 * 2 ^ 72 ≤ (run.perClk + 6 * 400000 * 2 ^ 72) % (1000000 * accPerNs) := by decide

/-- Both aerials in RUN, all paths enabled and in RUN, the LOs locked, the bias on. -/
def aerials : State :=
  sets { run with syn := { run.syn with firstLock := true } }
    [(R.FE_CTRL 0, 0xE007), (R.FE_CTRL 1, 0xE007), (R.FE_STAT_STATE 0, 5), (R.FE_STAT_STATE 1, 5), (R.FE_STAT_PATH 0, 0x2A),
     (R.FE_STAT_PATH 1, 0x2A), (R.LO_STAT_LOCK 0, 1), (R.LO_STAT_LOCK 1, 1), (R.LO_STAT_LOCK 2, 1)]

/-- Aerial 0 in FAULT by `cause`. -/
def faulty (cause : Nat) : State := sets aerials [(R.FE_STAT_STATE 0, 6), (R.FE_STAT_CAUSE 0, cause)]

set_option maxRecDepth 100000 in
set_option synthInstance.maxSize 4096 in
/-- ENABLE before and after the first lock, in OFF and not; DISABLE on and off; paths on and off; RECAL in RUN and
not; CLEAR outside FAULT, and by each cause; the bias switch closed and open; VIN_ANT at 2.89, 2.90, 5.80 and 5.81 V -/
theorem witness_FrontEnds :
    CanWrite aerials 0 (0x702004 + 1) ∧ aerials.fesm 0 = 5 ∧ run.fesm 0 = 0 ∧ run.syn.firstLock = false ∧ aerials.syn.firstLock = true ∧
    (sets aerials [(R.FE_STAT_STATE 0, 0)]).fesm 0 = 0 ∧ aerials.isOn (R.FE_CTRL_ENABLE 0) = true ∧ run.isOn (R.FE_CTRL_ENABLE 0) = false ∧
    aerials.isOn (pathEnFld 0 2) = true ∧ aerials.get (pathFld 0 2) = 2 ∧
    (sets aerials [(pathEnFld 0 2, 0), (pathFld 0 2, 0)]).isOn (pathEnFld 0 2) = false ∧
    (sets aerials [(pathEnFld 0 2, 0), (pathFld 0 2, 0)]).get (pathFld 0 2) = 0 ∧ aerials.fe.toOff.getD 2 false = false ∧
    (faulty 7).fesm 0 = 6 ∧ (faulty 7).get (R.FE_STAT_CAUSE 0) = 7 ∧ (faulty 4).get (R.FE_STAT_CAUSE 0) = 4 ∧
    (faulty 6).clk.limp = false ∧ aerials.losLocked = true ∧ run.losLocked = false ∧ aerials.biasClosed 0 = true ∧
    (faulty 1).biasClosed 0 = false ∧ (faulty 1).isOn (R.FE_CTRL_AUTO_RETRY 0) = true ∧ aerials.isOn R.FE_VIN_ANT_VIN_LOW = false ∧
    aerials.isOn R.FE_VIN_ANT_VIN_HIGH = false ∧ ({ aerials.fe with vinOk := 10 } : FeSt).vinOk = 10 ∧ aerials.fe.vinOk < 10 ∧ Settled aerials ∧
    (sets aerials [(R.FE_STAT_STATE 0, 1)]).fesm 0 = 1 ∧ comes run (10 * agePerUs) = true ∧ comes (aged (2000 * agePerUs) run) (2000 * agePerUs) = true ∧
    comes run (2000 * agePerUs) = false ∧ aerials.fe.fesmAt.getD 0 0 = 0 ∧ comes (aged (2 * 10000 * agePerUs - 1) run) (2 * 10000 * agePerUs) = true ∧
    aerials.get (R.FE_BIAS_I_BSTAT 0) ≠ 2 ∧ (sets aerials [(R.FE_BIAS_I_BSTAT 0, 2), (R.FE_CTRL_OPEN_ACT 0, 1)]).get (R.FE_BIAS_I_BSTAT 0) = 2 ∧
    (sets aerials [(R.FE_BIAS_I_BSTAT 0, 2), (R.FE_CTRL_OPEN_ACT 0, 1)]).isOn (R.FE_CTRL_OPEN_ACT 0) = true ∧
    (aerials.putB R.FE_VIN_ANT_VIN_HIGH true).isOn R.FE_VIN_ANT_VIN_HIGH = true ∧ aerials.isOn (R.FE_CTRL_BIAS_EN 0) = true ∧ (580 < 581 ∧ 581 < 2 ^ 32) := by
  unfold Settled PermitFollowed FaultsEntered CanWrite NoneWaits
  decide

/-- Aerial 0 in `st`, aerial 1 in RUN, an LO calibration running, and path 0 of aerial 0 in HOLD for its LO. -/
def calibrating (st : Nat) : State :=
  sets { aerials with fe := { aerials.fe with loCalRunning := true, loHold := [true, false, false, false, false, false] } }
    [(R.FE_STAT_STATE 0, st), (pathFld 0 0, 1)]

set_option maxRecDepth 100000 in
set_option synthInstance.maxSize 4096 in
/-- Windows of the frequency check at the tolerance and one beyond it, that lock, lose and do neither; times that come and
that do not; paths covered and not; a path whose gain is the greatest -/
theorem witness_BandSynthesisers :
    Settled (calibrating 2) ∧ comes (aged 327679999 (calibrating 5)) ((calibrating 5).fe.loFrom.getD 0 0 + (calibrating 5).loWindowAge) = true ∧ run.fe.lostAt = none ∧
    (let n := run.act (R.LO_BAND_CFG_LO_N 0) * 2 ^ run.get R.LO_LOCK_CFG_LK_WIN + run.get R.LO_LOCK_CFG_LK_TOL;
    ((n : Int) - (run.act (R.LO_BAND_CFG_LO_N 0) * 2 ^ run.get R.LO_LOCK_CFG_LK_WIN : Nat)).natAbs = run.get R.LO_LOCK_CFG_LK_TOL) ∧
    (sets run [(R.LO_LOCK_CFG_LK_GOOD, 1)]).get R.LO_LOCK_CFG_LK_GOOD ≤ run.fe.loGood.getD 0 0 + 1 ∧ run.fe.loGood.getD 0 0 + 1 < run.get R.LO_LOCK_CFG_LK_GOOD ∧
    (sets run [(R.LO_LOCK_CFG_LK_BAD, 1)]).get R.LO_LOCK_CFG_LK_BAD ≤ run.fe.loBad.getD 0 0 + 1 ∧ (sets run [(R.LO_LOCK_CFG_LK_GOOD, 0)]).get R.LO_LOCK_CFG_LK_GOOD = 0 ∧
    comes (aged (20000 * agePerUs) run) (20000 * agePerUs) = true ∧ ({ run.fe with lostAt := some 0 } : FeSt).lostAt = some 0 ∧
    comes (aged calAge run) calAge = true ∧ (run.fe.fesmAt.getD 0 0 = 0 ∧ run.fe.pathAt.getD 0 0 = 0) ∧
    (∀ b : Fin 3, aerials.isOn (pathEnFld 0 b) = true) ∧ (sets aerials [(pathEnFld 0 2, 0)]).isOn (pathEnFld 0 2) = false ∧
    State.reset.clk.limp = true ∧
    (calibrating 2).fe.loCalRunning = true ∧ (calibrating 2).fesm 0 = 2 ∧ (calibrating 2).fesm 1 ≠ 2 ∧ aerials.fe.loCalRunning = false ∧
    (calibrating 5).clk.limp = false ∧ (calibrating 5).fe.loHold.getD 0 false = true ∧ (calibrating 5).fesm 0 = 5 ∧
    (calibrating 5).get (pathFld 0 0) = 1 ∧ (calibrating 5).fe.toOff.getD 0 false = false ∧ aerials.isOn (R.LO_STAT_LOCK 0) = true ∧
    run.isOn (R.LO_STAT_LOCK 0) = false ∧ (sets aerials [(R.FE_STAT_STATE 0, 4)]).fesm 0 = 4 ∧
    (sets run [(R.FE_STAT_STATE 0, 3)]).fesm 0 = 3 ∧ (sets run [(R.FE_STAT_STATE 0, 3)]).losLocked = false ∧
    calPasses ⟨0, 127, -127, 2047, -2047, 40, 0⟩ = true ∧ calPasses ⟨0, 128, 0, 0, 0, 40, 0⟩ = false ∧
    (sets aerials [(pathFld 0 1, 3)]).get (pathFld 0 1) = 3 ∧ aerials.isOn R.FE_CAL_CFG_COEF_SRC = false ∧
    (aerials.putB R.FE_CAL_CFG_COEF_SRC true).isOn R.FE_CAL_CFG_COEF_SRC = true ∧ aerials.get (R.FE_AGC_CFG_MODE 0) = 0 ∧
    (sets aerials [(R.FE_AGC_CFG_MODE 0, 1)]).get (R.FE_AGC_CFG_MODE 0) = 1 ∧
    (sets aerials [(R.FE_AGC_CFG_MODE 0, 2)]).get (R.FE_AGC_CFG_MODE 0) = 2 ∧ aerials.get (R.FE_AGC_GAIN_GAIN 0) ≤ 120 := by
  unfold Settled PermitFollowed FaultsEntered
  decide

/-- `aerials` with `n` samples of path 0 in its window, of I 3 and Q 4. -/
def windowed (n : Nat) : State :=
  { aerials.setRg 0x704008 0 with dfe := { aerials.dfe with win := [List.replicate n { i := 3, q := 4, x := {} }] } }

set_option maxRecDepth 100000 in
/-- A window of 8,191 samples and one of 8,192, in RUN, in calibration and of each mode -/
theorem witness_AgcWindow :
    (windowed 8191).clk.waking = [] ∧ (windowed 0).fesm 0 = 5 ∧ (windowed 0).get (pathFld 0 0) = 2 ∧ (windowed 0).get (R.FE_AGC_CFG_MODE 0) = 0 ∧
    (sets (windowed 0) [(R.FE_STAT_STATE 0, 4)]).fesm 0 = 4 ∧ (windowed 0).calAgc ((windowed 0).fe.fesmAt.getD 0 0) = true := by decide

/-- A window that no sample completes waits, and one of 8,192 ends; none of its samples was blanked. -/
theorem witness_AgcWindow_level (n : Nat) : ((windowed n).takeSamples 0 []).dfe.win.getD 0 [] = List.replicate n { i := 3, q := 4, x := {} } ∧
    (windowed n).windowLevel 0 (List.replicate n { i := 3, q := 4, x := {} }) = (25 * n, n) := by
  constructor
  · rw [Laws.takeSamples_nil]
    rfl
  · have hr : (windowed n).rg (0x704008 + 0) = 0 := rfl
    refine (Laws.windowLevel_off (windowed n) 0 _ (by rw [hr]; rfl)).trans ?_
    simp [Cplx.energy, Nat.mul_comm]

/-- Spectra of a tick wait to be written. -/
def spectra : State := { aerials with dfe := { aerials.dfe with specReady := true, specBuf := 1, spectra := List.replicate 6 (List.replicate 1024 7) } }

/-- `aerials` with AUTO notch `k` of path 0 assigned. -/
def notching (k : Nat) : State :=
  { aerials with fe := { aerials.fe with deliver := List.replicate 6 true } }.put (R.DFE_NOTCH_STAT_ASSIGNED 0) (2 ^ k)

set_option maxRecDepth 100000 in
set_option synthInstance.maxSize 4096 in
/-- The spectra waiting and not; the Pool open to the fabric, and shut -/
theorem witness_Conditioning :
    (∀ i < 6, (spectra.dfe.spectra.getD i []).length = 1024) ∧ spectra.dfe.specBuf < 2 ∧
    spectra.dfe.specReady = true ∧ run.dfe.specReady = false ∧ PoolOpen spectra 8 ∧
    PoolShut ((List.range 32).foldl (fun s b => s.setRg (0x70E101 + b) 0) spectra) 8 ∧ run.notchAssigned 0 = false ∧ Settled spectra ∧
    legal spectra 0x70404A = true ∧ legal run 0x70404A = true ∧ (notching 0).notchAssigned 0 = true ∧ (notching 0).notchManualAct 0 = false ∧
    (notching 0).notchManual 0 = false ∧ (notching 0).fe.deliver.getD 0 false = true ∧ (notching 0).notchLink 0 = true ∧ aerials.fe.deliver.getD 0 false = false ∧
    (run.setActRg R.DFE_NOTCH_CFG_LINK.gwa 0).notchLink 0 = false := by
  unfold Settled PermitFollowed FaultsEntered PoolOpen PoolShut
  decide

/-! ### Channels and search -/

/-- Channel 0 in `st`, ready for START with its check words good; channel 1 follows it where `pair`. -/
def chans (st pair : Nat) : State :=
  sets run [(R.CH_STATE 0, st), (R.CH_AER 0, 1), (R.CH_CODE_LEN 0, 1023), (R.CH_GEN 0, 1), (R.CH_START_NOW 0, 1),
    (R.CH_BAND 1, 0), (R.CH_BAND 0, 0), (R.CH_PAIR_DEN 1, 1), (R.CH_PAIR 1, pair)]

/-- As `chans`, in the commit guard. -/
def chansGuard (st : Nat) : State := { chans st 0 with clk := guard.clk }

set_option maxRecDepth 100000 in
set_option synthInstance.maxSize 4096 in
/-- START of a channel with and without a follower, of the follower, of one not halted, with words that fail a
check, and at a START_TICK 0, 1, 32,767 and 32,768 ticks ahead; TRACK, PULL, STOP, RELEASE in and out of their states, and in the guard -/
theorem witness_ChannelCommands :
    Settled (chans 0 0) ∧ Settled (chansGuard 2) ∧ CanWrite (chans 0 0) 0 0x705004 ∧ (chans 0 0).chState 0 = 0 ∧ (chans 5 0).chState 0 = 5 ∧
    (chans 0 0).startBad 0 = false ∧ (chans 0 1).startBad 0 = false ∧ run.startBad 0 = true ∧ (chans 0 1).followerOf 0 = some 1 ∧
    (chans 0 1).isFollower 1 = true ∧ (chans 0 0).isFollower 0 = false ∧ (chans 0 0).clk.tickCount = 5 ∧
    [5, 6, 32772, 32773].map (fun v => (sets (chans 0 0) [(R.CH_START_NOW 0, 0), (R.CH_START_TICK 0, v)]).startTickBad 0) =
    [true, false, false, true] ∧
    (chans 2 0).chState 0 = 2 ∧ (chans 3 0).chState 0 = 3 ∧ (chans 4 0).chState 0 = 4 ∧ (chans 4 0).get (R.CH_PREV 0) = 0 ∧
    (sets (chans 4 0) [(R.CH_PREV 0, 1)]).get (R.CH_PREV 0) = 1 ∧ (chans 2 0).inGuard = false ∧ (chansGuard 2).inGuard = true ∧
    (chans 2 0).clk.limp = false ∧ ((chans 2 0).chan 0).stopNext = false ∧ ((chans 2 0).chan 0).limitHit = false ∧
    ((chans 2 0).chan 0).shedNext = false := by
  unfold Settled PermitFollowed FaultsEntered CanWrite NoneWaits
  decide

/-- A finished period. -/
def finished : PeriodBuf :=
  { start := {}, acc := [], head := [], epochOfs := 0, noEpoch := true, stale := false, stopped := false, partialPer := false
    clkq := false, invalid := false, dphiInit := false, satA := false, satB := false, zeroA := false, zeroB := false, aer := 1 }

/-- A finished period of channel 0 waits; the channel has been STALE for `n` ticks, of a limit of 10. -/
def period (n : Nat) : State :=
  let s := sets (chans 4 0) [(R.CH_STALE_RUN 0, n), (R.CH_STALE_LIM_LIMIT, 10), (R.CH_REC_BASE_BASE, 0x100)]
  let s := { s with active := s.regs }
  s.setChan 0 { s.chan 0 with buf := some finished, dphiLapse := 65536, dphiV := true }

set_option maxRecDepth 100000 in
set_option synthInstance.maxSize 4096 in
/-- A word that changes only when stopped, written halted and not; PAIR of an even channel; a rate of 2⁴⁶ and above;
periods waiting and not, the Pool open and shut; STALE at its limit and one short of it; a lapse reached and not; direction groups -/
theorem witness_ChannelEvents :
    Settled (chans 2 0) ∧ (chans 2 0).live = true ∧ (chans 2 0).allowed 0 35 .write = true ∧ (regAt 0x640002).isSome = true ∧
    (match regAt 0x640002 with | some (g, _) => g.changesStopped ((chans 2 0).rg 0x640002).toNat 1 | none => false) = true ∧
    (chans 0 0).chState 0 = 0 ∧ (16 : Word).getLsbD 4 = true ∧ (regAt 0x640024).isSome = true ∧ (regAt 0x640027).isSome = true ∧
    (0x4000 : Word).toNat * 2 ^ 32 = 0x400000000000 ∧ (signedOf 48 0xA00000000000).natAbs = 0x600000000000 ∧
    Settled (period 10) ∧ ((period 10).chan 0).buf.isSome = true ∧ (run.chan 0).buf = none ∧ (period 10).act R.CH_REC_BASE_BASE = 0x100 ∧
    PoolOpen (period 10) 8 ∧ PoolShut ((List.range 32).foldl (fun s b => s.setRg (0x70E101 + b) 0) (period 10)) 8 ∧
    (period 10).get R.CH_STALE_LIM_LIMIT = 10 ∧ (period 10).chState ((period 10).masterOf 0) = 4 ∧ (period 10).get (R.CH_STALE_RUN 0) = 10 ∧
    (period 9).get (R.CH_STALE_RUN 0) = 9 ∧ max 1 ((period 10).act (R.CH_DPHI_LAPSE 0)) ≤ ((period 10).chan 0).dphiLapse ∧
    (run.chan 0).dphiLapse < max 1 (run.act (R.CH_DPHI_LAPSE 0)) ∧ run.bothAer 0 = false ∧ NoneWaits (chans 2 0) 0 ∧ NoneWaits (chans 2 0) 14 ∧
    (regAt 0x640034).isNone = true ∧ (regAt 0x640000).isSome = true ∧ (period 10).clk.phase < 12288 ∧ 12288 ≤ (runAt 12288 0).clk.phase ∧
    (period 10).act R.CH_REC_BASE_BASE ≤ 0x2DB ∧ (period 10).clk.limp = false ∧ ((period 10).chan 0).stopNext = false ∧ run.atEdge = true ∧ (runAt 1 0).atEdge = false ∧
    (chans 2 0).clk.waking = [] ∧ ((period 10).chan 0).winE.getD 1 0 ≤ ((period 10).chan 0).winE.getD 0 0 ∧
    (sets (period 10) [(R.CH_AER 0, 3)]).bothAer 0 = true ∧ ((period 10).chan 0).winVoid = false ∧ ((period 10).chan 0).tickZero = false ∧
    run.isOn (R.CH_DIR_CONC_SUSPECT 0) = false ∧ run.ch.dirHold.getD 0 0 < 100 * run.get R.CH_DIR_CFG_DIR_PERSIST ∧
    100 * (sets run [(R.CH_DIR_CFG_DIR_PERSIST, 0)]).get R.CH_DIR_CFG_DIR_PERSIST ≤ run.ch.dirHold.getD 0 0 := by
  unfold Settled PermitFollowed FaultsEntered PoolOpen PoolShut NoneWaits
  decide

/-- Jobs 0 and 1 submitted: job 0 with good words, job 1 with LOG2N 0; the search on, a capture of 65,536 words written. -/
def jobs : State :=
  let s := sets { run with srch := { run.srch with cur := { written := 65536, ring := 65536 } } }
    [(R.JOB_STATE 0, 1), (R.JOB_LOG2N 0, 10), (R.JOB_CLASS 0, 1), (R.JOB_DOP_STEP 0, 1), (R.JOB_STATE 1, 1), (R.JOB_CLASS 1, 1),
      (R.JOB_PRIO 1, 1), (R.SRCH_CFG_EN, 1), (R.SRCH_CFG_PIPE_MAX, 4), (R.SRCH_PIPE_STAT_POWERED, 15), (R.SRCH_CFG_HO_EN, 1), (R.SRCH_RES_BASE_BASE, 0x90)]
  { s with active := s.regs }

/-- Job 0 in RUN on pipeline 0 from sample `x` of a capture, RUN in its entry; a handover to channel 0 is asked. -/
def jobRuns (x : Nat) : State :=
  let s := sets jobs [(R.JOB_STATE 0, 2), (R.JOB_HO_EN 0, 1), (R.JOB_HO_CHAN 0, 0), (R.CH_AER 0, 1), (R.CH_CODE_LEN 0, 1023),
    (R.CH_GEN 0, 1), (R.CH_HO_OK 0, 1), (R.CH_BAND 0, jobs.act R.DFE_DEC_CFG_SRC % 3)]
  s.setPipe 0 { job := some 0, pos := some x, gen := s.get R.SRCH_CAP_GEN_GEN }

/-- `jobRuns` with the list full, and the job finished and waiting. -/
def jobHeld : State := (sets (jobRuns 0) [(R.SRCH_RES_RD_RD, 1)]).setPipe 0 { job := some 0, fin := some ⟨4, 0, 0, [], 6⟩ }

/-- `jobRuns` with one-sample blocks, one sample of value 3 + 4j, and one spectrum bin of value 2. -/
def jobPeak : State :=
  let s := (sets (jobRuns 0) [(R.JOB_LOG2N 0, 0)]).memPut 0x300000 0x0403
  s.setPipe 0 { s.pipe 0 with spec := [0x0200] }

/-- A job in RUN whose generation is not the current one: the last, or one before it. -/
def jobOld (age : Nat) : State :=
  let s := (jobRuns 0).put R.SRCH_CAP_GEN_GEN 7
  s.setPipe 0 { s.pipe 0 with gen := 7 - age }

set_option maxRecDepth 100000 in
set_option synthInstance.maxSize 4096 in
/-- Entries that are READY, RUN and neither; a STATE of 1 and of 2 written; an abort of each, in the list's last room and
with it full; RES_RD moved by what the list holds, and beyond -/
theorem witness_SearchJobs :
    Settled jobs ∧ Settled (jobRuns 0) ∧ Settled jobHeld ∧ jobs.live = true ∧ jobs.allowed 0 36 .write = true ∧ jobs.get (R.JOB_STATE 0) = 1 ∧
    (jobRuns 0).get (R.JOB_STATE 0) = 2 ∧ jobs.get (R.JOB_STATE 2) = 0 ∧ (0x2000 : Word).toNat / 8192 = 1 ∧ (0x4000 : Word).toNat / 8192 = 2 ∧
    CanWrite jobs 0 0x70600D ∧ CanWrite jobHeld 0 0x706012 ∧ (6144 : Fin 8192).val = 6144 ∧ ((jobRuns 0).pipe 0).job = some 0 ∧
    (jobRuns 0).listFull = false ∧ jobHeld.listFull = true ∧ (jobHeld.get R.SRCH_RES_WR_WR + 512 - jobHeld.get R.SRCH_RES_RD_RD) % 512 = 511 ∧
    (jobHeld.pipe 0).job = some 0 ∧ (jobHeld.pipe 0).fin = some ⟨4, 0, 0, [], 6⟩ ∧ (∀ i : Fin 4, i ≠ 0 → (jobHeld.pipe i).fin = none) := by
  unfold Settled PermitFollowed FaultsEntered CanWrite NoneWaits
  decide

set_option maxRecDepth 100000 in
set_option synthInstance.maxSize 4096 in
/-- Two READY jobs, the better one good, the other failing a check; none; a build job; spans written to their end and one short;
a capture that has gone past a span and one that has not; a peak that is handed over and one that is not; SNAP done and not -/
theorem witness_SearchRuns :
    Settled jobs ∧ Settled (jobRuns 0) ∧ PoolOpen jobs 9 ∧ PoolOpen (jobRuns 0) 9 ∧ legal jobs 0x706010 = true ∧ legal (jobRuns 0) 0x706010 = true ∧
    jobs.listFull = false ∧ (jobs.get R.SRCH_RES_WR_WR + 2) % 512 ≠ jobs.get R.SRCH_RES_RD_RD ∧ jobs.isOn R.SRCH_CFG_EN = true ∧ jobs.clk.limp = false ∧
    jobs.pipeOn 0 = true ∧ (0 < jobs.get R.SRCH_CFG_PIPE_MAX) ∧ (jobs.pipe 0).job = none ∧
    jobs.readyJobs.filter (fun j => jobs.searchAllowed (jobs.get (R.JOB_CLASS j))) = [0, 1] ∧ jobs.jobBefore 0 1 = true ∧ jobs.jobCheck 0 = none ∧
    (jobs.spanStart 0).isSome = true ∧ (sets jobs [(R.JOB_STATE 0, 0)]).readyJobs = [1] ∧ jobs.jobCheck 1 = some 1 ∧ run.readyJobs = [] ∧
    (sets jobs [(R.JOB_CAP_OFS_W2 0, 1)]).spanStart 0 = none ∧ jobs.capLive = false ∧ jobs.jobBuild 0 = false ∧
    (sets (jobRuns 0) [(R.JOB_KIND 0, 1)]).jobBuild 0 = true ∧ (jobRuns 0).get (R.JOB_SPEC_PTR 0) * 1024 + (jobRuns 0).jobN 0 ≤ 0x200000 ∧
    0x100000 + 1024 ≤ (jobRuns 0).get R.SRCH_RES_BASE_BASE * 0x2000 ∧
    ((jobRuns 0).pipe 0).fin = none ∧ ((jobRuns 0).pipeGen ((jobRuns 0).pipe 0)).written = 65536 ∧ (jobRuns 0).jobNc 0 * (jobRuns 0).jobN 0 = 1024 ∧
    ((jobRuns 64512).pipe 0).pos = some 64512 ∧ ((jobRuns 64513).pipe 0).pos = some 64513 ∧
    (jobRuns 0).isOn R.SRCH_CFG_HO_EN = true ∧ (jobRuns 0).isOn (R.JOB_HO_EN 0) = true ∧ (jobRuns 0).jobFlags ((jobRuns 0).pipe 0) 0 = (false, false) ∧
    4 * (jobRuns 0).get (R.JOB_HO_TH 0) < 65536 ∧ (jobRuns 0).chState 0 = 0 ∧ (jobRuns 0).isOn (R.CH_HO_OK 0) = true ∧
    (jobRuns 0).jobCodes 0 = 1 ∧ (jobRuns 0).get (R.JOB_KPER 0) = 0 ∧ (jobRuns 0).get (R.JOB_DOP_N_M1 0) = 0 ∧
    jobs.live = true ∧ jobs.memSt.flips = [] ∧ jobs.memSt.borrowed = none ∧ (∀ b < 32, jobs.allowed 9 b .read = true) ∧
    (∀ i ∈ [0, 1], i ≠ 0 → jobs.jobBefore 0 i = true) ∧ (jobRuns 0).clk.waking = [] ∧ ((jobRuns 0).pipe 0).due ≤ (jobRuns 0).clk.total ∧
    ({ (jobRuns 0) with clk := { (jobRuns 0).clk with phase := 491519 } } : State).inTick 1 = false ∧ (jobRuns 0).inTick 491519 = true ∧
    ((jobRuns 0).spanLost ((jobRuns 0).pipe 0) 0 = false ∧ (jobOld 1).spanLost ((jobOld 1).pipe 0) 0 = true ∧ (jobOld 2).spanLost ((jobOld 2).pipe 0) 0 = true) ∧
    ((jobOld 2).get R.SRCH_CAP_GEN_GEN = 7 ∧ ((jobOld 2).pipe 0).gen = 5) ∧ (⟨1, 0, false⟩ : Flip).parityBad = true ∧
    PoolOpen jobPeak 9 ∧ legal jobPeak 0x706010 = true ∧ Settled jobPeak ∧ jobPeak.listFull = false ∧ jobPeak.jobBuild 0 = false ∧ jobPeak.memSt.flips = [] ∧
    (jobPeak.jobNc 0 * jobPeak.jobN 0 = 1 ∧ jobPeak.spanLost (jobPeak.pipe 0) 0 = false ∧ 0 + 1 ≤ (jobPeak.pipeGen (jobPeak.pipe 0)).written) ∧
    (0 < jobPeak.jobCodes 0 * (jobPeak.get (R.JOB_DOP_N_M1 0) + 1) * jobPeak.jobN 0 ∧ 0 % jobPeak.jobN 0 < jobPeak.jobN 0 / 2 ^ jobPeak.get (R.JOB_KPER 0)) ∧
    (jobRuns 0).isFollower 0 = false ∧ (jobRuns 0).startBad 0 = false ∧ (jobRuns 0).get (R.JOB_HO_CHAN 0) = 0 ∧
    0 + (jobRuns 0).srch.cur.ring < 65537 ∧ jobs.srch.cur.snap = false ∧
    ({ jobs.srch.cur with snap := true } : CapGen).ring ≤ jobs.srch.cur.written ∧ (jobs.putB R.SRCH_CAP_GEN_ACTIVE true).isOn R.SRCH_CAP_GEN_ACTIVE = true := by
  unfold Settled PermitFollowed FaultsEntered PoolOpen
  decide

set_option maxRecDepth 100000 in

/-- The one cell of `jobPeak`, whatever the unit of the cells is: it is the largest. -/
theorem witness_SearchRuns_cells :
    jobPeak.jobCells (jobPeak.pipe 0) 0 = [612998216346355543343338810860123673447495648873440870400 / (Config.cellUnit + 1)] := by
  rfl

/-! ### Confluence, lifecycle and the crypto assist -/

/-- The link on with ID 2 and both ports, in link state `cs`; port 0 in `ps`, port 1 JOINED; agreement 1. -/
def link (cs ps : Nat) : State :=
  sets run [(R.CFL_CTRL_EN, 1), (R.CFL_CTRL_ID, 2), (R.CFL_CTRL_PORT_EN, 3), (R.CFL_STAT_STATE, cs), (R.CFL_PORT_STAT_PSTATE 0, ps),
    (R.CFL_PORT_STAT_PSTATE 1, 2), (R.CFL_STAT_AGREE, 1)]

/-- `link` as a follower that has good offsets for 100 ticks, none for 10, and differing digests for 100 edges. -/
def follows : State :=
  { link 3 2 with cfl := { (link 3 2).cfl with good := 100, ofsSeen := true, noOfs := 10, mism := 100, ports := [{ quiet := 4 }, { crcSeen := true }] } }

/-- 64 valid characters, the first a comma. -/
def commas : List LinkChar := { comma := true } :: List.replicate 63 {}

set_option maxRecDepth 100000 in
set_option synthInstance.maxSize 4096 in
/-- Ports DOWN and in other states, enabled and not; silence of 4 ticks and of 3; a LEAVE that is whole and one that is not; a
follower with agreement, at its limits and not; writes of CFL_CTRL that change ID, and that do not, by masters 0, 14 and 15 -/
theorem witness_ConfluenceLinks :
    Settled (link 3 0) ∧ Settled follows ∧ CanWrite (link 3 0) 0 0x711003 ∧ (link 3 0).portOn 0 = true ∧ (link 3 0).pstate 0 = 0 ∧
    (link 3 2).pstate 0 = 2 ∧ (link 3 3).pstate 0 = 3 ∧ run.portOn 0 = false ∧ (follows.cflPort 0).quiet = 4 ∧
    (({ quiet := 3 } : CflPort)).quiet < 4 ∧ (follows.cflPort 1).crcSeen = true ∧ (follows.cflPort 0).crcSeen = false ∧
    follows.cflState = 3 ∧ follows.act R.CFL_AG_CFG_LOSS_N ≤ follows.cfl.noOfs ∧ follows.agreed = true ∧ follows.permit = false ∧
    follows.cfl.ofsSeen = true ∧ follows.act R.CFL_AG_CFG_AG_GOOD ≤ follows.cfl.good ∧ follows.get R.CFL_TIMING_DIG_GRACE ≤ follows.cfl.mism ∧
    (link 3 2).cfl.good < (link 3 2).act R.CFL_AG_CFG_AG_GOOD ∧ (link 3 2).cfl.noOfs < (link 3 2).act R.CFL_AG_CFG_LOSS_N ∧
    ({ follows with clk := { follows.clk with phase := 1 } } : State).atEdge = false ∧ follows.atEdge = true ∧
    (CflPort.over CflPort.seek CflPort.found ((link 3 0).cflPort 0) commas).found = true ∧ commas.length = 64 ∧ (∀ x ∈ commas, x.good = true) ∧
    (CflPort.over CflPort.seek CflPort.found ((link 3 0).cflPort 0) (commas.drop 1)).found = false ∧
    (List.replicate 4 ({ good := false } : LinkChar)).countP (fun x => !x.good) = 4 ∧
    (CflPort.over CflPort.watch CflPort.lost ((link 3 2).cflPort 0) (List.replicate 3 { good := false })).lost = false ∧
    (List.replicate 1024 ({} : LinkChar)).length = 1024 ∧
    (let f := (cflFrame [3, 1, 64]).map (BitVec.ofNat 8); cflBody (f.map BitVec.toNat) true = some [3, 1, 64] ∧ cflBody (f.map BitVec.toNat) false = none) ∧
    (let f := (cflFrame [3, 1, 64, 0]).map (BitVec.ofNat 8); cflBody (f.map BitVec.toNat) true = some [3, 1, 64, 0]) ∧
    (link 3 2).get R.CFL_CTRL_PORT_EN = 3 ∧ (link 3 2).clk.limp = false ∧
    (0xD600 : Word).getLsbD 14 = true ∧ (link 3 2).isOn R.CFL_CTRL_CAND = false ∧ bitsOf (0x9600 : Word).toNat 13 11 = 2 ∧
    (0x9600 : Word).getLsbD 14 = false ∧ (0x9600 : Word).getLsbD 15 = true ∧ (0x9400 : Word).getLsbD 9 = false ∧ run.isOn R.CFL_CTRL_EN = false := by
  unfold Settled PermitFollowed FaultsEntered CanWrite NoneWaits
  decide

/-- A BEACON body with VERSION 1 from SRC 5, CUM 0, the other fields 0. -/
def beacon : List (BitVec 8) := [1, 1, 0xA0] ++ List.replicate 39 0

/-- `link` as a follower with UPPORT 0, a beacon from the upstream taken and one sent; the ring of received messages open. -/
def measuring : State :=
  let s := sets (link 3 2) [(R.CFL_STAT_UPPORT, 0), (R.CFL_RX_CFG_EN, 1), (R.CFL_RX_CFG_SIZE, 0), (R.CFL_RX_CFG_BASE, 127)]
  s.setCflPort 0 { last := some (parseBeacon (beacon.map BitVec.toNat), 0), sent := [(0, 0)] }

/-- `measuring` with the ring full. -/
def ringFull : State := measuring.put R.CFL_RX_RD_V 1

/-- CFL_PPS_OUT enabled with its next pulse at second `n` of the time base, 200 µs on. -/
def ppsOut (n : Nat) : State :=
  let s := { run with clk := { run.clk with acc := (n * 1000000000 - 200000) * accPerNs } }
  (s.putB R.CFL_PPS_CFG_OUT_EN true).setTpOut 4 { next := n }

set_option maxRecDepth 100000 in
set_option synthInstance.maxSize 4096 in
/-- A beacon due in this tick, and not; beacons whole and not, from a neighbour and from the device's own ID, and with a
measurement; USER messages of 1 and 64 words with a port JOINED and with none; received for this device and for another; the ring with room
and full; CFL_PPS_OUT at its reading, and off -/
theorem witness_ConfluenceMessages :
    Settled (link 2 2) ∧ Settled measuring ∧ Settled ringFull ∧ (runAt 0 0).clk.limp = false ∧ (runAt 0 0).perClk ≠ 0 ∧
    ((runAt 0 0).runTo (runAt 0 0).beaconDue).isSome = true ∧ (runAt 491519 0).runTo (runAt 491519 0).beaconDue = none ∧
    accPerSub ≤ run.perClk ∧ (∀ whole, (cflBody (((beacon ++ (leBytes 4 (crc32 (beacon.map BitVec.toNat))).map (BitVec.ofNat 8)).map BitVec.toNat)) whole).isSome = whole) ∧
    run.clk.waking = [] ∧ beacon.length = 42 ∧ beacon.head? = some 1 ∧ (parseBeacon (beacon.map BitVec.toNat)).version = 1 ∧
    (parseBeacon (beacon.map BitVec.toNat)).src = 5 ∧ (link 2 2).get R.CFL_CTRL_ID = 2 ∧ (measuring.cflPort 0).left = false ∧
    (measuring.cflMeasure 0 { parseBeacon (beacon.map BitVec.toNat) with rxV := true }) = some (0, 0) ∧ measuring.cflFollows = true ∧
    measuring.get R.CFL_STAT_UPPORT = 0 ∧ ¬(measuring.timeTol < (0 : Int).natAbs) ∧ measuring.timeTol < (2 ^ 47 - 1 : Int).natAbs ∧
    CanWrite measuring 0 0x711028 ∧ measuring.memSt.flips = [] ∧ measuring.memSt.borrowed = none ∧ measuring.allowed 12 30 .read = true ∧
    measuring.allowed 12 31 .read = true ∧ bitsOf (0x6E01 : Word).toNat 12 9 = 7 ∧ bitsOf (0x3E40 : Word).toNat 12 9 = 15 ∧
    bitsOf (0x3E40 : Word).toNat 6 0 = 64 ∧ bitsOf (0x6E01 : Word).toNat 6 0 = 1 ∧ measuring.cflBusy = false ∧
    ({ measuring with cfl := { measuring.cfl with busyTo := 1 } } : State).cflBusy = true ∧ measuring.pstate 1 = 2 ∧ run.pstate 1 = 0 ∧
    [2, 1, 0xA0, 2, 6, 9, 1, 0, 0].length = 7 + 2 * 1 ∧ cflBody (cflFrame [2, 1, 0xA0, 2, 6, 9, 1, 0, 0]) true = some [2, 1, 0xA0, 2, 6, 9, 1, 0, 0] ∧ measuring.cfl.taken = [] ∧ measuring.get (R.CFL_PORT_STAT_NEIGH 1) ≠ 5 ∧
    (measuring.get R.CFL_RX_RD_V + 2048 - measuring.get R.CFL_RX_WR_V % 1024 - 1) % 1024 = 1023 ∧
    (ringFull.get R.CFL_RX_RD_V + 2048 - ringFull.get R.CFL_RX_WR_V % 1024 - 1) % 1024 = 0 ∧ PoolOpen measuring 12 ∧
    0x2E0000 + measuring.get R.CFL_RX_CFG_BASE * 1024 + 1024 ≤ 0x300000 ∧ Settled (ppsOut 3) ∧ (ppsOut 3).tpOn 4 = true ∧ (ppsOut 3).clk.tbRun = true ∧
    (ppsOut 3).tp.stopped = false ∧ (((ppsOut 3).clk.acc * 1000 : Nat) : Int) ≤ (ppsOut 3).tpPlace 4 3 ∧ ((ppsOut 3).runBefore ((ppsOut 3).tpPlace 4 3) 1000).isSome = true ∧ (ppsOut 3).pwr.stage = .running ∧ 0 < (ppsOut 3).tpPeriod 4 ∧
    ((ppsOut 3).tpOut 4).skips = 0 ∧ (ppsOut 3).tpSuppressed 4 = false ∧ ((ppsOut 3).tpOut 4).active = false ∧
    ((ppsOut 3).tpOut 4).lead = none ∧ run.isOn R.CFL_PPS_CFG_OUT_EN = false ∧ run.isOn R.CFL_PPS_CFG_IN_EN = false ∧
    measuring.isOn R.CFL_RX_CFG_EN = true ∧ (run.putB R.CFL_PPS_CFG_IN_EN true).isOn R.CFL_PPS_CFG_IN_EN = true := by
  unfold Settled PermitFollowed FaultsEntered CanWrite PoolOpen NoneWaits
  decide

/-- Lifecycle state `lc`, with row 40 being programmed and fuses burned for PRODUCTION, and key slot 0 programmed. -/
def life (lc : Nat) : State :=
  let row (r : Nat) : WMap := ((List.range 15).map (fun k => (r * 16 + k, (1 : Word)))) ++
    [(r * 16 + 15, BitVec.ofNat 16 (crc16 (wordBytes (List.replicate 15 1))))]
  let s := { run with lcs := { run.lcs with target := 2, burning := true, row := some 40, otp := row 27 ++ row 28, armed := 15 } }
  sets s [(R.LCS_STAT_LC, lc), (R.LCS_STAT_LC_BUSY, 1), (R.MEM_SS_STAT_WIPING, 1)]

set_option maxRecDepth 100000 in
set_option synthInstance.maxSize 4096 in
/-- A transition that the fuses allow and one that they do not; one that burns; rows that may be programmed and not; a row that reads
back and one that does not; a key slot that is the last and one that is not; a tamper source armed and not -/
theorem witness_Lifecycle :
    Settled run ∧ Settled (life 1) ∧ CanWrite run 0 0x701004 ∧ run.lc = 0 ∧ (0xA504 : Word).toNat / 256 = 0xA5 ∧ (0xA504 : Word).toNat % 8 = 4 ∧
    (0xA500 : Word).toNat % 8 = 0 ∧ run.isOn R.LCS_STAT_LC_BUSY = false ∧ run.anyKey = false ∧ (life 1).anyKey = true ∧ (life 1).lc = 1 ∧
    (life 1).isOn R.LCS_STAT_LC_BUSY = true ∧ (life 1).lcs.burning = true ∧ (life 1).lcs.target = 2 ∧ run.lcs.burning = false ∧ CanWrite run 0 0x701009 ∧
    run.rowBlank 35 = true ∧ (life 1).rowBlank 27 = false ∧ run.isOn R.LCS_OTP_STAT_BUSY = false ∧ run.pwr.rails.getD 4 false = true ∧
    (life 1).lcs.row = some 40 ∧ run.lcs.row = none ∧ (1 : Word) ≠ (life 1).rg 0x701010 ∧ CanWrite run 0 0x701020 ∧ (0x5A01 : Word).toNat / 256 = 0x5A ∧
    (life 1).slotValid 0 = true ∧ (life 1).slotRevoked 0 = false ∧ (life 1).slotValid 1 = false ∧ CanWrite run 0 0x701005 ∧ CanWrite run 0 0x701006 ∧
    bitOf (life 1).lcs.armed 3 = true ∧ run.isOn ⟨0x701006, 8, 8⟩ = false ∧ bitOf run.lcs.armed 0 = false ∧ rowGen 40 ≠ 0 ∧ rowGen 27 = 0 := by
  unfold Settled PermitFollowed FaultsEntered CanWrite NoneWaits
  decide

/-- Operation `op` of the assist in progress on `n` bytes at 0x10_0000, for 0x10_1000. -/
def assist (op n : Nat) : State :=
  { run.putB R.LCS_CRYPTO_STAT_BUSY true with lcs := { run.lcs with crypto :=
      { op := op, src := 0x100000, dst := 0x101000, len := n, ctx := if op < 3 then none else some (shaInit, 64) } } }

set_option maxRecDepth 100000 in
set_option synthInstance.maxSize 4096 in
/-- HASH of no byte, START of 64, CONT of 63, FINAL of 1, VERIFY; an operation that may not read; and none -/
theorem witness_CryptoAssist :
    Settled (assist 1 0) ∧ CanWrite run 0 0x701021 ∧ run.isOn R.LCS_CRYPTO_STAT_BUSY = false ∧ (assist 1 0).isOn R.LCS_CRYPTO_STAT_BUSY = true ∧
    (assist 1 0).live = true ∧ (assist 1 0).memSt.flips = [] ∧ PoolOpen (assist 1 0) 0 ∧ (∀ b < 32, (assist 1 0).allowed 0 b .read = true) ∧
    (assist 1 0).lcs.crypto.src = 0x100000 ∧ (assist 1 0).lcs.crypto.dst + 16 ≤ 0x300000 ∧
    (bytesWords (shaFinish shaInit [] 0)).length = 16 ∧ (assist 2 64).lcs.crypto.len % 64 = 0 ∧ (assist 3 63).lcs.crypto.len % 64 ≠ 0 ∧
    (assist 3 64).lcs.crypto.ctx.isSome = true ∧ (assist 4 1).lcs.crypto.ctx.isSome = true ∧ (assist 5 0).lcs.crypto.op = 5 ∧
    (assist 1 2).lcs.crypto.breaks = false ∧ ((assist 1 2).setRg 0x70E081 0).denies 0 0x100000 .read = true := by
  unfold Settled PermitFollowed FaultsEntered CanWrite PoolOpen NoneWaits
  decide

/-! ### Start, sleep, update and the synthesiser -/

/-- The device held in reset by source `c`. -/
def held (c : Nat) : State := { State.reset with pwr := { State.reset.pwr with stage := .inReset, sources := [c] } }

set_option maxRecDepth 100000 in
set_option synthInstance.maxSize 4096 in
/-- Rails valid and not; the end of a reset by each source, held by one source only; RST_N while the flash programs nothing -/
theorem witness_Supplies :
    Settled run ∧ NoTamper run ∧ Settled (held 0) ∧ NoTamper (held 2) ∧ run.flash.prog = none ∧ run.flash.cmd = none ∧ (held 2).pwr.stage = .inReset ∧
    (held 0).railsValid = true ∧ (held 2).pwr.sources = [2] ∧ (held 0).lpcCounts = false ∧
    ((held 0).putB R.SYS_SLEEP_STAT_ARMED true).lpcCounts = true ∧ (held 0).lpcCount + (2 ^ 48 - 1) < 2 ^ 48 ∧
    ({ run.pwr with rails := [false, true, true, true, true, true, false, true] } : PwrSt).rails.getD (Ball.gate 3).rail false = false ∧
    ({ run.pwr with rails := [false, true, true, true, true, true, false, true] } : PwrSt).rails.getD 0 false = false ∧
    (held 0).live = false ∧ run.pwr.rails.getD (Ball.gate 3).rail false = true ∧ State.reset.pwr.stage ≠ .running ∧
    ({ run.pwr with stage := .unpowered } : PwrSt).stage = .unpowered ∧ railIndex .a10 ≠ railIndex .vin ∧
    run.pwr.rails.getD 5 false = true ∧ railIndex .core ∈ monitored ∧ railIndex .vin ∉ monitored ∧ CanWrite (run.setRg 0x70E129 0xFFFF) 15 0x700070 ∧ CanWrite run 14 0x700070 := by
  unfold Settled PermitFollowed FaultsEntered CanWrite NoTamper NoneWaits
  decide

/-- An image with an empty body at `base`: its header's magic, its HDR_VER and the digest of no byte. -/
def imageAt (base : Nat) (s : State) : State :=
  ((s.memPut base 0x454B).memPut (base + 1) 1).memPuts (base + 72) (bytesWords (sha256 []))

/-- In boot, in phase `p`, with 128 words taken from the host. -/
def booting (p : BootPhase) : State :=
  { State.reset with start := { State.reset.start with phase := p, hostPos := 128 }, clk := { State.reset.clk with tbRun := true } }

set_option maxRecDepth 100000 in
set_option synthInstance.maxSize 4096 in
/-- Counts that match 10 MHz, and none; the boot before its first step, retrying, awaiting the host's image (one that passes, and one that
does not), and before its release -/
theorem witness_Boot :
    Settled State.reset ∧ NoTamper State.reset ∧ State.reset.pwr.stage = .boot ∧ State.reset.start.phase = .none ∧
    refMatch 1000 = 10000000 ∧ refMatch 0 = 0 ∧ Settled (booting .detect) ∧ NoTamper (booting .detect) ∧ (booting .detect).start.phase = .detect ∧ comes (booting .detect) (10000 * agePerUs) = true ∧
    (booting .host).start.phase = .host ∧ 128 + imageLength ((booting .host).memImage 0x100000) ≤ (booting .host).start.hostPos ∧
    ((booting .host).checkImage ((booting .host).memImage 0x100000) 0x1E0000 ((booting .host).allowed 14 0 .image)).1 = 1 ∧
    Settled (imageAt 0x100000 (booting .host)) ∧ NoTamper (imageAt 0x100000 (booting .host)) ∧
    128 + imageLength ((imageAt 0x100000 (booting .host)).memImage 0x100000) ≤ (imageAt 0x100000 (booting .host)).start.hostPos ∧
    ((imageAt 0x100000 (booting .host)).checkImage ((imageAt 0x100000 (booting .host)).memImage 0x100000) 0x1E0000
    ((imageAt 0x100000 (booting .host)).allowed 14 0 .image)).1 = 0 ∧
    State.reset.get R.SYN_STAT_STATE = 0 ∧ State.reset.synHeld = true ∧ 128 ≤ (booting .host).start.hostPos ∧
    ({ (booting .host).start with hostPos := 127 } : StartSt).hostPos < 128 + imageLength ((booting .host).memImage 0x100000) ∧
    accPerSub ≤ (booting .passed).perClk ∧ (booting .passed).clk.limp = true ∧
    (let s : State := { booting .passed with clk := { (booting .passed).clk with limp := false } }; s.clk.relAt ≤ s.clk.total ∧ accPerSub ≤ s.perClk ∧ Settled s) ∧
    State.reset.isOn R.SYS_SLEEP_STAT_RET_OK = false ∧ (State.reset.putB R.SYS_SLEEP_STAT_RET_OK true).isOn R.SYS_SLEEP_STAT_RET_OK = true ∧
    (booting .passed).clk.running = false ∧ (booting .passed).clk.tbRun = true ∧ (booting .passed).perClk ≠ 0 ∧ (booting .passed).clk.waking = [] ∧
    (booting .passed).anyBankBad = false ∧ ((booting .passed).putB (R.MEM_BANK_STAT_BAD 31) true).anyBankBad = true := by
  unfold Settled PermitFollowed FaultsEntered NoTamper
  decide

/-- Armed for sleep on input 0, locked, with an ARM and a SNAP that wait for their edges. -/
def sleeping : State :=
  { sets run [(R.SYS_SLEEP_STAT_ARMED, 1), (R.SYN_STAT_STATE, 2)] with start := { run.start with armAt := some 0, snapAt := some 0 } }

set_option maxRecDepth 100000 in
set_option synthInstance.maxSize 4096 in
/-- SECSTEP at trust 0 and 2, pending and not; ARM locked and not, SNAP armed and not; both at their edges; a count just
below its overflow -/
theorem witness_StepAndSleep :
    Settled run ∧ Settled sleeping ∧ CanWrite run 0 0x700072 ∧ CanWrite run 0 0x700081 ∧ run.trust = 0 ∧ (sets run [(R.TB_STAT_TRUST, 2)]).trust = 2 ∧
    run.isOn R.SYS_SECSTEP_CTL_PEND = false ∧ (run.putB R.SYS_SECSTEP_CTL_PEND true).isOn R.SYS_SECSTEP_CTL_PEND = true ∧ run.synLocked = false ∧
    sleeping.synLocked = true ∧ sleeping.get R.SYS_UPD_STAT_STATE = 0 ∧ sleeping.isOn R.SYS_SLEEP_STAT_ARMED = true ∧
    sleeping.synActive = sleeping.get R.SYS_SLEEP_STAT_INPUT ∧ run.isOn R.SYS_SLEEP_STAT_ARMED = false ∧ sleeping.start.armAt = some 0 ∧
    sleeping.start.snapAt = some 0 ∧ sleeping.clk.waking = [] ∧ comes sleeping (0 + agePerUs) = true ∧ comes (aged 500000 sleeping) (0 + agePerUs) = true ∧
    sleeping.lpcCounts = true ∧ sleeping.lpcCount + (2 ^ 48 - 1) < 2 ^ 48 ∧ run.lpcCounts = false := by
  unfold Settled PermitFollowed FaultsEntered CanWrite NoneWaits
  decide

/-- An update in state `st`, its image at 0x10_0000 frozen: one that passes where `good`. -/
def updating (st : Nat) (good : Bool) : State :=
  let s := { sets run [(R.SYS_UPD_STAT_STATE, st), (R.SYS_UPD_TICK_V, 5)] with
    start := { run.start with frozen := some (0x100000, 128) }, pwr := { run.pwr with bootMode := 4 } }
  if good then imageAt 0x100000 s else s

set_option maxRecDepth 100000 in
set_option synthInstance.maxSize 4096 in
/-- VERIFY in IDLE and in SWITCH_ARMED; SWITCH 2 and 32,767 ticks ahead, 1 and 32,768; CANCEL; an image that passes and one
that does not; the switch edge; the copy of a good image and of a bad one -/
theorem witness_HitlessUpdate :
    Settled run ∧ CanWrite run 0 0x700076 ∧ run.isOn R.SYS_SLEEP_STAT_ARMED = false ∧ sleeping.isOn R.SYS_SLEEP_STAT_ARMED = true ∧
    run.get R.SYS_UPD_STAT_STATE = 0 ∧ (updating 2 true).get R.SYS_UPD_STAT_STATE = 2 ∧ (updating 5 true).get R.SYS_UPD_STAT_STATE = 5 ∧
    (7 + 65536 - run.clk.tickCount % 65536) % 65536 = 2 ∧ (32772 + 65536 - run.clk.tickCount % 65536) % 65536 = 32767 ∧
    (6 + 65536 - run.clk.tickCount % 65536) % 65536 = 1 ∧ Settled (updating 1 true) ∧ (updating 1 true).start.frozen = some (0x100000, 128) ∧
    (∀ b < 30, (updating 1 true).allowed (updating 1 true).start.master b .image = true) ∧
    ((updating 1 true).checkImage ((updating 1 true).memImage 0x100000) (0x2E0000 - 0x100000) true).1 = 0 ∧
    ((updating 1 false).checkImage ((updating 1 false).memImage 0x100000) (0x2E0000 - 0x100000) true).1 = 1 ∧
    (updating 3 true).atEdge = true ∧ ({ updating 3 true with clk := { run.clk with phase := 1 } } : State).atEdge = false ∧ (updating 3 true).clk.tickCount % 65536 = (updating 3 true).get R.SYS_UPD_TICK_V ∧
    (updating 4 true).drained = true ∧ (updating 4 true).start.copied = false ∧ (∀ e : Fin 8, ((updating 4 true).eng e).slots = List.replicate 64 none) ∧
    (updating 4 true).clk.waking = [] ∧ (updating 4 true).start.switchAt + imageLength ((updating 4 true).memImage 0x100000) ≤ (updating 4 true).clk.total ∧
    ({ (updating 4 true).start with switchAt := 100 } : StartSt).switchAt = 100 ∧ (updating 4 true).inTick 100 = true ∧
    bodyGood ((updating 4 true).memImage 0x100001) = false ∧ (updating 4 true).memSt.flips = [] ∧ (updating 4 true).pwr.bootMode = 4 ∧ bodyGood ((updating 4 true).memImage 0x100000) = true := by
  unfold Settled PermitFollowed FaultsEntered CanWrite NoneWaits
  decide

/-- The synthesiser in state `st` on input 0, enabled, held where `h`, input 1 VALID and the trust DISCIPLINED. -/
def synth (st h : Nat) : State :=
  { sets run [(R.SYN_CTRL_EN, 1), (R.SYN_STAT_STATE, st), (R.SYN_STAT_HELD, h), (validFld 1, 1), (losFld 0, 0), (losFld 1, 0), (R.SYN_CTRL_SW_MODE, 2),
      (R.SYN_REF_CFG_MON 0, 1), (R.TB_STAT_TRUST, 2)] with start := { run.start with found := [10000000, 10000000] } }

/-- `synth` while boot acquires a reference. -/
def acquiring (f : Nat) : State :=
  { synth 1 1 with start := { run.start with phase := .acquire, found := [10000000, f] } }

/-- `synth` at `n` of `ClkSt.age`, its lock windows and validation windows counted from 0: `g` good and `b` bad ones in a row. -/
def counting (st h g b n : Nat) : State :=
  let s := aged n (synth st h)
  { s with syn := { s.syn with
      lkFrom := some 0, lkGood := g, lkBad := b, lkCval := some 5, lockAt := some 0, valFrom := [some 0, some 0], valGood := [g, g] } }

set_option maxRecDepth 100000 in

/-- With 10 MHz and LK_WIN 14 a window lasts 503,316,480 of `ClkSt.age` and counts 805,306.368 clocks; the eighth good one, or the second bad one,
decides, and those before it do not -/
theorem witness_LockWindows :
    (∀ g ∈ [6, 7], ((counting 1 1 g 0 503316479).lkWindows []).syn.lkFrom = some 0 ∧ (counting 1 1 g 0 503316479).clk.waking = [] ∧
      (((counting 1 1 g 0 503316479).lkWindows []).runAge (0 + ((counting 1 1 g 0 503316479).lkWindows []).lkAge)).isSome = true) ∧
    (run.get R.SYN_LOCK_CFG_LK_GOOD = 8 ∧ run.get R.SYN_LOCK_CFG_LK_BAD = 2) ∧
    ((counting 2 0 0 1 503316479).lkWindows []).syn.lkBad = 1 ∧ ((counting 2 0 0 1 503316479).lkWindows []).synHeld = false ∧
    [805305, 805306, 805307, 805308].map (counting 1 1 7 0 503316479).lkGoodWin = [false, true, true, false] ∧
    (counting 1 1 7 0 503316479).slewFlush.lkGoodWin 805306 = true ∧ (counting 1 1 7 0 503316479).slewFlush.lkGoodWin 805305 = false ∧
    (synth 1 1).synOfs = 0 ∧ (synth 1 1).syn.lkAdj = 0 ∧ (synth 1 1).syn.lkSlew = 0 ∧ (synth 1 1).syn.lkFrom = none ∧
    ((counting 1 1 7 0 0).lkWindows [⟨805306, 5⟩]).syn.lkFrom = some 0 := by decide

set_option maxRecDepth 100000 in
set_option synthInstance.maxSize 4096 in
/-- An enable written off and on; lock from ACQUIRE with a reference and without; loss of lock held and not; a release; time-outs
in boot, with another input found and with none -/
theorem witness_SynthesiserLoop :
    (∀ st < 6, Settled (synth st 0) ∧ Settled (synth st 1)) ∧ Settled (acquiring 0) ∧ CanWrite run 14 0x709003 ∧ (0xA001 : Word).toNat / 4096 % 4 ≠ 3 ∧
    (0xA001 : Word).toNat % 256 ≠ 0 ∧ run.isOn R.SYN_CTRL_EN = false ∧ run.get R.SYN_STAT_STATE = 0 ∧ (synth 1 0).isOn R.SYN_CTRL_EN = true ∧
    (synth 1 0).prefSwitch (0xA001 ||| 0x8000 : Word).toNat = false ∧ (synth 5 0).get R.SYN_STAT_STATE = 5 ∧
    (synth 1 0).isOn (losFld (synth 1 0).synActive) = false ∧ ((synth 1 0).putB (losFld 0) true).isOn (losFld 0) = true ∧ (synth 2 0).synHeld = false ∧
    (synth 2 1).synHeld = true ∧ (synth 2 1).clk.running = true ∧ State.reset.clk.running = false ∧ (synth 2 0).permit = false ∧ (synth 2 1).start.phase ≠ .acquire ∧ (acquiring 0).start.phase = .acquire ∧
    (∀ st < 6, ∀ h < 2, Settled (counting st h 7 1 0)) ∧ (counting 2 0 0 0 0).syn.lockAt = some 0 ∧
    comes (counting 2 0 0 0 (100 * 1000 * agePerUs - 1)) (0 + (counting 2 0 0 0 0).get R.SYN_SETTLE_SETTLE * (1000 * agePerUs)) = true ∧
    comes (counting 2 1 0 0 0) (0 + agePerUs + 10000) = true ∧ run.syn.lockAt = none ∧
    comes (aged (50 * 1000 * agePerUs - 1) (acquiring 0)) ((acquiring 0).syn.acqAt + 50 * (1000 * agePerUs)) = true ∧
    ((synth 1 0).prefSwitch (0xE001 ||| 0x8000 : Word).toNat = true ∧ (0xE001 : Word).toNat / 4096 % 4 = 2) ∧
    (acquiring 0).synHeld = true ∧ (acquiring 0).get R.SYN_STAT_STATE = 1 ∧ (acquiring 0).start.found.getD (1 - (acquiring 0).synActive) 0 = 0 ∧
    (acquiring (2 ^ 32 - 1)).start.found.getD (1 - (acquiring 0).synActive) 0 = 2 ^ 32 - 1 := by
  unfold Settled PermitFollowed FaultsEntered CanWrite NoneWaits
  decide

set_option maxRecDepth 100000 in
set_option synthInstance.maxSize 4096 in
/-- The active input and the other, held and not, with the other VALID and not; in HOLDOVER and in REVALIDATE; switch modes 0 and 2 -/
theorem witness_References :
    (∀ st < 6, Settled (synth st 0) ∧ Settled (synth st 1)) ∧ (synth 2 0).get R.SYN_STAT_ACTIVE = 0 ∧ (synth 2 0).swAuto = true ∧ run.swAuto = false ∧
    (synth 2 0).isOn (validFld 1) = true ∧ run.isOn (validFld 1) = false ∧ (synth 3 0).get R.SYN_STAT_STATE = 3 ∧
    (synth 4 0).get R.SYN_STAT_STATE = 4 ∧ (synth 2 0).isOn (losFld 0) = false ∧ ((synth 3 0).putB (losFld 0) true).isOn (losFld 0) = true ∧ (synth 2 0).isOn (R.SYN_REF_CFG_MON 0) = true ∧
    (synth 2 0).isOn (losFld 1) = false ∧ ((synth 2 0).putB (losFld 1) true).isOn (losFld 1) = true ∧
    (sets (synth 2 0) [(R.SYN_CTRL_PREF, 1)]).get R.SYN_CTRL_PREF = 1 ∧ (∀ g ∈ [14, 15], ((counting 3 0 g 0 307199999).valWindows 1 0 []).syn.valFrom.getD 1 none = some 0 ∧
    (((counting 3 0 g 0 307199999).valWindows 1 0 []).runAge (0 + 1000 * agePerUs)).isSome = true) ∧ (counting 3 0 15 0 307199999).refWatched 1 = true ∧
    ((counting 3 0 15 0 0).putB (losFld 0) true).isOn (losFld 0) = true ∧ run.get R.SYN_REVAL_CFG_REVAL = 16 ∧ (counting 4 0 15 0 0).get R.SYN_STAT_STATE = 4 ∧
    [9999979999, 9999980000, 10000020000, 10000020001].map ((synth 2 0).valGoodWin 0) = [false, true, true, false] ∧
    run.syn.valFrom.getD 0 none = none ∧ ((synth 2 0).putB (losFld 1) true).refWatched 1 = false ∧ (synth 2 0).synOfs = 0 ∧
    ((aged (60000000 * agePerUs - 1) (synth 2 0)).runAge ((synth 2 0).syn.validAt.getD 1 0 + (synth 2 0).get R.SYN_CTRL_REVERT * (1000000 * agePerUs))).isSome = true ∧
    (counting 2 0 0 0 0).syn.lkCval = some 5 ∧
    (synth 2 0).get R.SYN_CTRL_SW_MODE = 2 ∧ (synth 2 1).synHeld = true ∧
    CanWrite (synth 2 0) 0 0x709004 ∧ (sets (synth 1 0) [(R.SYN_CTRL_SW_MODE, 0)]).get R.SYN_CTRL_SW_MODE = 0 ∧ (synth 0 0).get R.SYN_STAT_STATE = 0 ∧
    (run.putB R.SYN_CTRL_PH_MODE true).isOn R.SYN_CTRL_PH_MODE = true ∧ (run.putB R.SYN_CTRL_PH_MODE false).isOn R.SYN_CTRL_PH_MODE = false := by
  unfold Settled PermitFollowed FaultsEntered CanWrite NoneWaits
  decide

set_option maxRecDepth 100000 in
set_option synthInstance.maxSize 4096 in
/-- ALIGN in OFF and LOCKED; a step of 5,497,558 and of 5,497,559, in the guard and not; the ramp started running and not; the
clock monitor's causes 0 and 4; SYN_CTRL cleared by masters 0, 14 and 15 -/
theorem witness_SynthesiserCommands :
    Settled run ∧ Settled guard ∧ CanWrite run 0 0x709004 ∧ CanWrite run 0 0x709019 ∧ CanWrite run 0 0x709024 ∧ (synth 2 0).get R.SYN_STAT_STATE ≠ 0 ∧ (synth 2 0).synHeld = false ∧
    (sets (synth 2 0) [(⟨0x709020, 15, 0⟩, 7)]).boSum = 7 ∧ (synth 2 0).boSum = 0 ∧ (synth 2 0).syn.slewSum = false ∧
    ((synth 2 0).putB R.SYN_STAT_SLEW true).isOn R.SYN_STAT_SLEW = true ∧ (synth 2 0).isOn R.SYN_STAT_SLEW = false ∧
    (synth 2 0).isOn R.SYN_CMON_STAT_FAIL = false ∧ ((synth 2 0).putB R.SYN_CMON_STAT_FAIL true).isOn R.SYN_CMON_STAT_FAIL = true ∧
    run.get R.SYN_STAT_STATE = 0 ∧ signedOf 32 ((sets run [(⟨0x709018, 15, 0⟩, 0xE2D6)]).rg 0x709018).toNat = 0xE2D6 ∧
    signedOf 32 (0xE2D6 + 65536 * 0x53) = 5497558 ∧ signedOf 32 (0xE2D7 + 65536 * 0x53) = 5497559 ∧ run.inGuard = false ∧ guard.inGuard = true ∧
    run.isOn R.SYN_RAMP_CTRL_EN = false ∧ (run.putB R.SYN_RAMP_CTRL_EN true).isOn R.SYN_RAMP_CTRL_EN = true ∧ (synth 2 0).clk.limp = false ∧
    (4 : Fin 5) ≠ 0 ∧ [50281, 50282, 50381, 50382].map ((synth 2 0).monitorFails true 2) = [true, false, false, true] ∧ (synth 2 0).refQualifies 0 = true ∧
    (sets (synth 3 0) [(validFld 1, 0)]).refQualifies 0 = false ∧ (sets (synth 3 0) [(validFld 1, 0)]).refQualifies 1 = false ∧
    (sets (synth 3 0) [(validFld 1, 0)]).monitorFails false 2 40265 = false ∧ (sets (synth 3 0) [(validFld 1, 0)]).monitorFails false 2 38000 = true ∧
    (synth 2 0).synOfs = 0 ∧ State.reset.clk.limp = true ∧ CanWrite (synth 2 0) 14 0x709003 ∧ CanWrite (synth 2 0) 0 0x709003 ∧
    (synth 2 0).isOn R.SYN_CTRL_EN = true ∧ run.isOn R.SYN_CTRL_EN = false ∧ (0x2001 : Word).toNat / 4096 % 4 ≠ 3 ∧ (0x2001 : Word).toNat % 256 ≠ 0 := by
  unfold Settled PermitFollowed FaultsEntered CanWrite NoneWaits
  decide

/-! ### Time, gates, the engines' control -/

/-- The time base at `trust` with a bound of `b` ns, a run of qualifying ticks and the second missed tick, locked; an offset held. -/
def timed (trust b : Nat) : State :=
  { sets run [(R.TB_STAT_TRUST, trust), (R.SYN_STAT_STATE, 2), (R.TB_STAT_MISS, 2), (R.TB_STAT_HOLD_WAIT, 1)] with
    tb := { run.tb with bound := b * boundPerNs, run := 25500 } }

/-- `timed` in a planned coast with `n` ticks left. -/
def planned (n : Nat) : State :=
  { sets (timed 2 0) [(R.TB_STAT_COAST, 1), (R.TB_STAT_PCOAST, 1), (R.TB_STAT_HOLD_WAIT, 0)] with tb := { (timed 2 0).tb with pcLeft := n } }

set_option maxRecDepth 100000 in
set_option synthInstance.maxSize 4096 in
/-- Updates in the guard and not; a planned coast of 0, 1, 20 and 21 ticks, coasting and not; an offset held and not; a coast entered
within the limit, beyond it, and unlocked; a planned coast at its end and one tick before; a qualifying run -/
theorem witness_Discipline :
    (∀ t < 5, Settled (timed t 0)) ∧ Settled guard ∧ Settled (planned 0) ∧ CanWrite run 0 0x70700F ∧ (0xB0FF : Word).toNat / 16384 ≠ 3 ∧ run.inGuard = false ∧
    guard.inGuard = true ∧ CanWrite run 0 0x707003 ∧ legal run 0x707003 = true ∧ (20 : Fin 32).val ≤ 20 ∧ 20 < (21 : Fin 32).val ∧ run.coasting = false ∧
    (planned 0).coasting = true ∧ (timed 2 0).isOn R.TB_STAT_HOLD_WAIT = true ∧ run.isOn R.TB_STAT_HOLD_WAIT = false ∧ (timed 2 0).get R.TB_STAT_MISS = 2 ∧
    run.get R.TB_STAT_MISS ≠ 2 ∧ (∀ t < 5, (timed t 0).atEdge = true) ∧ (timed 2 0).coasting = false ∧ (planned 0).atEdge = true ∧ (runAt 1 0).atEdge = false ∧
    ((planned 0).putB R.TB_STAT_COAST false).coasting = false ∧ (timed 3 0).get R.TB_STAT_TRUST = 3 ∧ (timed 2 0).synLocked = true ∧ run.synLocked = false ∧ (timed 2 0).tb.limpPend = false ∧
    (timed 2 0).tb.bound ≤ (timed 2 0).get R.TB_HOLD_LIMIT * boundPerNs ∧ (timed 2 0).tb.taint = false ∧
    (timed 2 (2 ^ 33)).get R.TB_HOLD_LIMIT * boundPerNs < (timed 2 (2 ^ 33)).tb.bound ∧ (planned 0).isOn R.TB_STAT_PCOAST = true ∧
    (planned 0).tb.pcLeft = 0 ∧ (planned 1).tb.pcLeft = 1 ∧ (sets (timed 1 0) [(R.TB_STAT_HOLD_WAIT, 0)]).isOn R.TB_STAT_HOLD_WAIT = false ∧
    (timed 1 0).get R.TB_ACQ_CFG_DISC_N * 100 ≤ (timed 1 0).tb.run ∧ (timed 1 0).isOn R.TB_STAT_STEP_PEND = false ∧
    (timed 1 0).tbOffset.natAbs ≤ (timed 1 0).slewLimit := by
  unfold Settled PermitFollowed FaultsEntered CanWrite NoneWaits
  decide

/-- A step of the time base, or of whole seconds, pends from 100 µs ago; the time base at a second boundary. -/
def stepping (f : Fld) : State :=
  { sets (aged (100 * agePerUs) (runAt 50000 0)) [(f, 1)] with tb := { run.tb with offset := -2 ^ 47, sec := 2 ^ 47 - 1 } }

/-- A leap second pends: 1 inserts, 2 removes; the time base at its instant. -/
def leaping (k : Nat) : State :=
  let s := sets run [(R.TB_LEAP_PEND, k)]
  let s := { s with active := s.regs }
  { s with clk := { s.clk with acc := s.leapAt } }

set_option maxRecDepth 100000 in
set_option synthInstance.maxSize 4096 in
/-- A step due and not; a leap second of each sign at its instant, and none -/
theorem witness_StepsAndLeaps :
    Settled (stepping R.TB_STAT_STEP_PEND) ∧ Settled (stepping R.SYS_SECSTEP_CTL_PEND) ∧ (stepping R.TB_STAT_STEP_PEND).isOn R.TB_STAT_STEP_PEND = true ∧
    (stepping R.TB_STAT_STEP_PEND).after100us (stepping R.TB_STAT_STEP_PEND).tb.stepAt = true ∧ run.after100us run.tb.stepAt = false ∧
    (stepping R.TB_STAT_STEP_PEND).isOn R.SYS_SECSTEP_CTL_PEND = false ∧ (stepping R.SYS_SECSTEP_CTL_PEND).isOn R.SYS_SECSTEP_CTL_PEND = true ∧
    (stepping R.SYS_SECSTEP_CTL_PEND).after100us (stepping R.SYS_SECSTEP_CTL_PEND).tb.secAt = true ∧
    (stepping R.TB_STAT_STEP_PEND).clk.acc % accPerSec < (stepping R.TB_STAT_STEP_PEND).lastAdd ∧ (stepping R.TB_STAT_STEP_PEND).clk.waking = [] ∧
    (stepping R.TB_STAT_STEP_PEND).toBoundary = some (stepping R.TB_STAT_STEP_PEND) ∧ run.isOn R.TB_STAT_STEP_PEND = false ∧
    accPerSub ≤ (runAt 0 (accPerSec - 100000 * accPerNs)).perClk ∧ (runAt 0 (accPerSec - 100000 * accPerNs)).toBoundary.isSome = true ∧
    (runAt 0 (accPerSec - 100000 * accPerNs)).lastAdd ≤ (runAt 0 (accPerSec - 100000 * accPerNs)).clk.acc % accPerSec ∧ (runAt 0 (accPerSec / 2)).toBoundary = none ∧
    (let s : State := { leaping 1 with clk := { run.clk with acc := accPerSec - 100000 * accPerNs }, active := wmPut 0 0x70701E 1 (leaping 1).active }
    s.leapAt = accPerSec ∧ s.clk.acc < s.leapAt ∧ (s.runTo s.leapAt).isSome = true ∧ s.act R.TB_LEAP_PEND = 1 ∧ s.clk.waking = []) ∧ Settled (leaping 1) ∧
    (leaping 1).act R.TB_LEAP_PEND = 1 ∧ (leaping 2).act R.TB_LEAP_PEND = 2 ∧ (leaping 1).tb.stepped = none ∧ (leaping 1).leapAt ≤ (leaping 1).clk.acc ∧
    (leaping 1).clk.acc < (leaping 1).leapAt + (leaping 1).lastAdd ∧ (leaping 2).clk.acc < (leaping 2).leapAt + (leaping 2).lastAdd ∧
    run.act R.TB_LEAP_PEND = 0 ∧ run.clk.tbRun = true ∧ State.reset.clk.tbRun = false := by
  unfold Settled PermitFollowed FaultsEntered
  decide

/-- Output 0 with a period of 1 s and its next pulse at second 1, which the time base reaches 200 µs on; SUPPRESS as given. -/
def pulsing (suppress : Nat) : State :=
  let s := { run with clk := { run.clk with acc := (1000000000 - 200000) * accPerNs } }
  let s := sets s [(tpStatBit 4 0, 1), (R.TP_PER_COUNT 0, 1), (R.TP_PER_UNIT 0, 1), (R.TP_CFG_SUPPRESS 0, suppress), (R.TP_TOD_CFG_EN, 1), (R.TP_TOD_CFG_START, 0),
    (R.TP_TOD_CFG_SCALE, 0)]
  let s := { s with active := s.regs }
  (s.setTpOut 0 { next := 1 }).setTpOut 4 { active := true, endAcc := s.clk.acc + 1000 * accPerNs }

/-- `pulsing` with its last pulse begun just now. -/
def tooSoon : State := (pulsing 0).setTpOut 0 { next := 1, lead := some 0 }

/-- Event inputs 0 and 7 enabled, 7 on the falling edge, with `n` entries in the FIFO. -/
def events (n : Nat) : State :=
  { sets run [(⟨0x713003, 15, 8⟩, 0x81), (⟨0x713003, 7, 0⟩, 0x80)] with evt := { run.evt with fifo := List.replicate n (List.replicate 8 1) } }

set_option maxRecDepth 100000 in
set_option synthInstance.maxSize 4096 in
/-- A pulse placed and one that is suppressed; an output off; a pulse that ends; a TOD message due; edges of enabled inputs and not, with
the FIFO empty, with 15 entries and with 16 -/
theorem witness_TimePulses :
    Settled (pulsing 0) ∧ Settled (events 15) ∧ (pulsing 0).clk.waking = [] ∧ accPerSub ≤ (pulsing 0).perClk ∧ (pulsing 0).tpOn 0 = true ∧ (pulsing 0).clk.limp = false ∧
    (pulsing 0).clk.tbRun = true ∧ (pulsing 0).tp.stopped = false ∧ (((pulsing 0).clk.acc * 1000 : Nat) : Int) ≤ (pulsing 0).tpPlace 0 1 ∧ 0 < (pulsing 0).tpPeriod 0 ∧
    ((pulsing 0).runBefore ((pulsing 0).tpPlace 0 1) 1000).isSome = true ∧ ((runAt 491519 0).setTpOut 0 { next := 1 }).runBefore ((pulsing 0).tpPlace 0 1) 1000 = none ∧
    (((pulsing 0).runBefore ((pulsing 0).tpPlace 0 1) 1000).map (fun r => r.1.tpTooSoon 0 r.2)) = some false ∧ (pulsing 0).tpIndex 0 1 = 1 ∧ (pulsing 0).tpCounts 0 = false ∧
    ((tooSoon.runBefore (tooSoon.tpPlace 0 1) 1000).map (fun r => r.1.tpTooSoon 0 r.2)) = some true ∧ tooSoon.tpSuppressed 0 = false ∧ tooSoon.tpOn 0 = true ∧
    ({ (pulsing 0).tpOut 0 with skips := 3 } : TpOut).skips ≠ 0 ∧ (pulsing 0).pwr.stage = .running ∧
    ((pulsing 0).tpOut 0).next = 1 ∧ ((pulsing 0).tpOut 0).active = false ∧ ((pulsing 0).tpOut 0).lead = none ∧ ((pulsing 0).tpOut 0).skips = 0 ∧
    (pulsing 0).tpSuppressed 0 = false ∧ (pulsing 2).tpSuppressed 0 = true ∧ run.tpOn 0 = false ∧ ((pulsing 0).tpOut 4).active = true ∧
    ((pulsing 0).tpOut 4).endAge = none ∧ (pulsing 0).clk.acc ≤ ((pulsing 0).tpOut 4).endAcc ∧
    ((pulsing 0).runBefore ((pulsing 0).tpOut 4).endAcc 1).isSome = true ∧ (pulsing 0).inTick (((62500 - (pulsing 0).clk.age) * fracPerAge + 0) / ((pulsing 0).ageStep * fracPerAge)) = true ∧ (pulsing 0).act R.TP_TOD_CFG_EN = 1 ∧
    ((pulsing 0).runTo (((pulsing 0).scaleSecond ((pulsing 0).act R.TP_TOD_CFG_SCALE) (pulsing 0).todSecond +
    (pulsing 0).act R.TP_TOD_CFG_START * 4000000) * accPerQuarter).toNat).isSome = true ∧ run.act R.TP_TOD_CFG_EN = 0 ∧
    ((events 15).rg 0x713003).getLsbD 15 = true ∧ ((events 15).rg 0x713003).getLsbD 7 = true ∧ ((events 15).rg 0x713003).getLsbD 8 = true ∧
    ((events 15).rg 0x713003).getLsbD 0 = false ∧ (events 15).evtBlind 0 0 = false ∧ (events 16).evtBlind 7 65536 = false ∧
    ({ events 15 with evt := { (events 15).evt with seen := [some ((events 15).clk.age, 0)] } } : State).evtBlind 0 (40 * 65536 - 1) = true ∧
    ({ events 15 with evt := { (events 15).evt with seen := [some ((events 15).clk.age, 0)] } } : State).evtBlind 0 (40 * 65536) = false ∧
    (events 15).evt.fifo.length + (events 15).evt.held.length = 15 ∧ (events 16).evt.fifo.length = 16 ∧
    (events 16).evt.spell = false ∧ (events 15).evt.lastAt ≠ (runAt 100 0).clk.total ∧ ({ (events 15).evt with lastAt := 0, fresh := 2 } : EvtSt).lastAt = (events 15).clk.total ∧ ((events 15).evt.fifo.drop 15).Pairwise (fun a b => eventInput a ≤ eventInput b) ∧ CanRead (events 1) 10 0x713008 ∧ (events 1).host.open_ = false ∧ (events 1).evt.held = [] ∧
    (events 1).evt.fifo = List.replicate 8 1 :: [] ∧ Settled (after (.evtFifoRead 10) (events 1)) ∧ CanRead (after (.evtFifoRead 10) (events 1)) 10 0x713009 := by
  unfold Settled PermitFollowed FaultsEntered CanRead NoneWaits
  decide

/-- Gate 0 in `st`, with a schedule of two edges, its frame begun at reading 0 with `e` edges done, open since clock `o` if given; Transmit Permit where `p` is 1. -/
def gated (st p e : Nat) (o : Option Nat) : State :=
  let s := sets run [(R.SLC_GATE_STAT_STATE 0, st), (R.SYN_STAT_SETTLED, p), (R.TB_STAT_TRUST, 2), (R.CFL_STAT_AGREE, 1),
    (⟨0x70A010, 6, 0⟩, 2), (⟨0x70A801, 15, 0⟩, 10), (⟨0x70A802, 15, 0⟩, 1000)]
  let s := { s with active := s.regs, permitPrev := p == 1 }
  s.setGate 0 { s.gate 0 with frame := some 0, edge := e, opened := o, limit := 400, armEnd := 100 }

/-- `s` with gate 0 changed by `f`. -/
def gateIs (f : Gate → Gate) (s : State) : State := s.setGate 0 (f (s.gate 0))

/-- The values that `m` holds wait for gate 0: an offset of 7 ns. -/
def gateWaits : State := gateIs (fun g => { g with waiting := some (run.setRg 0x70A020 7).regs }) (gated 2 1 0 none)

/-- Gate 0 closes at clock 5 after a step. -/
def gateStepped : State := gateIs (fun g => { g with closeAt := some 5 }) (gated 2 1 1 none)

set_option maxRecDepth 100000 in
set_option synthInstance.maxSize 4096 in
/-- Every state of a gate, its DIS_PEND 0 and 1; tamper stop; a trip at the clock of CLOSE_NOW, before it and none; boundaries with Transmit
Permit and without, in time and late, with values that keep the grid and values that move it; an opening edge in the tick and beyond
it, a closing edge, one after the timeout and one after a step; an arming that times out, and one whose boundary comes first -/
theorem witness_Gates :
    (∀ st < 5, Settled (gated st 0 0 none) ∧ Settled (gated st 1 0 none) ∧ (gated st 1 0 none).gateState 0 = st) ∧ CanWrite run 0 0x70A005 ∧
    ((gated 2 1 0 none).putB (R.SLC_GATE_STAT_DIS_PEND 0) true).isOn (R.SLC_GATE_STAT_DIS_PEND 0) = true ∧ run.slc.stopped = false ∧ run.slc.scrapped = false ∧
    ({ run.slc with stopped := true } : SlcSt).stopped = true ∧ (gated 2 1 1 (some 0)).gateTripIn 0 ≠ some 0 ∧
    (let s : State := { gated 2 1 1 (some 0) with clk := { run.clk with total := 400 } }; s.gateTripIn 0 = some 0 ∧ s.gateTrips 0 = true) ∧
    ((gated 4 1 0 none).gate 0).tripAt = none ∧ ((gateIs (fun g => { g with tripAt := some 0 }) (gated 4 1 0 none)).gate 0).tripAt = some run.clk.total ∧
    (gated 1 1 0 none).clk.waking = [] ∧ (gated 1 1 0 none).permit = true ∧ (gated 1 0 0 none).permit = false ∧ ((gated 1 1 0 none).gate 0).closeAt = none ∧
    ((gated 1 1 0 none).gate 0).waiting = none ∧ (gated 1 1 0 none).clk.tbRun = true ∧ (gated 1 1 0 none).clk.age ≤ ((gated 1 1 0 none).gate 0).armEnd ∧
    ((gated 1 1 0 none).gate 0).armEnd < (aged 101 (gated 1 1 0 none)).clk.age ∧
    (∀ st < 5, ((gated st 1 0 none).runTo ((gated st 1 0 none).gateBound 0 * accPerNs)) = some (gated st 1 0 none)) ∧
    gateNext ((gated 2 1 0 none).gateActivate 0).active 0 0 = 0 ∧ gateWaits.runTo (gateWaits.gateBound 0 * accPerNs) = some gateWaits ∧ gateWaits.gateBound 0 = 0 ∧
    gateNext (gateWaits.gateActivate 0).active 0 0 ≠ 0 ∧ (gateStepped.gate 0).closeAt ≠ none ∧ State.reset.clk.tbRun = false ∧
    0 < gateEdges (gated 2 1 0 none).active 0 ∧ 1 < gateEdges (gated 2 1 1 (some 0)).active 0 ∧
    ((gated 2 1 0 none).runTo ((gated 2 1 0 none).gateTarget 0 0 0)).isSome = true ∧
    (let s : State := { gated 2 1 0 none with clk := { run.clk with phase := 491519 } }; s.runTo (s.gateTarget 0 0 0) = none) ∧
    (gated 2 1 1 (some 0)).gateTripIn 0 = some 400 ∧ (gated 2 1 1 (some 0)).gateTrips 0 = true ∧ (gated 2 1 1 (some 0)).inTick 400 = true ∧
    (gated 2 1 1 none).gateCloseIn 0 = 1000 ∧ (gated 2 1 1 none).inTick 1000 = true ∧ (gated 2 1 1 none).gateTripIn 0 = none ∧ (gated 2 1 1 none).gateTrips 0 = false ∧
    (gateStepped.gate 0).closeAt = some 5 ∧ gateStepped.gateCloseIn 0 = 5 ∧ gateStepped.inTick 5 = true ∧ gateStepped.gateTrips 0 = false ∧
    (gated 1 0 0 none).ageStep = 625 ∧ (gated 1 0 0 none).inTick 1 = true ∧ accPerSub ≤ run.perClk ∧ (gated 2 1 1 (some 0)).gateEndIn 0 ≤ 400 := by
  unfold Settled PermitFollowed FaultsEntered CanWrite NoneWaits
  decide

/-- Engine 0 halted where `h`, its clock trap and BRK raised, with `n` cycles since; an ADD in flight where `fly`. -/
def trapped (h n : Nat) (fly : Bool) : State :=
  (run.put (R.SYS_ENG_STAT_HALTED 0) h).setEng 0 { full with
    issuing := true, clkTrap := true, brk := true, asyncWait := n, fly := if fly then [{ dist := 2, dest := .w 0, val := 1 }] else [] }

/-- Semaphore 31 held by master 4. -/
def claimed : State := sets run [(R.SYS_SEM_HELD 31, 1), (R.SYS_SEM_OWNER 31, 4)]

set_option maxRecDepth 100000 in
set_option synthInstance.maxSize 4096 in
/-- An engine halted and not; asynchronous traps in a quiet cycle, after 63 cycles and after 64; a semaphore free, and held by the
master that writes and by another -/
theorem witness_EngineControl :
    Settled (trapped 1 0 false) ∧ Settled claimed ∧ CanWrite run 0 0x700020 ∧ (trapped 1 0 false).isOn (R.SYS_ENG_STAT_HALTED 0) = true ∧
    (trapped 0 0 false).isOn (R.SYS_ENG_STAT_HALTED 0) = false ∧ Quiet ((trapped 0 0 false).eng 0) ∧ ((trapped 0 0 false).eng 0).issuing = true ∧
    ((trapped 0 0 false).eng 0).tm = false ∧ ((trapped 0 0 false).eng 0).brk = true ∧ ((trapped 0 0 false).eng 0).clkTrap = true ∧
    (run.eng 0).clkTrap = false ∧ ((trapped 0 64 true).eng 0).fly ≠ [] ∧ ((trapped 0 64 true).eng 0).asyncWait = 64 ∧
    ((trapped 0 63 true).eng 0).asyncWait = 63 ∧ run.host.open_ = false ∧ CanRead run 4 (0x700040 + 31) ∧ run.evt.held = [] ∧
    run.isOn (R.SYS_SEM_HELD 31) = false ∧ claimed.isOn (R.SYS_SEM_HELD 31) = true ∧ claimed.get (R.SYS_SEM_OWNER 31) = 4 ∧ CanWrite claimed 4 (0x700040 + 31) ∧
    run.jtagNone = false ∧ run.live = true ∧ ({ run with pwr := { run.pwr with stage := .inReset } } : State).live = false ∧ (15 : Master).val = 15 ∧ (run.put R.LCS_STAT_LC 2).jtagNone = true ∧ (run.put R.LCS_STAT_LC 4).jtagNone = true := by
  unfold Settled PermitFollowed FaultsEntered CanWrite CanRead Quiet NoneWaits
  decide

/-- Engine 0 powered with task 0 in its queue, LOOP with `l` 0; a SPAN task of engine 1 that has touched 3 ticks. -/
def placed (l : Nat) (n : Nat) : State :=
  let s := sets run [(R.TASK_KIND 0, l), (R.WEIR_STAT_ENG_POWERED, 255), (R.TASK_KIND 1, 1), (R.TASK_SPAN 1, 1), (R.TASK_SPAN_MAX 1, n)]
  let s := { s with active := s.regs }
  (s.setEng 0 { s.eng 0 with queue := [0], slots := some (0, 0) :: List.replicate 63 none }).setEng 1 { s.eng 1 with
    issuing := true, task := some 1, ticks := 3 }

/-- Weir at level `l` with MIN_LEVEL 0 and its conditions to lower met, an expendable task, and engine 0 asked to wake. -/
def weirAt (l : Nat) : State :=
  { sets jobs [(R.WEIR_LEVEL_LEVEL, l), (R.WEIR_HOLD_RECOVER, 1), (R.WEIR_STAT_ENG_POWERED, 254)] with
    weir := { run.weir with recover := 100, next := some l }, plc := { run.plc with wake := [0] } }

/-- `placed 1 2` with task 1, a LOOP task without its record, before task 0, at phase `p`. -/
def skipping (p : Nat) : State :=
  let s := { placed 1 2 with clk := { run.clk with phase := p } }.put (R.TASK_KIND 1) 0
  s.setEng 0 { s.eng 0 with queue := [1, 0] }

/-- `placed 1 2` where the last block of task 0 lands at clock `n` of the tick. -/
def landing (n : Nat) : State := { placed 1 2 with plc := { run.plc with landing := [(0, n)] } }

set_option maxRecDepth 100000 in
set_option synthInstance.maxSize 4096 in
/-- A placement made once and not again, in time and not, after the Weir decision and before it; a task whose block lands in the tick, and
not; a LOOP task without its record, skipped once the record post is over; a SPAN task at its limit and beyond -/
theorem witness_Tasks :
    Settled (placed 1 2) ∧ run.clk.running = true ∧ run.clk.waking = [] ∧ run.clk.phase ≤ run.clk.tickLen - (491520 - 491263) ∧
    ¬guard.clk.phase ≤ guard.clk.tickLen - (491520 - 491263) ∧ run.plc.plan = none ∧ run.weir.next = none ∧ (weirAt 8).weir.next ≠ none ∧
    ({ run.plc with plan := some {} } : PlcSt).plan ≠ none ∧ run.switchSoon = false ∧ ({ updating 3 true with clk := { run.clk with tickCount := 4 } } : State).switchSoon = true ∧ State.reset.clk.running = false ∧
    ((placed 1 2).eng 0).issuing = false ∧ (placed 1 2).isOn (R.SYS_ENG_STAT_HALTED 0) = false ∧ bitOf ((placed 1 2).get R.WEIR_STAT_ENG_POWERED) 0 = true ∧
    ((placed 1 2).eng 0).queue = [0] ∧ (placed 1 2).isLoop 0 = false ∧ (placed 1 2).inTick ((placed 1 2).landed 0 - (placed 1 2).clk.phase) = true ∧
    (landing 3840).inTick ((landing 3840).landed 0 - (landing 3840).clk.phase) = true ∧ (landing 491520).inTick ((landing 491520).landed 0 - (landing 491520).clk.phase) = false ∧
    ((skipping 12288).eng 0).queue = [1] ++ 0 :: [] ∧ (skipping 12288).isLoop 1 = true ∧ (skipping 12288).recordReady ((skipping 12288).get (R.TASK_CHAN 1)) = false ∧
    (skipping 12288).postOver = true ∧ (skipping 12287).postOver = false ∧ (skipping 12288).isLoop 0 = false ∧
    (placed 0 2).isLoop 0 = true ∧ (placed 0 2).recordReady ((placed 0 2).get (R.TASK_CHAN 0)) = false ∧ (placed 0 2).postOver = false ∧
    ({ placed 0 2 with clk := { run.clk with phase := 12288 } } : State).postOver = true ∧
    ((placed 1 2).eng 0).slots.getD 0 none = some (0, 0) ∧ (placed 1 2).atEdge = true ∧ (skipping 1).atEdge = false ∧ (placed 1 2).spanOn 1 = some 1 ∧
    (placed 1 2).act (R.TASK_SPAN_MAX 1) < ((placed 1 2).eng 1).ticks ∧
    ((placed 1 3).eng 1).ticks ≤ (placed 1 3).act (R.TASK_SPAN_MAX 1) ∧ (placed 1 2).spanOn 0 = none := by
  unfold Settled PermitFollowed FaultsEntered
  decide

set_option maxRecDepth 100000 in
set_option synthInstance.maxSize 4096 in
/-- Below the cap, at it and above it, with work to shed and at level 9; in time and too late; a level that may fall, and 0; units powered
and not, at an edge and off it; a wake that the spacing allows in this tick, and not -/
theorem witness_Weir :
    Settled (weirAt 8) ∧ Settled jobs ∧ jobs.clk.running = true ∧ jobs.weir.next = none ∧ (weirAt 8).weir.next.isSome = true ∧ jobs.weirCap < 65535 ∧
    jobs.get R.WEIR_LEVEL_LEVEL < 9 ∧ jobs.get R.WEIR_LEVEL_LEVEL < 7 ∧ jobs.workPresent 7 = true ∧
    (weirAt 8).clk.limp = false ∧ 100 * (weirAt 8).get R.WEIR_HOLD_RECOVER ≤ (weirAt 8).weir.recover ∧ (weirAt 8).get R.WEIR_LEVEL_MIN_LEVEL < 8 ∧
    run.mayGate 0 = false ∧ (sets run [(R.WEIR_GATE_ENG_EN, 1), (R.WEIR_GATE_IDLE, 0), (R.WEIR_STAT_ENG_POWERED, 255)]).mayGate 1 = true ∧ (List.range 20).find? (weirAt 8).wakeAsked = some 0 ∧ (List.range 20).find? run.wakeAsked = none ∧ (weirAt 8).clk.waking = [] ∧ jobs.clk.waking = [] ∧
    jobs.clk.phase ≤ jobs.clk.tickLen - (491520 - 485375) ∧ ¬guard.clk.phase ≤ guard.clk.tickLen - (491520 - 485375) ∧ (weirAt 8).weir.next = some ((weirAt 8).get R.WEIR_LEVEL_LEVEL) ∧ run.atEdge = true ∧ (skipping 1).atEdge = false ∧
    ({ weirAt 8 with clk := { run.clk with nextWake := 491520 } } : State).inTick (491520 - run.clk.total) = false ∧
    (weirAt 8).inTick ((weirAt 8).clk.nextWake - (weirAt 8).clk.total) = true := by
  unfold Settled PermitFollowed FaultsEntered
  decide

/-- The scrubber at word `p`, which holds the error `f`; a slice on loan to the test where `b`. -/
def cared (p : Nat) (f : List (Nat × Flip)) (b : Option Nat) : State :=
  let s := sets run [(R.MEM_ECC_CFG_SCRUB_EN, 1), (R.MEM_TEST_CFG_EN, 1), (⟨0x70D008, 15, 0⟩, p % 65536), (⟨0x70D009, 15, 0⟩, p / 65536), (R.MEM_BW_STAT_READY, 1)]
  { s with memSt := { s.memSt with flips := f, borrowed := b, testDue := true, writeBack := [p] } }

set_option maxRecDepth 100000 in
set_option synthInstance.maxSize 4096 in
/-- The scrubber at the first and the last word of each stretch; a word with one error, with two, and poisoned; the first and the last
slice on loan; a slice that is due; a read of the scrubber that comes in this tick, and one that does not -/
theorem witness_MemoryCare :
    Settled (cared 0x100000 [] none) ∧ (cared 0x100000 [] none).clk.waking = [] ∧
    (let s := cared 0x100000 [] none; s.inTick (s.memSt.scrubAt + 2 ^ s.get R.MEM_ECC_CFG_SCRUB_RATE - s.clk.total) = true) ∧
    (let s : State := { cared 0x100000 [] none with clk := { run.clk with phase := 491519 } }; s.memSt.scrubAt + 2 ^ s.get R.MEM_ECC_CFG_SCRUB_RATE - s.clk.total ≠ 0 ∧ s.inTick (s.memSt.scrubAt + 2 ^ s.get R.MEM_ECC_CFG_SCRUB_RATE - s.clk.total) = false) ∧ run.memSt.writeBack = [] ∧ (cared 0x100000 [] none).memSt.writeBack = [0x100000] ∧
    (run.putB R.MEM_ECC_CFG_SCRUB_EN false).isOn R.MEM_ECC_CFG_SCRUB_EN = false ∧ (cared 0x100000 [] none).isOn R.MEM_ECC_CFG_SCRUB_EN = true ∧ (cared 0x100000 [] none).live = true ∧
    (∀ p ∈ [0x100000, 0x2FFFFF, 0x600000, 0x623FFF], (cared p [] none).scrubPos = p) ∧ (cared 0x600000 [] none).bwOpen = true ∧
    (cared 0x600000 [] none).isOn R.MEM_SS_STAT_WIPING = false ∧ (cared 0x600000 [] none).isOn R.MEM_SS_STAT_FAIL = false ∧
    (cared 0x100000 [] none).flipAt 0x100000 = none ∧ (cared 0x100000 [(0x100000, ⟨1, 0, false⟩)] none).flipAt 0x100000 = some ⟨1, 0, false⟩ ∧
    (⟨1, 0, false⟩ : Flip).bits = 1 ∧ (⟨3, 0, false⟩ : Flip).bits = 2 ∧ (⟨0, 0, true⟩ : Flip).poison = true ∧ (cared 0x100000 [] (some 7679)).memSt.borrowed = some 7679 ∧
    (cared 0x100000 [] none).isOn R.MEM_TEST_CFG_EN = true ∧ (cared 0x100000 [] none).memSt.testDue = true ∧ (cared 0x100000 [] none).get R.MEM_TEST_POS_SLICE < 7680 ∧
    (cared 0x100000 [] none).sliceExcluded ((cared 0x100000 [] none).get R.MEM_TEST_POS_SLICE) = false ∧ (cared 0x100000 [] none).memSt.flips = [] := by
  unfold Settled PermitFollowed FaultsEntered
  decide

set_option maxRecDepth 100000 in
set_option synthInstance.maxSize 4096 in
/-- VDD_RET valid and not; a wipe in progress and none, its first run and its second, with a transition and without; the store closed
and the states that refuse it -/
theorem witness_RetainedMemories :
    Settled run ∧ Settled (life 1) ∧ CanWrite run 0 0x70D030 ∧ CanWrite run 0 0x70D033 ∧ run.pwr.rails.getD 2 false = true ∧ run.live = true ∧
    (after .vddRetLoss run).pwr.rails.getD 2 false = false ∧ run.isOn R.MEM_SS_STAT_WIPING = false ∧ (life 1).isOn R.MEM_SS_STAT_WIPING = true ∧
    (life 1).isOn R.LCS_STAT_LC_BUSY = true ∧ run.isOn R.LCS_STAT_LC_BUSY = false ∧ run.memSt.wipeAgain = false ∧
    ({ run.memSt with wipeAgain := true } : MemSt).wipeAgain = true ∧ run.bwOpen = false ∧ (run.put R.LCS_STAT_LC 3).lc = 3 ∧ (run.put R.LCS_STAT_LC 4).lc = 4 := by
  unfold Settled PermitFollowed FaultsEntered CanWrite NoneWaits
  decide

/-- The fault ring with `n` records, the next software fault with `code`. -/
def faults (n code : Nat) : State := { (run.put R.FLT_SW_0_CODE code) with flt := { run.flt with depth := n } }

set_option maxRecDepth 100000 in
/-- A lock bit set; POP of 0, 1, the depth, one more than it, 64 and 65; GO with a code of 0x7F and 0x80; the ring with 63 records, and full -/
theorem witness_LocksAndFaultRing :
    Settled (faults 63 0x80) ∧ CanWrite run 0 (0x70E010 + 3) ∧ CanWrite run 0 (0x70E081 + 0x80 * 2 + 63) ∧
    ((run.setRg 0x70E013 0x8000).rg (0x70E010 + 63 / 16)).getLsbD (63 % 16) = true ∧ CanWrite (run.setRg 0x70E013 0x8000) 0 0x70E1C0 ∧
    CanWrite run 0 0x712004 ∧ (64 : Word).toNat % 128 = 64 ∧ (65 : Word).toNat % 128 = 65 ∧ (faults 64 0x80).flt.depth = 64 ∧ CanWrite run 0 0x712013 ∧
    (faults 63 0x7F).get R.FLT_SW_0_CODE = 0x7F ∧ (faults 63 0x80).get R.FLT_SW_0_CODE = 0x80 ∧ RingBounded (faults 63 0x80) ∧ RingBounded (faults 64 0x80) ∧
    CanWrite run 0 (0x712008 + 1) := by
  unfold Settled PermitFollowed FaultsEntered CanWrite RingBounded NoneWaits
  decide

/-- Select 0 in raw mode where `raw`, on page 0x712. -/
def hosting (raw : Nat) : State := sets run [(R.HP_SEL_CFG_MODE 0, raw), (R.HP_PAGE_PAGE 0, 0xE240)]

set_option maxRecDepth 100000 in
set_option synthInstance.maxSize 4096 in
/-- A select in register mode and in raw mode; writes of HP_PAGE and of other registers; a frame cut short; a count read; records that
fit and one that does not; a control word that is refused -/
theorem witness_HostFrames :
    Settled run ∧ Settled (hosting 1) ∧ run.selectSees 0 false = true ∧ run.selectSees 0 true = false ∧ (hosting 1).selectSees 0 true = true ∧
    (hosting 1).selectSees 0 false = false ∧ run.crcOn 0 = false ∧ run.host.rc = [] ∧ run.host.claims = [] ∧ run.evt.held = [] ∧ (1 : BitVec 7) ≠ 0 ∧ (15 : Fin 16) ≠ 0 ∧
    run.host.rejSeen.getD 0 false = false ∧ (hosting 0).pageBase 0 = 0x712000 ∧ CanRead (hosting 0) 10 0x712006 ∧ (hosting 0).shadowOf 10 0x712006 = none ∧
    (hosting 0).flt.lostCnt < 65536 ∧ run.start.phase ≠ .host ∧ run.start.frozen = none ∧ run.memSt.flips = [] ∧ run.memSt.borrowed = none ∧
    (∀ b < 32, run.allowed 10 b .write = true ∧ run.allowed 10 b .read = true) ∧
    0x2E0000 + (hosting 1).get (R.HP_RAW_IN_CFG_BASE 0) * 1024 + ((hosting 1).get (R.HP_RAW_IN_CFG_SIZE 0) + 1) * 1024 ≤ 0x300000 ∧
    0x2E0000 + (hosting 1).get (R.HP_RAW_OUT_CFG_BASE 0) * 1024 + ((hosting 1).get (R.HP_RAW_OUT_CFG_SIZE 0) + 1) * 1024 ≤ 0x300000 ∧
    (1 : BitVec 12).toNat + 1 ≤ ((hosting 1).get (R.HP_RAW_IN_RD_V 0) + 2 * (((hosting 1).get (R.HP_RAW_IN_CFG_SIZE 0) + 1) * 1024) -
    (hosting 1).get (R.HP_RAW_IN_WR_V 0) % (((hosting 1).get (R.HP_RAW_IN_CFG_SIZE 0) + 1) * 1024) - 1) % (((hosting 1).get (R.HP_RAW_IN_CFG_SIZE 0) + 1) * 1024) ∧
    (((hosting 1).put (R.HP_RAW_IN_RD_V 0) 1).get (R.HP_RAW_IN_RD_V 0) + 2 * (((hosting 1).get (R.HP_RAW_IN_CFG_SIZE 0) + 1) * 1024) - 1) %
    (((hosting 1).get (R.HP_RAW_IN_CFG_SIZE 0) + 1) * 1024) < (1 : BitVec 12).toNat + 1 ∧ (1 : BitVec 3) ≠ 0 ∧ 1 ≤ (hosting 1).drivenWaits 0 := by
  unfold Settled PermitFollowed FaultsEntered CanRead NoneWaits
  decide

/-- The window on, block 1 in a cache line; a program of word 0x100 in progress since clock 0 of 65,536 clocks or more, reading 0 where it writes 1. -/
def flashing (prog : Option Nat) : State :=
  let s := sets (runAt 400000 0) [(R.FP_CTRL_XIP_EN, 1), (R.FP_CTRL_VERIFY, 1), (R.FP_PAGE_PROG_TMO, 1)]
  { s with flash := { s.flash with lines := [1], prog := prog, gather := some (1, 0), words := [(0x100, 1)], cells := [(0x100, 0)] } }

/-- `s` with the flash changed by `f`. -/
def flashIs (f : FlashSt → FlashSt) (s : State) : State := { s with flash := f s.flash }

set_option maxRecDepth 100000 in
set_option synthInstance.maxSize 4096 in
/-- The window on and off; a block in a line, and not, the port busy and not; a word in the buffer; checked blocks, good and not; a buffer
that waits, for 64 clocks in the tick and not, and none; a program in progress, in its time and past it, that clears a bit it should
not have, and one that does not; a program cut short -/
theorem witness_FlashWindow :
    Settled (flashing none) ∧ Settled (flashing (some 0)) ∧ (flashing none).clk.waking = [] ∧ run.live = true ∧ run.allowed 0 38 .read = true ∧ NoneWaits run 0 ∧
    run.evt.held = [] ∧ run.flash.words = [] ∧ run.flash.offSeen = false ∧
    (run.putB R.FP_CTRL_XIP_EN false).isOn R.FP_CTRL_XIP_EN = false ∧ (flashing none).isOn R.FP_CTRL_XIP_EN = true ∧ 1 ∈ (flashing none).flash.lines ∧
    0 ∉ (flashing none).flash.lines ∧ 128 ∉ (flashing none).flash.lines ∧ (flashing none).flashBusy = false ∧ (flashing (some 0)).flashBusy = true ∧
    (flashing none).flash.words.find? (fun e => e.1 == 0x100) = some (0x100, 1) ∧ (flashing none).flash.words.find? (fun e => e.1 == 0x101) = none ∧
    (flashing none).flash.words.find? (fun e => e.1 == 128 * 256) = none ∧
    ((flashing none).putB R.FP_CTRL_CHECK true).isOn R.FP_CTRL_CHECK = true ∧ ((flashing none).putB R.FP_CTRL_CHECK false).isOn R.FP_CTRL_CHECK = false ∧
    ((flashing none).putB R.FP_CTRL_CHECK true).crcTableBlock 128 = false ∧
    ((flashing none).putB R.FP_CTRL_CHECK true).blockGood 128 = false ∧
    run.flash.gather = none ∧ (flashing none).flash.gather ≠ none ∧ (flashing none).flash.prog = none ∧ (flashing (some 0)).flash.prog ≠ none ∧
    ((flashing none).runClocks ((flashing none).flash.wroteAt + 64)).isSome = true ∧
    (let s : State := { flashing none with clk := { run.clk with phase := 491500, total := 0 } }; (s.runClocks (s.flash.wroteAt + 64)).isNone = true) ∧
    CanWrite run 0 0x71000E ∧ (flashing (some 0)).flash.prog = some 0 ∧
    (flashing (some 0)).clk.age < 0 + (flashing (some 0)).progTicks ∧ 0 + (flashing (some 0)).progTicks ≤ (aged 3072000 (flashing (some 0))).clk.age ∧
    comes (flashing (some 0)) (0 + (flashing (some 0)).progTicks) = true ∧
    (let s := (flashing (some 0)).put R.FP_PAGE_PROG_TMO 1000; comes s (0 + s.progTicks) = false ∧ s.clk.waking = []) ∧
    (flashing (some 0)).flash.cmdWait = false ∧ (flashIs (fun f => { f with cmdWait := true }) (flashing (some 0))).flash.cmdWait = true ∧
    ((flashing (some 0)).flash.words.map (·.1)).Nodup ∧ (flashing (some 0)).isOn R.FP_CTRL_VERIFY = true ∧
    (flashing (some 0)).flash.aborted = false ∧ (flashIs (fun f => { f with aborted := true }) (flashing (some 0))).flash.aborted = true ∧
    (flashing (some 0)).flashWord 0x100 &&& 1 ≠ 1 ∧ ((flashing (some 0)).putB R.FP_CTRL_VERIFY false).isOn R.FP_CTRL_VERIFY = false := by
  unfold Settled PermitFollowed FaultsEntered CanWrite NoneWaits
  decide

/-- A write frame polls since the start, for a change of word 0, with a time limit of 0 ms. -/
def polling : State := { run.put R.FP_CMD_TMO_TMO 0 with flash := { run.flash with cmd := some 0, frame := { change := [(0, 7)] } } }

set_option maxRecDepth 100000 in
set_option synthInstance.maxSize 4096 in
/-- The port idle and busy, and with a buffer that waits; a read frame of 128 bytes; a write frame that polls and one that does not; a change of
the first and of the last word; a poll in progress, in its time and past it, and none -/
theorem witness_FlashCommands :
    Settled run ∧ Settled polling ∧ run.clk.waking = [] ∧ CanWrite run 0 0x710010 ∧ (0x8000 : Word).getLsbD 15 = true ∧ (([(0, 7), (2 ^ 31 - 1, 8)] : List (BitVec 31 × Word)).map (·.1)).Nodup ∧
    (0xC000 : Word).getLsbD 14 = true ∧ (0x8000 : Word).getLsbD 14 = false ∧ (0xA000 : Word).getLsbD 13 = true ∧ (0x8000 : Word).getLsbD 13 = false ∧
    run.flashBusy = false ∧ polling.flashBusy = true ∧ run.flash.gather = none ∧ (flashing none).flash.gather ≠ none ∧ CanWrite (flashing none) 0 0x710010 ∧
    run.get R.FP_CMD_LEN_LEN ≤ 128 ∧ (run.put R.FP_CMD_LEN_LEN 128).get R.FP_CMD_LEN_LEN = 128 ∧ run.flash.cmd = none ∧ polling.flash.cmd = some 0 ∧
    (polling.flash.frame.change.map (·.1)).Nodup ∧ 0 + polling.get R.FP_CMD_TMO_TMO * (1000 * agePerUs) ≤ polling.clk.age ∧
    (polling.put R.FP_CMD_TMO_TMO 1).clk.age < 0 + (polling.put R.FP_CMD_TMO_TMO 1).get R.FP_CMD_TMO_TMO * (1000 * agePerUs) ∧
    comes polling 0 = true ∧ comes (polling.put R.FP_CMD_TMO_TMO 9) (0 + 9 * (1000 * agePerUs)) = false := by
  unfold Settled PermitFollowed FaultsEntered CanWrite NoneWaits
  decide

end Sys2Proof.Tests
end

section
/-! Rules that the proofs of several families use: fields and masks, the register map, the end of a command, the bus. -/

namespace Sys2Proof.Proofs

open Sys2Proof Sys2Proof.Machine Sys2Proof.Safety

/-! ### Fields and masks (R11) -/

theorem testBit_fieldMask (f : RegField) (j : Nat) : f.mask.testBit j = (decide (f.lo ≤ j) && decide (j ≤ f.hi)) := by
  rw [RegField.mask, Nat.testBit_mul_two_pow, Nat.testBit_two_pow_sub_one]
  by_cases h : f.lo ≤ j
  · simp only [h, decide_true, Bool.true_and, decide_eq_decide]; omega
  · simp [h]

theorem testBit_foldMask (l : List RegField) (m j : Nat) :
    (l.foldl (fun m f => m ||| f.mask) m).testBit j = (m.testBit j || l.any (fun f => decide (f.lo ≤ j) && decide (j ≤ f.hi))) := by
  induction l generalizing m with
  | nil => simp
  | cons f t ih => rw [List.foldl_cons, ih, Nat.testBit_or, testBit_fieldMask, List.any_cons, Bool.or_assoc]

/-- A mask holds the bits of the fields that it was made of. -/
theorem testBit_maskOf (g : RegGroup) (p : RegField → Bool) (j : Nat) :
    (g.maskOf p).testBit j = true ↔ ∃ f ∈ g.fields, p f = true ∧ f.lo ≤ j ∧ j ≤ f.hi := by
  simp [RegGroup.maskOf, testBit_foldMask]

theorem testBit_maskOf_false {g : RegGroup} {p : RegField → Bool} {j : Nat}
    (h : ∀ f ∈ g.fields, p f = true → j < f.lo ∨ f.hi < j) : (g.maskOf p).testBit j = false := by
  refine Bool.eq_false_iff.mpr fun hb => ?_
  obtain ⟨f, hf, hp, hlo, hhi⟩ := (testBit_maskOf g p j).mp hb
  have := h f hf hp
  omega

/-- The fields of a register are fields of a word. -/
def RegGroup.InWord (g : RegGroup) : Prop := ∀ f ∈ g.fields, f.hi ≤ 15

theorem maskOf_lt {g : RegGroup} (hg : RegGroup.InWord g) (p : RegField → Bool) : g.maskOf p < 2 ^ 16 := by
  refine Nat.lt_pow_two_of_testBit _ fun j hj => Bool.eq_false_iff.mpr fun h => ?_
  obtain ⟨f, hf, -, -, hj'⟩ := (testBit_maskOf g p j).mp h
  have := hg f hf
  omega

/-- A bit of a register after a write of `v` over `old`: RW bits take `v`, W1C bits clear where `v` has a 1, every other bit stands. -/
theorem testBit_stored {g : RegGroup} (hg : RegGroup.InWord g) (old v j : Nat) (hv : v < 2 ^ 16) (hj : j < 16) :
    (g.stored old v).testBit j = if (g.maskOf (fun f => f.ty == .rw)).testBit j then v.testBit j
      else (old.testBit j && !((g.maskOf (fun f => f.ty == .w1c)).testBit j && v.testBit j)) := by
  have hand : g.maskOf (fun f => f.ty == .w1c) &&& v < 2 ^ 16 := Nat.and_lt_two_pow _ hv
  have hbit : ∀ m < 2 ^ 16, (65535 - m).testBit j = !m.testBit j := fun m hm => by
    have := Nat.testBit_two_pow_sub_succ hm j
    rw [show 2 ^ 16 - (m + 1) = 65535 - m by omega] at this
    simpa [hj] using this
  simp only [RegGroup.stored, Nat.testBit_or, Nat.testBit_and, hbit _ (maskOf_lt hg _), hbit _ hand]
  cases (g.maskOf (fun f => f.ty == .rw)).testBit j <;> simp

/-! ### The register map -/

theorem findGroup_some {a k : Nat} {g : RegGroup} {l : List RegGroup} (h : findGroup a l = some (g, k)) :
    g ∈ l ∧ g.index? a = some k := by
  induction l with
  | nil => cases h
  | cons e t ih =>
    rw [findGroup] at h
    split at h
    · cases h; exact ⟨List.mem_cons_self, ‹_›⟩
    · exact (ih h).imp_left (List.mem_cons_of_mem _)

/-- Every field of every register lies in its word. -/
theorem groupsAt_inWord (a : Nat) : (groupsAt a).all (fun g => g.fields.all (fun f => decide (f.hi ≤ 15))) = true := by
  unfold groupsAt
  split <;> rfl

theorem regAt_inWord {a k : Nat} {g : RegGroup} (h : regAt a = some (g, k)) : RegGroup.InWord g := by
  have hall := List.all_eq_true.mp (groupsAt_inWord a) g (findGroup_some h).1
  exact fun f hf => of_decide_eq_true (List.all_eq_true.mp hall f hf)

/-! ### The end of a command -/

/-- The registers that show the signals of Transmit Permit: SYN_STAT, TB_STAT and CFL_STAT. -/
def permitRegs : List Nat := [0x709005, 0x707010, 0x711006]

/-- Transmit Permit depends on the three registers that show its signals. -/
theorem permit_of_rg {s t : State} (h : ∀ a ∈ permitRegs, t.rg a = s.rg a) : t.permit = s.permit := by
  have hget : ∀ f : Fld, f.gwa ∈ permitRegs → t.get f = s.get f := fun f hf => by
    simp only [State.get, h _ hf]
  refine permit_congr ?_ (hget _ (by decide)) ?_ <;> unfold State.isOn <;> rw [hget _ (by decide)]

theorem permit_of_regs {s t : State} (h : t.regs = s.regs) : t.permit = s.permit := permit_of_rg fun a _ => rg_congr h a

/-- Nothing is left to do at the end of a command that raises nothing and leaves Transmit Permit alone. -/
theorem finish_calm {s t : State} (hs : Settled s) (hp : t.permit = s.permit) (hf : t.permitPrev = s.permitPrev)
    (hn : t.flt.now = []) : t.finish = t := by
  have hpp : t.permitPrev = t.permit := by rw [hf, hp]; exact hs.1
  rw [finish_quiet t (fun h => hpp ▸ h) hn, ← hpp]

/-- The fault that a command raises is entered at its end. -/
theorem finish_raised {s t : State} (hs : Settled s) (hp : t.permit = s.permit) (hf : t.permitPrev = s.permitPrev)
    {e : FaultEvent} (hn : t.flt.now = [e]) : t.finish = { t with flt := { t.flt.enter e with now := [] } } := by
  have hpp : t.permitPrev = t.permit := by rw [hf, hp]; exact hs.1
  have htr : t.trackPermit = t := by rw [trackPermit_quiet t (fun h => hpp ▸ h), ← hpp]
  rw [State.finish, htr, flush_eq, flush_one t e hn]

/-- What a settled state records of the one fault raised from it. -/
theorem recorded_of_now {s t : State} (hs : Settled s) (hp : t.permit = s.permit) (hf : t.permitPrev = s.permitPrev)
    {code unit arg : Nat} {m : Option Nat} (hn : t.flt = { s.flt with now := [s.faultEvent code unit arg m] }) :
    Recorded s t.finish code unit arg m := by
  rw [finish_raised hs hp hf (e := s.faultEvent code unit arg m) (by rw [hn]), Recorded, hn]
  simp only [FaultSt.enter]
  split <;> rfl

theorem settled_now {s : State} (hs : Settled s) : s.flt.now = [] := hs.2

theorem raise_flt_of_settled {s : State} (hs : Settled s) (code unit arg : Nat) (m : Option Nat) :
    (s.raise code unit arg m).flt = { s.flt with now := [s.faultEvent code unit arg m] } := by
  simp only [State.raise, settled_now hs, List.nil_append]

/-- A command that raises nothing and leaves Transmit Permit alone ends in the state that it makes. -/
theorem completes_calm {c : Instr} {s t : State} {p : State → Prop} (hs : Settled s) (hc : exec c s = done t)
    (hp : t.permit = s.permit) (hf : t.permitPrev = s.permitPrev) (hn : t.flt.now = s.flt.now) (h : p t) : Completes c s p :=
  ⟨t, by rw [hc, done_eq, finish_calm hs hp hf (hn.trans hs.2)], h⟩

/-- A command that raises one fault and leaves Transmit Permit alone records it, and changes nothing else at its end. -/
theorem completes_raised {c : Instr} {s t : State} {p : State → Prop} {code unit arg : Nat} {m : Option Nat} (hs : Settled s)
    (hc : exec c s = done t) (hp : t.permit = s.permit) (hf : t.permitPrev = s.permitPrev)
    (hn : t.flt = { s.flt with now := [s.faultEvent code unit arg m] })
    (h : ∀ f, Recorded s { t with flt := f } code unit arg m → p { t with flt := f }) : Completes c s p := by
  have hrec := recorded_of_now hs hp hf hn
  have hfin := finish_raised hs hp hf (congrArg FaultSt.now hn)
  rw [hfin] at hrec
  exact ⟨_, by rw [hc, done_eq, hfin], h _ hrec⟩

/-! ### The bus -/

/-- With no earlier write in the way an access is performed at once (R43, R44). -/
theorem ordered_of_noneWaits {s : State} {m : Nat} (h : NoneWaits s m) (a : Nat) : s.ordered m a = some s := by
  unfold State.ordered
  split
  · rw [h ‹_›]; rfl
  · rfl

theorem busWrite_of_noneWaits {s : State} {m : Nat} (h : NoneWaits s m) (a : Nat) (v : Word) :
    s.busWrite m a v = s.busPut m a v {} := by
  unfold State.busWrite
  rw [ordered_of_noneWaits h]

theorem regionOf_block {a : Nat} (h : 0x700000 ≤ a) (h' : a < 0x714000) : regionOf a = .block ((a - 0x700000) / 0x1000) := by
  unfold regionOf
  iterate 13 rw [if_neg (by omega)]
  rw [if_pos h']

theorem regionOf_channelTable {a : Nat} (h : 0x640000 ≤ a) (h' : a < 0x643000) : regionOf a = .channelTable := by
  unfold regionOf
  iterate 7 rw [if_neg (by omega)]
  rw [if_pos h']

/-- A write that the access tables allow reaches its register. -/
theorem masterWrite_register {s : State} {m a : Nat} (h : CanWrite s m a) (ha : 0x700000 ≤ a) (ha' : a < 0x714000) (v : Word) :
    s.masterWrite m a v = s.regWrite m a v.toNat {} := by
  obtain ⟨hlive, hallow, hwait⟩ := h
  rw [State.masterWrite, if_neg (by omega), busWrite_of_noneWaits hwait]
  simp [State.busPut, State.busOffer, regionOf_block ha ha', Region.target, hlive, hallow]

end Sys2Proof.Proofs
end

section
/-! What reset leaves (O3). -/

namespace Sys2Proof.Proofs

open Sys2Proof Sys2Proof.Machine Sys2Proof.Safety

/-- A list that holds only the default reads as the default everywhere. -/
theorem getD_of_forall_eq {α : Type} {l : List α} {d : α} (h : ∀ x ∈ l, x = d) (k : Nat) : l.getD k d = d := by
  by_cases hk : k < l.length
  · rw [List.getD_eq_getElem?_getD, List.getElem?_eq_getElem hk]; exact h _ (List.getElem_mem hk)
  · rw [List.getD_eq_getElem?_getD, List.getElem?_eq_none (by omega)]; rfl

theorem eng_reset (e : Fin 8) : State.reset.eng e = {} := getD_of_forall_eq (by decide) e

theorem gate_reset (n : Fin 16) : State.reset.gate n = {} := getD_of_forall_eq (by decide) n

theorem wr_default (k : Nat) : ({} : Engine).wr k = 0 :=
  getD_of_forall_eq (l := List.replicate 16 0) (fun _ => List.eq_of_mem_replicate) k

theorem ar_default (k : Nat) : ({} : Engine).ar k = 0 :=
  getD_of_forall_eq (l := List.replicate 4 0) (fun _ => List.eq_of_mem_replicate) k

theorem xr_default (k : Nat) : ({} : Engine).xr k = 0 :=
  congrArg BitVec.toNat (getD_of_forall_eq (l := List.replicate 8 0) (fun _ => List.eq_of_mem_replicate) k)

/-- Of the predicates only P0 holds. -/
theorem pr_default {k : Nat} (h : k ≠ 0) : ({} : Engine).pr k = false := by
  have h2 : 1 / 2 ^ k = 0 := Nat.div_eq_of_lt (Nat.one_lt_two_pow h)
  simp [Engine.pr, bitOf, h, h2]

/-- No gate has opened. -/
theorem allGatesLow_reset : AllGatesLow State.reset := fun n => by
  simp [State.gateBall, gate_reset]

/-- The signals of Transmit Permit are down, as last followed. -/
theorem settled_reset : Settled State.reset := ⟨by unfold PermitFollowed; decide, rfl⟩

/-- Settles O3: no register differs from its reset word, and the units stand at their default values. -/
theorem resetHolds : Obligations.ResetHolds := by
  refine ⟨⟨fun _ => ⟨rfl, rfl⟩, rfl, rfl, rfl, rfl, rfl, rfl, rfl, rfl, allGatesLow_reset, fun e => ?_⟩,
    settled_reset, ⟨by decide, by decide⟩, rfl, rfl⟩
  rw [eng_reset]
  exact ⟨fun k => ⟨wr_default k, ar_default k, xr_default k⟩, rfl, rfl, fun _ => pr_default, rfl⟩

end Sys2Proof.Proofs
end

section
/-! Reads that hold, clear or find nothing (O28). -/

namespace Sys2Proof.Proofs

open Sys2Proof Sys2Proof.Machine Sys2Proof.Safety

/-- The end of a read by the host port settles held entries of the event FIFO, and nothing else. -/
theorem evtSettle_frame (s : State) (b : Bool) : s.evtSettle b = { s with evt := (s.evtSettle b).evt } := by
  unfold State.evtSettle
  split
  · rfl
  · split <;> rfl

/-- A read of a word outside the engine's own memory, with no earlier write in the way: what the bus gives goes to `readData`. -/
theorem masterRead_cases {s : State} {m a : Nat} (h : NoneWaits s m) (ha : 0x8000 ≤ a) :
    ∃ e, s.masterRead m a = { (s.busRead m a).2 with readData := (s.busRead m a).1, evt := e } := by
  rw [State.masterRead, if_neg (by omega), ordered_of_noneWaits h]
  dsimp only
  split
  · exact ⟨_, evtSettle_frame _ _⟩
  · exact ⟨(s.busRead m a).2.evt, rfl⟩

/-- A read that the access tables allow reaches its register. -/
theorem busRead_register {s : State} {m a : Nat} (h : CanRead s m a) (ha : 0x700000 ≤ a) (ha' : a < 0x714000) :
    s.busRead m a = s.regRead m a := by
  obtain ⟨hlive, hallow, -⟩ := h
  simp [State.busRead, State.busRead?, regionOf_block ha ha', Region.target, hlive, hallow]

/-- A reserved region gives 0 (R39). -/
theorem busRead_reserved {s : State} {a : Nat} (hl : s.live = true) (ha : regionOf a = .reserved) (m : Nat) :
    s.busRead m a = (0, s.reservedHit m a) := by
  simp [State.busRead, State.busRead?, ha, Region.target, hl]

theorem busPut_reserved {s : State} {a : Nat} (hl : s.live = true) (ha : regionOf a = .reserved) (m : Nat) (v : Word) :
    s.busPut m a v {} = s.reservedHit m a := by
  simp [State.busPut, State.busOffer, ha, Region.target, hl]

theorem reserved_not_local {a : Nat} (h : regionOf a = .reserved) : 0x8000 ≤ a := by
  refine Nat.not_lt.mp fun hn => ?_
  rw [regionOf, if_pos (by omega)] at h
  cases h

/-- A read of a register with no RC field and no shadow of its own holds the words after it for its master (R37). -/
theorem regRead_holds {s : State} {m a n : Nat} (ha : a < 0x700040) (hs : s.shadowOf m a = none) (hn : heldAfter a = n + 1)
    (hc : clearedBy a = 0) : s.regRead m a = (s.liveRead a, s.holdWords m a (n + 1)) := by
  rw [State.regRead, if_neg (by omega), if_neg (by omega), if_neg (by omega)]
  simp [hs, hn, State.readClears, hc]

/-- A held word reads as it was (R37). -/
theorem regRead_held {s : State} {m a : Nat} {w : Word} (ha : a < 0x700040) (hs : s.shadowOf m a = some w) (hn : heldAfter a = 0)
    (hc : clearedBy a = 0) : s.regRead m a = (w, s) := by
  rw [State.regRead, if_neg (by omega), if_neg (by omega), if_neg (by omega)]
  simp [hs, hn, State.readClears, hc]

/-- A register without write-only bits reads as its view. -/
theorem liveRead_view (s : State) {a k : Nat} {g : RegGroup} (hr : regAt a = some (g, k)) (hm : g.readMask = 2 ^ 16 - 1) :
    s.liveRead a = s.regView a := by
  simp only [State.liveRead, hr, hm, Nat.and_two_pow_sub_one_eq_mod]
  rw [Nat.mod_eq_of_lt (s.regView a).isLt, BitVec.ofNat_toNat, BitVec.setWidth_eq]

/-- The words held by a read are its master's shadows (R37). -/
theorem shadowOf_holdWords (s : State) (m a : Nat) : (s.holdWords m a 1).shadowOf m (a + 1) = some (s.liveRead (a + 1)) := by
  have hnone : (s.shadow.filter (fun e => !(e.1 == m && a < e.2.1 && e.2.1 ≤ a + 1))).find?
      (fun e => e.1 == m && e.2.1 == a + 1) = none := by
    rw [List.find?_eq_none]
    rintro ⟨i, b, w⟩ hmem
    have := (List.mem_filter.mp hmem).2
    simp only [Bool.not_and, Bool.or_eq_true, Bool.not_eq_true', beq_eq_false_iff_ne, decide_eq_false_iff_not, Bool.and_eq_true,
      beq_iff_eq, not_and] at this ⊢
    omega
  simp only [State.shadowOf, State.holdWords]
  rw [List.find?_append, hnone]
  simp

theorem shadowOf_congr {s t : State} (h : s.shadow = t.shadow) (m a : Nat) : s.shadowOf m a = t.shadowOf m a := by
  simp only [State.shadowOf, h]

/-- R37: a read of the low word of the tick count gives it, and holds the high word. -/
theorem shadowRead_low {s : State} (hs : Settled s) {m : Master} (hm : CanRead s m 0x700010)
    (hsh : s.shadowOf m 0x700010 = none) :
    Completes (.shadowRead m 0x700010#24) s (fun t => t.readData = BitVec.ofNat 16 s.clk.tickCount ∧ t.regs = s.regs ∧
      t.shadowOf m 0x700011 = some (BitVec.ofNat 16 (s.clk.tickCount / 65536))) := by
  obtain ⟨e, he⟩ := masterRead_cases (a := 0x700010) hm.2.2 (by omega)
  rw [busRead_register hm (by omega) (by omega), regRead_holds (n := 0) (by omega) hsh rfl rfl] at he
  have hlow : s.liveRead 0x700010 = BitVec.ofNat 16 s.clk.tickCount := liveRead_view s rfl rfl
  have hhigh : s.liveRead 0x700011 = BitVec.ofNat 16 (s.clk.tickCount / 65536) := liveRead_view s rfl rfl
  refine completes_calm hs (congrArg done he) rfl rfl rfl ⟨hlow, rfl, ?_⟩
  rw [← hhigh, ← shadowOf_holdWords s m 0x700010]
  rfl

/-- R37: a read of the high word gives what was held. -/
theorem shadowRead_high {u : State} (hu : Settled u) {m : Master} (hm : CanRead u m 0x700011) {w : Word}
    (hsh : u.shadowOf m 0x700011 = some w) :
    Completes (.shadowRead m 0x700011#24) u (fun v => v.readData = w ∧ v.shadow = u.shadow) := by
  obtain ⟨e, he⟩ := masterRead_cases (a := 0x700011) hm.2.2 (by omega)
  rw [busRead_register hm (by omega) (by omega), regRead_held (by omega) hsh rfl rfl] at he
  exact completes_calm hu (congrArg done he) rfl rfl rfl ⟨rfl, rfl⟩

/-- R12: a read of the count of lost faults gives it and clears it. -/
theorem rcRead_lostCnt {s : State} (hs : Settled s) {m : Master} (hm : CanRead s m 0x712006) (ho : s.host.open_ = false)
    (hsh : s.shadowOf m 0x712006 = none) (hlt : s.flt.lostCnt < 65536) :
    Completes (.rcRead m 0x712006#24) s (fun t =>
      t.readData = BitVec.ofNat 16 s.flt.lostCnt ∧ t.flt.lostCnt = 0 ∧ t.regs = s.regs) := by
  obtain ⟨e, he⟩ := masterRead_cases (a := 0x712006) hm.2.2 (by omega)
  have hlive : s.liveRead 0x712006 = BitVec.ofNat 16 s.flt.lostCnt := liveRead_view s rfl rfl
  have hread : s.regRead m 0x712006 = (BitVec.ofNat 16 s.flt.lostCnt, { s with flt := { s.flt with lostCnt := 0 } }) := by
    have hc : clearedBy 0x712006 = 65535 := rfl
    have hn : heldAfter 0x712006 = 0 := rfl
    have hz : s.flt.lostCnt - s.flt.lostCnt % 65536 = 0 := by omega
    rw [State.regRead, if_neg (by omega), if_neg (by omega), if_neg (by omega)]
    simp [hsh, hn, hlive, State.readClears, hc, ho, State.rcReduce, hz]
  rw [busRead_register hm (by omega) (by omega), hread] at he
  exact completes_calm hs (congrArg done he) rfl rfl rfl ⟨rfl, rfl, rfl⟩

/-- R39: a read of a reserved region gives 0, with fault 0x1101. -/
theorem reservedRead {s : State} (hs : Settled s) {m : Master} {a : Gwa} (ha : regionOf a.toNat = .reserved) (hl : s.live = true)
    (hw : NoneWaits s m) :
    Completes (.reservedAccess m a none) s (fun t => t.readData = 0 ∧ t.regs = s.regs ∧ t.mem = s.mem ∧
      Recorded s t 0x1101 0xFF a.toNat (some m.val)) := by
  obtain ⟨e, he⟩ := masterRead_cases (a := a.toNat) hw (reserved_not_local ha)
  rw [busRead_reserved hl ha] at he
  exact completes_raised hs (congrArg done he) rfl rfl (raise_flt_of_settled hs ..) fun _ h => ⟨rfl, rfl, rfl, h⟩

/-- R39: a write to a reserved region is dropped, with fault 0x1101. -/
theorem reservedWrite {s : State} (hs : Settled s) {m : Master} {a : Gwa} (ha : regionOf a.toNat = .reserved) (hl : s.live = true)
    (hw : NoneWaits s m) (v : Word) :
    Completes (.reservedAccess m a (some v)) s (fun t => t.readData = s.readData ∧ t.regs = s.regs ∧ t.mem = s.mem ∧
      Recorded s t 0x1101 0xFF a.toNat (some m.val)) := by
  have hput : s.masterWrite m a.toNat v = s.reservedHit m a.toNat := by
    have := reserved_not_local ha
    rw [State.masterWrite, if_neg (by omega), busWrite_of_noneWaits hw, busPut_reserved hl ha]
  exact completes_raised hs (congrArg done hput) rfl rfl (raise_flt_of_settled hs ..) fun _ h => ⟨rfl, rfl, rfl, h⟩

/-- Settles O28: each kind of read is its own rule above; the held word is read back from the state that the first read left. -/
theorem reads : Obligations.Reads := by
  intro s m hs
  refine ⟨fun hm hsh => ?_, fun hm ho hsh hlt => rcRead_lostCnt hs hm ho hsh hlt,
    fun a ha hl hw => ⟨reservedRead hs ha hl hw, reservedWrite hs ha hl hw⟩⟩
  obtain ⟨t, ht, hdata, hregs, hheld⟩ := shadowRead_low hs hm hsh
  exact ⟨t, ht, hdata, hregs, fun u hu hsame hmu => shadowRead_high hu hmu ((shadowOf_congr hsame m _).trans hheld)⟩

end Sys2Proof.Proofs
end

section
/-! Register writes accepted and rejected (O25). -/

namespace Sys2Proof.Proofs

open Sys2Proof Sys2Proof.Machine Sys2Proof.Safety

/-- The pages of the blocks LO, TP, WEIR and HP, whose registers only configure. -/
def OnlyConfigures (a : Nat) : Prop := a / 0x1000 = 0x703 ∨ a / 0x1000 = 0x708 ∨ a / 0x1000 = 0x70C ∨ a / 0x1000 = 0x70F

theorem lockedEntry_of_config {a : Nat} (h : OnlyConfigures a) (s : State) : s.lockedEntry a = none := by
  have h' : ¬(0x70E081 ≤ a ∧ a ≤ 0x70E1C0) := by rcases h with h | h | h | h <;> omega
  simp only [State.lockedEntry]
  exact if_neg fun hc => h' ⟨hc.1, hc.2.1⟩

theorem droppedWrite_of_config {a : Nat} (h : OnlyConfigures a) (s : State) : s.droppedWrite a = false := by
  rcases h with h | h | h | h <;> simp only [State.droppedWrite, h]

theorem ownerStopped_of_config {a : Nat} (h : OnlyConfigures a) (s : State) (v : Nat) : s.ownerStopped a v = true := by
  rcases h with h | h | h | h <;> simp only [State.ownerStopped, h]

theorem writeEffect_of_config {a : Nat} (h : OnlyConfigures a) (s : State) (m v old : Nat) (x : WriteExt) :
    s.writeEffect m a v old x = s := by
  rcases h with h | h | h | h <;> simp only [State.writeEffect, h]

theorem store_of_regAt (s : State) {a k : Nat} {g : RegGroup} (hr : regAt a = some (g, k)) (v : Nat) :
    s.store a v = s.setRg a (BitVec.ofNat 16 (g.stored (s.rg a).toNat v)) := by
  simp only [State.store, hr]

/-- Of these registers an accepted write stores its word and does nothing else. -/
theorem regTake_of_config {s : State} {a k : Nat} {g : RegGroup} (h : OnlyConfigures a) (h1 : a % 0x1000 ≠ 1)
    (hr : regAt a = some (g, k)) (m v : Nat) (x : WriteExt) :
    s.regTake m a v x = s.setRg a (BitVec.ofNat 16 (g.stored (s.rg a).toNat v)) := by
  have hpage : a / 0x1000 ≠ 0x701 ∧ a / 0x1000 ≠ 0x704 ∧ a / 0x1000 ≠ 0x706 ∧ a / 0x1000 ≠ 0x707 ∧ a / 0x1000 ≠ 0x709 ∧
      a / 0x1000 ≠ 0x70E ∧ a / 0x1000 ≠ 0x710 ∧ a / 0x1000 ≠ 0x711 := by rcases h with h | h | h | h <;> omega
  have hc : isCommit a = false := by simp [isCommit, h1]
  have hd : ∀ old, s.dfeStoreView a old v = v := fun old => by
    rw [State.dfeStoreView, if_neg (by omega), if_neg (by omega)]
  rw [State.regTake, hc, if_neg Bool.false_ne_true]
  iterate 8 rw [if_neg (by omega)]
  simp only [writeEffect_of_config h, hd, store_of_regAt s hr]

/-- Past the access tables, a write that its register accepts is taken (R11 to R17). -/
theorem regWrite_accepted {s : State} {a k : Nat} {g : RegGroup} (h : OnlyConfigures a) (h1 : a % 0x1000 ≠ 1)
    (hr : regAt a = some (g, k)) {v : Nat} (hw : g.writable = true) (hacc : g.accepts v = true) (hagr : s.agrees a v = true)
    (m : Nat) (x : WriteExt) :
    s.regWrite m a v x = s.setRg a (BitVec.ofNat 16 (g.stored (s.rg a).toNat v)) := by
  have hsem : ¬(0x700040 ≤ a ∧ a < 0x700060) := by rcases h with h | h | h | h <;> omega
  rw [State.regWrite, if_neg hsem]
  simp [hr, lockedEntry_of_config h, droppedWrite_of_config h, ownerStopped_of_config h, hw, hacc, hagr, regTake_of_config h h1 hr]

/-- Past the access tables, a write that holds a value its register does not accept is rejected (R17). -/
theorem regWrite_rejected {s : State} {a k : Nat} {g : RegGroup} (ha : 0x700060 ≤ a) (hr : regAt a = some (g, k))
    (hl : s.lockedEntry a = none) {v : Nat} (hw : g.writable = true) (hd : s.droppedWrite a = false) (hacc : g.accepts v = false)
    (m : Nat) (x : WriteExt) : s.regWrite m a v x = s.reject a := by
  rw [State.regWrite, if_neg (by omega)]
  simp [hr, hl, hd, hw, hacc]

/-! ### What is left -/

theorem onlyRegs_setRg (s : State) (a : Nat) (w : Word) : OnlyRegs s (s.setRg a w) [a] :=
  ⟨rfl, fun b hb => rg_setRg_ne s w (by simpa using hb)⟩

theorem onlyRegs_put (s : State) (f : Fld) (v : Nat) : OnlyRegs s (s.put f v) [f.gwa] := onlyRegs_setRg ..

theorem onlyRegs_trans {s t u : State} {l : List Nat} (h : OnlyRegs s t l) (h' : OnlyRegs t u l) : OnlyRegs s u l := by
  refine ⟨?_, fun a ha => (h'.2 a ha).trans (h.2 a ha)⟩
  rw [h'.1, h.1]

theorem permit_of_onlyRegs {s t : State} {l : List Nat} (h : OnlyRegs s t l) (hl : ∀ a ∈ permitRegs, a ∉ l) :
    t.permit = s.permit :=
  permit_of_rg fun a ha => h.2 a (hl a ha)

/-- A command that changes registers alone, not those of Transmit Permit, ends in the state that it makes. -/
theorem completes_onlyRegs {c : Instr} {s t : State} {p : State → Prop} {l : List Nat} (hs : Settled s) (hc : exec c s = done t)
    (h : OnlyRegs s t l) (hl : ∀ a ∈ permitRegs, a ∉ l) (hp : p t) : Completes c s p := by
  refine completes_calm hs hc (permit_of_onlyRegs h hl) ?_ ?_ hp <;> rw [h.1]

/-- Two fields set in one register of a block. -/
theorem put_put_shown (s : State) (b x : Nat) :
    let t := (s.put ⟨b, 15, 15⟩ 1).put ⟨b, 11, 0⟩ x
    OnlyRegs s t [b] ∧ t.get ⟨b, 15, 15⟩ = 1 ∧ t.get ⟨b, 11, 0⟩ = x % 2 ^ 12 := by
  refine ⟨onlyRegs_trans (onlyRegs_put ..) (onlyRegs_put ..), ?_, get_put_at _ _ _ _ _ (by omega) (by omega)⟩
  exact (get_put_off _ _ _ _ _ _ _ _ (by omega) (by omega) (by omega)).trans (get_put_at _ _ _ _ _ (by omega) (by omega))

/-- A rejection sets the flag and the offset of the register's block (R17). -/
theorem rejected_reject (s : State) (a : Nat) : Rejected s (s.reject a) a := by
  obtain ⟨honly, hflag, hofs⟩ := put_put_shown s (a / 0x1000 * 0x1000 + 2) (a % 0x1000)
  exact ⟨honly, hflag, hofs.trans (Nat.mod_mod ..)⟩

/-- The bits of the word that an accepted write leaves. -/
theorem getLsbD_stored {g : RegGroup} (hg : RegGroup.InWord g) (old : Word) {v : Nat} (hv : v < 2 ^ 16) (j : Nat) :
    (BitVec.ofNat 16 (g.stored old.toNat v)).getLsbD j =
      if (g.maskOf (fun f => f.ty == .rw)).testBit j then v.testBit j
      else (old.getLsbD j && !((g.maskOf (fun f => f.ty == .w1c)).testBit j && v.testBit j)) := by
  by_cases hj : j < 16
  · simp only [BitVec.getLsbD, BitVec.toNat_ofNat, Nat.testBit_mod_two_pow, hj, decide_true, Bool.true_and]
    exact testBit_stored hg _ _ _ hv hj
  · have hvj : v.testBit j = false := Nat.testBit_lt_two_pow (Nat.lt_of_lt_of_le hv (Nat.pow_le_pow_right (by omega) (by omega)))
    simp [BitVec.getLsbD_of_ge _ j (by omega : 16 ≤ j), hvj]

/-- A register write that is accepted, in a block whose registers only configure. -/
theorem acceptedWrite {s : State} {m : Master} {a : Gwa} {v : Word} {g : RegGroup} {k : Nat}
    (hc : CanWrite s m a.toNat) (hpage : OnlyConfigures a.toNat) (h1 : a.toNat % 0x1000 ≠ 1) (hr : regAt a.toNat = some (g, k))
    (hw : g.writable = true) (hacc : g.accepts v.toNat = true) (hagr : s.agrees a.toNat v.toNat = true) :
    exec (.registerWrite m a v) s =
      done (s.setRg a.toNat (BitVec.ofNat 16 (g.stored (s.rg a.toNat).toNat v.toNat))) := by
  have hrange : 0x700000 ≤ a.toNat ∧ a.toNat < 0x714000 := by rcases hpage with h | h | h | h <;> omega
  exact congrArg done ((masterWrite_register hc hrange.1 hrange.2 v).trans (regWrite_accepted hpage h1 hr hw hacc hagr _ _))

/-- A register write that holds a value its register does not accept. -/
theorem rejectedWrite {s : State} {m : Master} {a : Gwa} {v : Word} {g : RegGroup} {k : Nat}
    (hc : CanWrite s m a.toNat) (ha : 0x700060 ≤ a.toNat) (ha' : a.toNat < 0x714000) (hr : regAt a.toNat = some (g, k))
    (hl : s.lockedEntry a.toNat = none) (hw : g.writable = true) (hd : s.droppedWrite a.toNat = false)
    (hacc : g.accepts v.toNat = false) : exec (.registerWrite m a v) s = done (s.reject a.toNat) :=
  congrArg done ((masterWrite_register hc (by omega) ha' v).trans (regWrite_rejected ha hr hl hw hd hacc _ _))

/-- Settles O25: what is stored is told bit by bit by `getLsbD_stored`, what is rejected by `rejected_reject`. -/
theorem registerWrites : Obligations.RegisterWrites := by
  refine ⟨fun s m a v g k hs hc hpage h1 hr hw hacc hagr => ?_, fun s m a v g k hs hc ha ha' hr hl hw hd hacc => ?_⟩
  · have hpage : OnlyConfigures a.toNat := by simpa [OnlyConfigures] using hpage
    have hapart : ∀ b ∈ permitRegs, b ∉ [a.toNat] := by
      intro b hb hba
      rw [List.mem_singleton.mp hba] at hb
      rcases hpage with h | h | h | h <;> simp [permitRegs] at hb <;> omega
    refine completes_onlyRegs hs (acceptedWrite hc hpage h1 hr hw hacc hagr) (onlyRegs_setRg s _ _) hapart
      ⟨onlyRegs_setRg s _ _, ?_⟩
    simp only [rg_setRg_self, getLsbD_stored (regAt_inWord hr) _ v.isLt]
    refine ⟨fun f hf hrw j hlo hhi => if_pos ?_, fun j hrw ⟨f, hf, hty, hlo, hhi⟩ => ?_, fun j hno => ?_⟩
    · exact (testBit_maskOf ..).mpr ⟨f, hf, by simp [hrw], hlo, hhi⟩
    · have hrw : (g.maskOf (fun f => f.ty == .rw)).testBit j = false :=
        testBit_maskOf_false fun f hf h => hrw f hf (beq_iff_eq.mp h)
      have hw1c : (g.maskOf (fun f => f.ty == .w1c)).testBit j = true :=
        (testBit_maskOf ..).mpr ⟨f, hf, by simp [hty], hlo, hhi⟩
      simp [hrw, hw1c, BitVec.getLsbD]
    · have hrw : (g.maskOf (fun f => f.ty == .rw)).testBit j = false :=
        testBit_maskOf_false fun f hf h => hno f hf (.inl (beq_iff_eq.mp h))
      have hw1c : (g.maskOf (fun f => f.ty == .w1c)).testBit j = false :=
        testBit_maskOf_false fun f hf h => hno f hf (.inr (beq_iff_eq.mp h))
      simp [hrw, hw1c]
  · refine completes_onlyRegs hs (rejectedWrite hc ha ha' hr hl hw hd hacc) (rejected_reject s _).1 ?_ (rejected_reject s _)
    intro b hb hbase
    rw [List.mem_singleton] at hbase
    simp [permitRegs] at hb
    omega

end Sys2Proof.Proofs
end

section
/-! Descriptor writes (O34). -/

namespace Sys2Proof.Proofs

open Sys2Proof Sys2Proof.Machine Sys2Proof.Safety

/-! ### Values of several words (R10) -/

theorem rg_setWords_off (s : State) (a n v b : Nat) (h : b < a ∨ a + n ≤ b) : (s.setWords a n v).rg b = s.rg b := by
  induction n generalizing s a v with
  | zero => rfl
  | succ n ih => rw [State.setWords, ih _ _ _ (by omega), rg_setRg_ne _ _ (by omega)]

theorem setWords_frame (s : State) (a n v : Nat) : s.setWords a n v = { s with regs := (s.setWords a n v).regs } := by
  induction n generalizing s a v with
  | zero => rfl
  | succ n ih => rw [State.setWords, ih]; rfl

theorem onlyRegs_setWords (s : State) (a n v : Nat) : OnlyRegs s (s.setWords a n v) (List.range' a n) :=
  ⟨setWords_frame .., fun b hb => rg_setWords_off _ _ _ _ _ (by rw [List.mem_range'_1] at hb; omega)⟩

/-- A value written over several registers reads back. -/
theorem wordsValue_setWords (s : State) (a n v : Nat) : wordsValue (s.setWords a n v).rg a n = v % 65536 ^ n := by
  induction n generalizing s a v with
  | zero => simp [wordsValue, Nat.mod_one]
  | succ n ih =>
    rw [wordsValue, State.setWords, ih, rg_setWords_off _ _ _ _ _ (by omega), rg_setRg_self, BitVec.toNat_ofNat]
    exact (show v % 65536 ^ (n + 1) = _ by rw [Nat.pow_succ', Nat.mod_mul]).symm

/-! ### The Channel Table's map (R147) -/

theorem groups640_places : ∀ g ∈ groups640, (g.stride = 64 ∧ g.per = 192 ∧ g.big = 16777216) ∧ 0x640000 ≤ g.base ∧ g.base < 0x640040 := by
  decide

theorem groupsAt_desc {c w : Nat} (hc : c < 192) (hw : w < 64) : groupsAt (0x640000 + c * 64 + w) = groups640 := by
  have h : (0x640000 + c * 64 + w) / 0x1000 = 0x640 ∨ (0x640000 + c * 64 + w) / 0x1000 = 0x641 ∨
      (0x640000 + c * 64 + w) / 0x1000 = 0x642 := by omega
  rcases h with h | h | h <;> simp only [groupsAt, h]

/-- Every descriptor holds word `w` in the group that stands at word `w` of the first. -/
theorem regAt_desc {c w k : Nat} {g : RegGroup} (hc : c < 192) (hw : w < 64) (h : regAt (0x640000 + c * 64 + w) = some (g, k)) :
    g ∈ groups640 ∧ g.base = 0x640000 + w := by
  obtain ⟨hmem, hidx⟩ := findGroup_some h
  rw [groupsAt_desc hc hw] at hmem
  obtain ⟨⟨hs, hp, hb⟩, hlo, hhi⟩ := groups640_places g hmem
  refine ⟨hmem, ?_⟩
  simp only [RegGroup.index?, hs, hp, hb] at hidx
  split at hidx
  · cases hidx
  · split at hidx
    · omega
    · cases hidx

/-- The rates are T-class: a channel that runs takes them. -/
theorem changesStopped_rate {g : RegGroup} (hg : g ∈ groups640) (hb : 0x640022 ≤ g.base ∧ g.base ≤ 0x640027) (old v : Nat) :
    g.changesStopped old v = false := by
  have hm : ∀ g ∈ groups640, 0x640022 ≤ g.base ∧ g.base ≤ 0x640027 → g.maskOf (fun f => f.ty == .rw && f.cls == .stopped) = 0 := by
    decide
  simp [RegGroup.changesStopped, hm g hg hb]

/-- No write changes the word that shows a channel's state. -/
theorem stateWord_readOnly {g : RegGroup} (hg : g ∈ groups640) (hb : g.base = 0x640038) :
    g.maskOf (fun f => f.ty == .rw) = 0 ∧ g.maskOf (fun f => f.ty == .w1c) = 0 := by
  have hm : ∀ g ∈ groups640, g.base = 0x640038 → g.maskOf (fun f => f.ty == .rw) = 0 ∧ g.maskOf (fun f => f.ty == .w1c) = 0 := by
    decide
  exact hm g hg hb

theorem stored_readOnly {g : RegGroup} (hg : RegGroup.InWord g)
    (hm : g.maskOf (fun f => f.ty == .rw) = 0 ∧ g.maskOf (fun f => f.ty == .w1c) = 0) (old : Word) {v : Nat} (hv : v < 2 ^ 16) :
    BitVec.ofNat 16 (g.stored old.toNat v) = old :=
  BitVec.eq_of_getLsbD_eq fun j _ => by simp [getLsbD_stored hg old hv, hm]

/-- Only words of the code generator have reserved bits (R166). -/
theorem genMask_whole (s : State) (c : Nat) {w : Nat} (hw : w = 0 ∨ 0x10 ≤ w) : s.genMask c w = 0xFFFF := by
  unfold State.genMask
  split
  · rw [if_neg (by omega), if_neg (by omega)]
  · rw [if_neg (by omega), if_neg (by omega)]
  · rw [if_neg (by omega), if_neg (by omega)]

theorem and_genMask_whole (s : State) (c : Nat) {w : Nat} (hw : w = 0 ∨ 0x10 ≤ w) (v : Word) :
    v.toNat &&& s.genMask c w = v.toNat := by
  rw [genMask_whole s c hw]; exact Nat.and_two_pow_sub_one_of_lt_two_pow v.isLt

/-! ### What a descriptor write does -/

theorem exec_descWrite {s : State} {m : Master} (hl : s.live = true) (ha : s.allowed m 35 .write = true) (hn : NoneWaits s m)
    (c : Fin 192) (w : Fin 64) (v : Word) : exec (.descWrite m c w v) s = done (s.descStore c w v.toNat) := by
  have hc : (0x640000 + c.val * 64 + w.val - 0x640000) / 0x40 = c := by omega
  have hw : (0x640000 + c.val * 64 + w.val) % 0x40 = w := by omega
  refine congrArg done ((busWrite_of_noneWaits hn _ v).trans ?_)
  simp [State.busPut, State.busOffer, regionOf_channelTable (show 0x640000 ≤ 0x640000 + c.val * 64 + w.val by omega) (by omega),
    Region.target, hl, ha, hc, hw]

/-- What R146 says of a rejected descriptor write. -/
abbrev DescRejected (s t : State) (c : Fin 192) (w : Fin 64) : Prop :=
  OnlyRegs s t [0x705003] ∧ t.isOn R.CH_DESC_REJ_REJ = true ∧ t.get R.CH_DESC_REJ_CHAN = c ∧ t.get R.CH_DESC_REJ_WORD = w

theorem descReject_shown (s : State) (c : Fin 192) (w : Fin 64) : DescRejected s (s.descReject c w) c w := by
  refine ⟨onlyRegs_trans (onlyRegs_trans (onlyRegs_put ..) (onlyRegs_put ..)) (onlyRegs_put ..), ?_, ?_, ?_⟩
  · rw [State.descReject, isOn_put_apart _ _ _ _ (by decide) (by decide), isOn_put_apart _ _ _ _ (by decide) (by decide),
      isOn_putB_self _ _ _ (by decide)]
  · rw [State.descReject, get_put_apart _ _ _ _ (by decide) (by decide), get_put_self _ _ _ (by decide)]
    exact Nat.mod_eq_of_lt (Nat.lt_trans c.isLt (by decide))
  · rw [State.descReject, get_put_self _ _ _ (by decide)]
    exact Nat.mod_eq_of_lt w.isLt

theorem chHalted_iff (s : State) (c : Nat) : s.chHalted c = true ↔ s.chState c = 0 ∨ s.chState c = 5 := by
  simp [State.chHalted]

section
variable {s : State} {c w k : Nat} {g : RegGroup} {v : Nat}

theorem descStore_none (hr : regAt (0x640000 + c * 64 + w) = none) : s.descStore c w v = s := by
  simp only [State.descStore, hr]

variable (hr : regAt (0x640000 + c * 64 + w) = some (g, k))
include hr

/-- An S-class field of a channel that runs takes no change (R13, R146). -/
theorem descStore_barred (h : ¬(s.chState c = 0 ∨ s.chState c = 5 ∨
    g.changesStopped (s.rg (0x640000 + c * 64 + w)).toNat (v &&& s.genMask c w) = false)) :
    s.descStore c w v = s.descReject c w := by
  obtain ⟨h0, h5, hb⟩ : s.chState c ≠ 0 ∧ s.chState c ≠ 5 ∧
      g.changesStopped (s.rg (0x640000 + c * 64 + w)).toNat (v &&& s.genMask c w) = true := by
    simpa only [not_or, Bool.not_eq_false] using h
  have hh : s.chHalted c = false := by
    rw [Bool.eq_false_iff, ne_eq, chHalted_iff]
    exact not_or.mpr ⟨h0, h5⟩
  simp [State.descStore, hr, hh, hb]

/-- An even channel is no follower (R148). -/
theorem descStore_evenPair (hw : w = 0) (hc : c % 2 = 0) (hv : bitOf (v &&& s.genMask c w) 4 = true) :
    s.descStore c w v = s.descReject c w := by
  subst hw
  simp only [State.descStore, hr, hc, hv]
  split <;> rfl

variable (hfree : s.chState c = 0 ∨ s.chState c = 5 ∨
  g.changesStopped (s.rg (0x640000 + c * 64 + w)).toNat (v &&& s.genMask c w) = false)
include hfree

omit hr in
theorem not_barred :
    (!s.chHalted c && g.changesStopped (s.rg (0x640000 + c * 64 + w)).toNat (v &&& s.genMask c w)) = false := by
  rcases hfree with h | h | h
  · simp [(chHalted_iff s c).mpr (.inl h)]
  · simp [(chHalted_iff s c).mpr (.inr h)]
  · simp [h]

/-- The lower words of a rate wait in the latch (R146). -/
theorem descStore_latched (hw : w = 0x22 ∨ w = 0x23 ∨ w = 0x25 ∨ w = 0x26) :
    s.descStore c w v =
      { s with latch := wmPut 0 (0x640000 + c * 64 + w) (BitVec.ofNat 16 (v &&& s.genMask c w)) s.latch } := by
  have h0 : w ≠ 0 := by omega
  simp [State.descStore, hr, not_barred hfree, h0, hw]

/-- The most significant word of a rate moves the whole of it (R146). -/
theorem descStore_rate (hw : w = 0x24 ∨ w = 0x27) : s.descStore c w v = s.rateWrite c w (v &&& s.genMask c w) := by
  have h0 : w ≠ 0 ∧ ¬(w = 0x22 ∨ w = 0x23 ∨ w = 0x25 ∨ w = 0x26) := by omega
  simp [State.descStore, hr, not_barred hfree, h0, hw]

variable (hw : w ∉ [0x22, 0x23, 0x24, 0x25, 0x26, 0x27])
  (hpair : ¬(w = 0 ∧ c % 2 = 0 ∧ bitOf (v &&& s.genMask c w) 4 = true))
include hw hpair

theorem descStore_unaccepted (hacc : g.accepts (v &&& s.genMask c w) = false) : s.descStore c w v = s.descReject c w := by
  simp only [List.mem_cons, List.not_mem_nil, or_false, not_or] at hw
  simp only [State.descStore, hr, not_barred hfree, hpair, hw, hacc]
  rfl

/-- Any other word is stored; that a write of FRAME_OFS is noted too (R172) concerns neither registers nor faults. -/
theorem descStore_accepted (hacc : g.accepts (v &&& s.genMask c w) = true) :
    (s.descStore c w v).regs = (s.setRg (0x640000 + c * 64 + w)
      (BitVec.ofNat 16 (g.stored (s.rg (0x640000 + c * 64 + w)).toNat (v &&& s.genMask c w)))).regs ∧
    (s.descStore c w v).flt = s.flt ∧ (s.descStore c w v).permitPrev = s.permitPrev := by
  simp only [List.mem_cons, List.not_mem_nil, or_false, not_or] at hw
  simp only [State.descStore, hr, not_barred hfree, hpair, hw, hacc]
  by_cases h : w = 0x32
  · simp [h]
  · simp [h]

end

/-! ### Descriptor writes as commands -/

/-- The registers of Transmit Permit stand in the register blocks. -/
theorem le_of_mem_permitRegs : ∀ a ∈ permitRegs, 0x700000 ≤ a := by decide

section
variable {s : State} (hs : Settled s) {cmd : Instr} {c : Fin 192} {w : Fin 64}
include hs

theorem completes_descReject (h : exec cmd s = done (s.descReject c w)) :
    Completes cmd s (fun t => DescRejected s t c w) :=
  completes_onlyRegs hs h (descReject_shown s c w).1 (by decide) (descReject_shown s c w)

theorem completes_latched {a : Nat} {v : Word} (h : exec cmd s = done { s with latch := wmPut 0 a v s.latch }) :
    Completes cmd s (fun t => t = { s with latch := t.latch } ∧ wmGet 0 t.latch a = v) :=
  completes_calm hs h (permit_of_regs rfl) rfl rfl ⟨rfl, by simp [wmGet_wmPut]⟩

/-- A rate moves whole into its three words. -/
theorem completes_rate {a x : Nat} (ha : 2 ≤ a ∧ a < 0x650000) (hx : x < 2 ^ 48) (h : exec cmd s = done (s.setWords (a - 2) 3 x)) :
    Completes cmd s (fun t => OnlyRegs s t [a - 2, a - 1, a] ∧ wordsValue t.rg (a - 2) 3 = x) := by
  have hwords : List.range' (a - 2) 3 = [a - 2, a - 1, a] := by
    simp only [List.range'_succ, List.range'_zero]
    rw [show a - 2 + 1 = a - 1 by omega, show a - 1 + 1 = a by omega]
  have honly : OnlyRegs s (s.setWords (a - 2) 3 x) [a - 2, a - 1, a] := hwords ▸ onlyRegs_setWords s (a - 2) 3 x
  refine completes_onlyRegs hs h honly (fun b hb => ?_) ⟨honly, ?_⟩
  · have := le_of_mem_permitRegs b hb
    simp only [List.mem_cons, List.not_mem_nil, or_false]
    omega
  · rw [wordsValue_setWords]
    exact Nat.mod_eq_of_lt hx

/-- A word of a descriptor that is stored: its RW bits take what was written, and no channel's state moves. -/
theorem completes_descStored {k v : Nat} {g : RegGroup} (hr : regAt (0x640000 + c * 64 + w) = some (g, k)) (hv : v < 2 ^ 16)
    {t : State} (h : exec cmd s = done t)
    (hregs : t.regs = (s.setRg (0x640000 + c * 64 + w)
      (BitVec.ofNat 16 (g.stored (s.rg (0x640000 + c * 64 + w)).toNat v))).regs)
    (hflt : t.flt = s.flt) (hpp : t.permitPrev = s.permitPrev) :
    Completes cmd s (fun t => RegsKept s t [0x640000 + c.val * 64 + w.val] ∧ t.flt = s.flt ∧
      (∀ d : Fin 192, t.chState d = s.chState d) ∧
      ∀ f ∈ g.fields, f.ty = .rw → ∀ j, f.lo ≤ j → j ≤ f.hi →
        (t.rg (0x640000 + c.val * 64 + w.val)).getLsbD j = v.testBit j) := by
  have hkept : RegsKept s t [0x640000 + c.val * 64 + w.val] := fun b hb => by
    rw [rg_congr hregs, rg_setRg_ne _ _ (by simpa using hb)]
  obtain ⟨hmem, hbase⟩ := regAt_desc c.isLt w.isLt hr
  refine completes_calm hs h (permit_of_rg fun b hb => hkept b ?_) hpp (by rw [hflt]) ⟨hkept, hflt, fun d => ?_, ?_⟩
  · have := le_of_mem_permitRegs b hb
    simp only [List.mem_singleton]
    omega
  · rw [State.chState, get_congr hregs]
    by_cases hd : (R.CH_STATE d).gwa = 0x640000 + c * 64 + w
    · have hw : w.val = 0x38 := by simp only [R.CH_STATE] at hd; omega
      rw [stored_readOnly (regAt_inWord hr) (stateWord_readOnly hmem (by rw [hbase, hw])) _ hv, ← hd]
      simp only [State.chState, State.get, rg_setRg_self]
    · rw [get_setRg_ne _ _ _ _ hd]; rfl
  · intro f hf hrw j hlo hhi
    rw [rg_congr hregs, rg_setRg_self, getLsbD_stored (regAt_inWord hr) _ hv]
    exact if_pos ((testBit_maskOf ..).mpr ⟨f, hf, by simp [hrw], hlo, hhi⟩)

end

/-! ### The rates (R144 to R146) -/

/-- The value that the last word of a rate completes. -/
def latchedRate (s : State) (a : Nat) (v : Word) : Nat :=
  (wmGet 0 s.latch (a - 2)).toNat + 65536 * (wmGet 0 s.latch (a - 1)).toNat + 2 ^ 32 * v.toNat

theorem latchedRate_lt (s : State) (a : Nat) (v : Word) : latchedRate s a v < 2 ^ 48 := by
  have h0 := (wmGet 0 s.latch (a - 2)).isLt
  have h1 := (wmGet 0 s.latch (a - 1)).isLt
  have h2 := v.isLt
  simp only [latchedRate]
  omega

theorem rateWrite_code (s : State) (c : Nat) {w : Nat} (hw : w = 0x24) (v : Word) :
    s.rateWrite c w v.toNat = if latchedRate s (0x640000 + c * 64 + w) v ≤ 0x400000000000 then
      s.setWords (0x640000 + c * 64 + w - 2) 3 (latchedRate s (0x640000 + c * 64 + w) v) else s.descReject c w := by
  simp [State.rateWrite, latchedRate, hw]

theorem rateWrite_carr (s : State) (c : Nat) {w : Nat} (hw : w = 0x27) (v : Word) :
    s.rateWrite c w v.toNat = if (signedOf 48 (latchedRate s (0x640000 + c * 64 + w) v)).natAbs ≤ 0x600000000000 then
      s.setWords (0x640000 + c * 64 + w - 2) 3 (latchedRate s (0x640000 + c * 64 + w) v) else s.descReject c w := by
  simp [State.rateWrite, latchedRate, hw]

/-- The last word of a rate moves the whole value, or is rejected (R144 to R146). -/
theorem completes_rateWrite {s : State} (hs : Settled s) {cmd : Instr} {c : Fin 192} {w : Fin 64} {a x : Nat} {ok : Prop}
    [Decidable ok] (ha : 2 ≤ a ∧ a < 0x650000) (hx : x < 2 ^ 48) {r : Wide} (hr : r = ⟨a - 2, 3⟩)
    (h : exec cmd s = done (if ok then s.setWords (a - 2) 3 x else s.descReject c w)) :
    (¬ok → Completes cmd s (fun t => DescRejected s t c w)) ∧
    (ok → Completes cmd s (fun t => OnlyRegs s t [a - 2, a - 1, a] ∧ t.getW r = x)) := by
  subst hr
  exact ⟨fun hn => completes_descReject hs (by rw [h, if_neg hn]), fun hok => completes_rate hs ha hx (by rw [h, if_pos hok])⟩

section
variable {s : State} {c : Fin 192} {w : Fin 64} {g : RegGroup} {k : Nat} (hr : regAt (0x640000 + c.val * 64 + w.val) = some (g, k))
include hr

theorem free_of_rate (hw : 0x22 ≤ w.val ∧ w.val ≤ 0x27) (old u : Nat) : g.changesStopped old u = false := by
  obtain ⟨hmem, hbase⟩ := regAt_desc c.isLt w.isLt hr
  exact changesStopped_rate hmem (by omega) _ _

theorem descStore_latched_whole (hw : w.val ∈ [0x22, 0x23, 0x25, 0x26]) (v : Word) :
    s.descStore c w v.toNat = { s with latch := wmPut 0 (0x640000 + c * 64 + w) v s.latch } := by
  simp only [List.mem_cons, List.not_mem_nil, or_false] at hw
  rw [descStore_latched hr (.inr (.inr (free_of_rate hr (by omega) _ _))) hw, and_genMask_whole s c (by omega),
    BitVec.ofNat_toNat, BitVec.setWidth_eq]

theorem descStore_rate_whole (hw : w.val = 0x24 ∨ w.val = 0x27) (v : Word) :
    s.descStore c w v.toNat = s.rateWrite c w v.toNat := by
  rw [descStore_rate hr (.inr (.inr (free_of_rate hr (by omega) _ _))) hw, and_genMask_whole s c (by omega)]

end

/-- What a write of word `w` of the descriptor of channel `c` answers, whose register has the fields of `g`. -/
theorem descWrites {s : State} (hs : Settled s) {m : Master} (hl : s.live = true) (ha : s.allowed m 35 .write = true)
    (hn : NoneWaits s m) (c : Fin 192) (w : Fin 64) (v : Word) {g : RegGroup} {k : Nat}
    (hr : regAt (0x640000 + c.val * 64 + w.val) = some (g, k)) :
    let a := 0x640000 + c.val * 64 + w.val
    let write := Completes (.descWrite m c w v) s
    let rejected (t : State) := DescRejected s t c w
    let x := latchedRate s a v
    let u := v.toNat &&& s.genMask c w
    let free := s.chState c = 0 ∨ s.chState c = 5 ∨ g.changesStopped (s.rg a).toNat u = false
    (¬free → write rejected) ∧
    (w = 0 → c.val % 2 = 0 → v.getLsbD 4 = true → write rejected) ∧
    (w.val ∈ [0x22, 0x23, 0x25, 0x26] → write (fun t => t = { s with latch := t.latch } ∧ wmGet 0 t.latch a = v)) ∧
    (w = 0x24 → (0x400000000000 < x → write rejected) ∧
      (x ≤ 0x400000000000 → write (fun t => OnlyRegs s t [a - 2, a - 1, a] ∧ t.getW (R.CH_CODE_RATE c) = x))) ∧
    (w = 0x27 → (0x600000000000 < (signedOf 48 x).natAbs → write rejected) ∧
      ((signedOf 48 x).natAbs ≤ 0x600000000000 →
        write (fun t => OnlyRegs s t [a - 2, a - 1, a] ∧ t.getW (R.CH_CARR_RATE c) = x))) ∧
    (w.val ∉ [0x22, 0x23, 0x24, 0x25, 0x26, 0x27] → free → ¬(w = 0 ∧ c.val % 2 = 0 ∧ v.getLsbD 4 = true) →
      (g.accepts u = false → write rejected) ∧
      (g.accepts u = true → write (fun t => RegsKept s t [a] ∧ t.flt = s.flt ∧
        (∀ d : Fin 192, t.chState d = s.chState d) ∧
        ∀ f ∈ g.fields, f.ty = .rw → ∀ j, f.lo ≤ j → j ≤ f.hi → (t.rg a).getLsbD j = u.testBit j))) := by
  have hexec := exec_descWrite hl ha hn c w v
  have hbit : bitOf v.toNat 4 = v.getLsbD 4 := bitOf_getLsbD v 4
  have hpair' : ¬(w = 0 ∧ c.val % 2 = 0 ∧ v.getLsbD 4 = true) →
      ¬(w.val = 0 ∧ c.val % 2 = 0 ∧ bitOf (v.toNat &&& s.genMask c w) 4 = true) := fun h ⟨hw, hc, hv⟩ => by
    rw [and_genMask_whole s c (.inl hw), hbit] at hv
    exact h ⟨Fin.ext hw, hc, hv⟩
  refine ⟨fun hbar => ?_, fun hw hc hv => ?_, fun hw => ?_, fun hw => ?_, fun hw => ?_, fun hw hfree hpair => ⟨fun hacc => ?_, fun hacc => ?_⟩⟩
  · exact completes_descReject hs (hexec.trans (congrArg done (descStore_barred hr hbar)))
  · have hw0 : w.val = 0 := by rw [hw]; rfl
    refine completes_descReject hs (hexec.trans (congrArg done (descStore_evenPair hr hw0 hc ?_)))
    rw [and_genMask_whole s c (.inl hw0), hbit, hv]
  · exact completes_latched hs (hexec.trans (congrArg done (descStore_latched_whole hr hw v)))
  · have hw : w.val = 0x24 := by rw [hw]; rfl
    have h := completes_rateWrite hs (by omega) (latchedRate_lt ..) (r := R.CH_CODE_RATE c) (by simp only [R.CH_CODE_RATE]; congr 1; omega)
      (hexec.trans (congrArg done ((descStore_rate_whole hr (.inl hw) v).trans (rateWrite_code s c hw v))))
    exact ⟨fun hx => h.1 (Nat.not_le.mpr hx), h.2⟩
  · have hw : w.val = 0x27 := by rw [hw]; rfl
    have h := completes_rateWrite hs (by omega) (latchedRate_lt ..) (r := R.CH_CARR_RATE c) (by simp only [R.CH_CARR_RATE]; congr 1; omega)
      (hexec.trans (congrArg done ((descStore_rate_whole hr (.inr hw) v).trans (rateWrite_carr s c hw v))))
    exact ⟨fun hx => h.1 (Nat.not_le.mpr hx), h.2⟩
  · exact completes_descReject hs (hexec.trans (congrArg done (descStore_unaccepted hr hfree hw (hpair' hpair) hacc)))
  · obtain ⟨hregs, hflt, hpp⟩ := descStore_accepted hr hfree hw (hpair' hpair) hacc
    exact completes_descStored hs hr (Nat.lt_of_le_of_lt Nat.and_le_left v.isLt) hexec hregs hflt hpp

end Sys2Proof.Proofs
end

section
/-! STALE_LIMIT, DPHI_LAPSE, DIR_SUSPECT and DIV_DECISION (O34). -/

namespace Sys2Proof.Proofs

open Sys2Proof Sys2Proof.Machine Sys2Proof.Safety

/-! ### The limit of a run in STALE (R154) -/

theorem followerOf_some {s : State} {c d : Nat} (h : s.followerOf c = some d) : d = c + 1 := by
  unfold State.followerOf at h
  split at h
  · exact (Option.some.inj h).symm
  · cases h

/-- The condition of STALE_LIMIT for the channel whose commands channel `c` follows. -/
abbrev StaleLimitMet (s : State) (c : Nat) : Prop :=
  s.get R.CH_STALE_LIM_LIMIT ≠ 0 ∧ s.chState (s.masterOf c) = 4 ∧
    s.get R.CH_STALE_LIM_LIMIT ≤ s.get (R.CH_STALE_RUN (s.masterOf c))

theorem staleLimit_unmet {s : State} {c : Nat} (h : ¬StaleLimitMet s c) : s.staleLimit c = s := by
  unfold State.staleLimit
  refine if_neg fun hc => h ?_
  simpa [and_assoc] using hc

/-- The limit, once met, is noted in both channels of a pair. -/
theorem staleLimit_met {s : State} {c : Nat} (h : StaleLimitMet s c) :
    s.staleLimit c = { s with ch := (s.staleLimit c).ch } ∧
      (s.staleLimit c).chan (s.masterOf c) = { s.chan (s.masterOf c) with limitHit := true } := by
  have hc : (s.get R.CH_STALE_LIM_LIMIT != 0 && s.chState (s.masterOf c) == 4 &&
      decide (s.get R.CH_STALE_LIM_LIMIT ≤ s.get (R.CH_STALE_RUN (s.masterOf c)))) = true := by simpa [and_assoc] using h
  simp only [State.staleLimit, hc, if_true, State.bothOfPair]
  cases hf : s.followerOf (s.masterOf c) with
  | none => exact ⟨rfl, chan_setChan_self ..⟩
  | some d =>
    have hd := followerOf_some hf
    exact ⟨rfl, (chan_setChan_ne _ _ _ _ (by omega)).trans (chan_setChan_self ..)⟩

/-- A channel in STALE whose limit has been met stops at the edge, with that cause. -/
theorem chEdge_limitHit {s : State} {c : Nat} (hst : s.chState c = 4) (hl : s.clk.limp = false) (hn : (s.chan c).stopNext = false)
    (hh : (s.chan c).limitHit = true) (stale ran : List Nat) : s.chEdge stale ran c = s.chStop c 2 := by
  have hcause : s.stopCause c = some 2 := by simp [State.stopCause, hl, hn, hh]
  simp [State.chEdge, hst, hcause]

theorem chState_ok (c : Nat) : (R.CH_STATE c).ok := by simp [R.CH_STATE, Fld.ok]

theorem chCause_ok (c : Nat) : (R.CH_CAUSE c).ok := by simp [R.CH_CAUSE, Fld.ok]

/-- A channel that stops on the limit shows STOPPED and the cause, and raises fault 0x0303. -/
theorem chStop_limit (s : State) (c : Nat) : (s.chStop c 2).chState c = 5 ∧ (s.chStop c 2).get (R.CH_CAUSE c) = 2 ∧
    ∃ e ∈ (s.chStop c 2).flt.now, e.code = 0x0303 ∧ e.unit = c := by
  simp only [State.chStop, if_true]
  generalize (if s.correlating c = true then s.periodFinish c true else s) = u
  refine ⟨?_, ?_, u.faultEvent 0x0303 c 0 none, ?_, rfl, rfl⟩
  · rw [State.chState, get_setChan, get_put_apart _ _ _ _ (chCause_ok c) (by simp [R.CH_CAUSE, R.CH_STATE, Fld.apart]),
      get_put_self _ _ _ (chState_ok c)]
    rfl
  · rw [get_setChan, get_put_self _ _ _ (chCause_ok c)]
    rfl
  · simp [State.raise]

/-- R154: STALE_LIMIT. -/
theorem staleLimits {s : State} (hs : Settled s) (c : Fin 192) :
    let d := s.masterOf c
    (¬StaleLimitMet s c → Completes (.staleLimit c) s (fun t => t = s)) ∧
    (StaleLimitMet s c → Completes (.staleLimit c) s (fun t => t = { s with ch := t.ch } ∧ (t.chan d).limitHit = true ∧
      (s.clk.limp = false → (s.chan d).stopNext = false → (t.chEdge [] [] d).chState d = 5 ∧
        (t.chEdge [] [] d).get (R.CH_CAUSE d) = 2 ∧
        ∃ e ∈ (t.chEdge [] [] d).flt.now, e.code = 0x0303 ∧ e.unit = d))) := by
  refine ⟨fun h => ?_, fun h => ?_⟩
  · exact completes_calm hs (congrArg done (staleLimit_unmet h)) rfl rfl rfl rfl
  · obtain ⟨hframe, hchan⟩ := staleLimit_met h
    have hregs : (s.staleLimit c).regs = s.regs := by rw [hframe]
    refine completes_calm hs rfl (permit_of_regs hregs) (by rw [hframe]) (by rw [hframe]) ⟨hframe, by rw [hchan], fun hl hn => ?_⟩
    rw [chEdge_limitHit ((get_congr hregs _).trans h.2.1) (by rw [hframe]; exact hl) (by rw [hchan]; exact hn) (by rw [hchan])]
    exact chStop_limit ..

/-! ### The lapse of the inter-aerial phase (R180) -/

/-- R180: DPHI_LAPSE. -/
theorem dphiLapses {s : State} (hs : Settled s) (c : Fin 192) :
    let h := s.chan c
    let ok := (2 ≤ s.chState c ∧ s.chState c ≤ 4) ∧ max 1 (s.act (R.CH_DPHI_LAPSE c)) ≤ h.dphiLapse
    (¬ok → Completes (.dphiLapse c) s (fun t => t = s)) ∧
    (ok → Completes (.dphiLapse c) s (fun t => t = { s with ch := t.ch } ∧ (∀ d : Fin 192, d ≠ c → t.chan d = s.chan d) ∧
      t.chan c = ({ h with dphiV := false, dphiInit := false, dphiGood := 0 } : Chan))) := by
  intro h ok
  have hok : (s.correlating c && decide (max 1 (s.act (R.CH_DPHI_LAPSE c)) ≤ h.dphiLapse)) = true ↔ ok := by
    simp [State.correlating, ok]
  refine ⟨fun hn => ?_, fun hy => ?_⟩
  · exact completes_calm hs (congrArg done (if_neg (mt hok.mp hn))) rfl rfl rfl rfl
  · refine completes_calm hs (congrArg done (if_pos (hok.mpr hy))) (permit_of_regs rfl) rfl rfl
      ⟨rfl, fun d hd => chan_setChan_ne _ _ _ _ (fun e => hd (Fin.ext e)), chan_setChan_self ..⟩

/-! ### A direction group under suspicion (R187) -/

/-- R187: DIR_SUSPECT. -/
theorem dirSuspects {s : State} (hs : Settled s) (g : Fin 8) :
    let ok := s.atEdge = true ∧ s.isOn (R.CH_DIR_CONC_SUSPECT g) = false ∧
      100 * s.get R.CH_DIR_CFG_DIR_PERSIST ≤ s.ch.dirHold.getD g 0
    (¬ok → Completes (.dirSuspect g) s (fun t => t = s)) ∧
    (ok → Completes (.dirSuspect g) s (fun t => RegsKept s t [0x705050 + g] ∧ t.ch = s.ch ∧
      t.isOn (R.CH_DIR_CONC_SUSPECT g) = true ∧ Recorded s t 0x0307 g 0 none)) := by
  intro ok
  have hok : (s.atEdge && !s.isOn (R.CH_DIR_CONC_SUSPECT g) && decide (s.dirPersist ≤ s.ch.dirHold.getD g 0)) = true ↔ ok := by
    simp [ok, State.dirPersist, and_assoc]
  refine ⟨fun hn => ?_, fun hy => ?_⟩
  · exact completes_calm hs (congrArg done (if_neg (mt hok.mp hn))) rfl rfl rfl rfl
  · obtain ⟨u, hu⟩ : ∃ u, u = s.putB (R.CH_DIR_CONC_SUSPECT g) true := ⟨_, rfl⟩
    have honly : OnlyRegs s u [0x705050 + g] := hu ▸ onlyRegs_put ..
    have hon : u.isOn (R.CH_DIR_CONC_SUSPECT g) = true := hu ▸ isOn_putB_self _ _ _ (by simp [R.CH_DIR_CONC_SUSPECT, Fld.ok])
    have hpp : u.permitPrev = s.permitPrev := by rw [honly.1]
    have hch : u.ch = s.ch := by rw [honly.1]
    have hp : u.permit = s.permit := permit_of_onlyRegs honly (fun a ha => by
      simp only [permitRegs, List.mem_cons, List.not_mem_nil, or_false] at ha ⊢
      omega)
    have hflt : (u.raise 0x0307 g).flt = { s.flt with now := [s.faultEvent 0x0307 g 0 none] } := by
      rw [honly.1]
      exact raise_flt_of_settled hs ..
    have hrun : s.dirSuspect g = u.raise 0x0307 g := hu ▸ if_pos (hok.mpr hy)
    exact completes_raised hs (congrArg done hrun) ((permit_of_regs rfl).trans hp) hpp hflt
      fun f h => ⟨honly.2, hch, hon, h⟩

end Sys2Proof.Proofs
end

section
/-! The decision of a window (O34). -/

namespace Sys2Proof.Proofs

open Sys2Proof Sys2Proof.Machine Sys2Proof.Safety

/-! ### What a run through samples can decide (R174 to R177) -/

/-- From `h` to `h'` a channel keeps its primary aerial and its inter-aerial phase, and the only decision that it can come to is
the other aerial, with the phase valid. -/
def DecidesFrom (h h' : Chan) : Prop :=
  (h'.prim = h.prim ∧ h'.dphi = h.dphi ∧ h'.dphiV = h.dphiV ∧ h'.decBefore = h.decBefore) ∧
    ∀ o, h'.decision = some o → h.decision = some o ∨ o ≠ h.prim ∧ h.dphiV = true

theorem decidesFrom_keep {h h' : Chan} (hk : h'.prim = h.prim ∧ h'.dphi = h.dphi ∧ h'.dphiV = h.dphiV ∧ h'.decBefore = h.decBefore)
    (hd : h'.decision = h.decision) : DecidesFrom h h' :=
  ⟨hk, fun _ ho => .inl (hd ▸ ho)⟩

theorem decidesFrom_refl (h : Chan) : DecidesFrom h h := decidesFrom_keep ⟨rfl, rfl, rfl, rfl⟩ rfl

theorem decidesFrom_trans {h h' h'' : Chan} (h1 : DecidesFrom h h') (h2 : DecidesFrom h' h'') : DecidesFrom h h'' := by
  obtain ⟨⟨p1, d1, v1, b1⟩, o1⟩ := h1
  obtain ⟨⟨p2, d2, v2, b2⟩, o2⟩ := h2
  refine ⟨⟨p2.trans p1, d2.trans d1, v2.trans v1, b2.trans b1⟩, fun o ho => ?_⟩
  rcases o2 o ho with ho | ho
  · exact o1 o ho
  · exact .inr (p1 ▸ v1 ▸ ho)

theorem decidesFrom_windowEnd (s : State) (c : Nat) (h : Chan) : DecidesFrom h (s.windowEnd c h) := by
  simp only [State.windowEnd]
  split
  · exact decidesFrom_keep ⟨rfl, rfl, rfl, rfl⟩ rfl
  · split
    · exact ⟨⟨rfl, rfl, rfl, rfl⟩, fun o ho => by cases ho⟩
    · split
      · rename_i hne hv
        exact ⟨⟨rfl, rfl, rfl, rfl⟩, fun o ho => .inr (by cases ho; exact ⟨hne, hv⟩)⟩
      · exact decidesFrom_keep ⟨rfl, rfl, rfl, rfl⟩ rfl

theorem decidesFrom_windowStart (s : State) (c : Nat) (h : Chan) : DecidesFrom h (s.windowStart c h) :=
  decidesFrom_keep ⟨rfl, rfl, rfl, rfl⟩ rfl

theorem decidesFrom_ite {h : Chan} (p : Prop) [Decidable p] {a b : Chan} (ha : DecidesFrom h a) (hb : DecidesFrom h b) :
    DecidesFrom h (if p then a else b) := by
  split
  · exact ha
  · exact hb

theorem decidesFrom_onWrap (s : State) (c : Nat) (h : Chan) : DecidesFrom h (s.onWrap c h) := by
  unfold State.onWrap
  extract_lets h1 sl h2 h3 h4 ofs
  refine decidesFrom_trans (h' := h2) (decidesFrom_keep ⟨rfl, rfl, rfl, rfl⟩ rfl) ?_
  split
  · exact decidesFrom_ite _ (decidesFrom_trans (decidesFrom_ite _ (decidesFrom_windowEnd ..) (decidesFrom_refl _))
      (decidesFrom_windowStart ..)) (decidesFrom_refl _)
  · have hepoch : DecidesFrom h2 h3 := decidesFrom_ite _ (decidesFrom_keep ⟨rfl, rfl, rfl, rfl⟩ rfl) (decidesFrom_refl _)
    have hend : DecidesFrom h3 h4 := decidesFrom_ite _ (decidesFrom_windowEnd ..) (decidesFrom_refl _)
    exact decidesFrom_trans hepoch (decidesFrom_trans hend (decidesFrom_ite _ (decidesFrom_windowStart ..) (decidesFrom_refl _)))
  · exact decidesFrom_keep ⟨rfl, rfl, rfl, rfl⟩ rfl

theorem decidesFrom_segment (h : Chan) :
    DecidesFrom h (if 1638400 ≤ h.segSamples then { h.closeSegment with segSamples := 0 } else h) :=
  decidesFrom_ite _ (decidesFrom_keep ⟨rfl, rfl, rfl, rfl⟩ rfl) (decidesFrom_refl _)

theorem decidesFrom_advance (s : State) (c k : Nat) (h : Chan) : DecidesFrom h (s.advance c k h) := by
  unfold State.advance
  extract_lets len code carr h1
  refine decidesFrom_trans (h' := h1) (decidesFrom_keep ⟨rfl, rfl, rfl, rfl⟩ rfl) ?_
  exact decidesFrom_ite _ (decidesFrom_onWrap ..) (decidesFrom_segment h1)

theorem decidesFrom_foldl {α : Type} (f : Chan → α → Chan) (hf : ∀ h a, DecidesFrom h (f h a)) (l : List α) (h : Chan) :
    DecidesFrom h (l.foldl f h) := by
  induction l generalizing h with
  | nil => exact decidesFrom_refl h
  | cons a t ih => exact decidesFrom_trans (hf h a) (ih _)

theorem decidesFrom_tapSample (s : State) (c x : Nat) (i q : Int) (h : Chan) : DecidesFrom h (s.tapSample c x i q h) := by
  unfold State.tapSample
  refine decidesFrom_ite _ (decidesFrom_refl _) ?_
  extract_lets k h1 r cs sn g
  have htaps : DecidesFrom h h1 := by
    refine decidesFrom_foldl _ (fun h t => ?_) _ _
    exact decidesFrom_keep ⟨rfl, rfl, rfl, rfl⟩ rfl
  exact decidesFrom_trans htaps (decidesFrom_keep ⟨rfl, rfl, rfl, rfl⟩ rfl)

theorem decidesFrom_chanRun (s : State) (c : Nat) (stopEnd : Bool) (fuel : Nat) :
    ∀ n la lb h, DecidesFrom h (s.chanRun c stopEnd fuel n la lb h) := by
  induction fuel with
  | zero => intro n la lb h; exact decidesFrom_refl h
  | succ fuel ih =>
    intro n la lb h
    unfold State.chanRun
    split
    · exact decidesFrom_refl h
    · split
      · exact decidesFrom_trans (decidesFrom_advance ..) (ih ..)
      · exact decidesFrom_trans (decidesFrom_tapSample ..) (decidesFrom_trans (decidesFrom_tapSample ..)
          (decidesFrom_trans (decidesFrom_advance ..) (ih ..)))

/-! ### DIV_DECISION -/

theorem elapse_waking_quiet (s : State) (n : Nat) (h : s.clk.waking = []) : (s.elapse n).clk.waking = [] := by
  simp [State.elapse, h]

/-- With no unit being woken, samples that a path takes change the clocks and the conditioning state alone. -/
theorem takeSamples_quiet (s : State) (i : Nat) (l : List Adc) (h : s.clk.waking = []) :
    ∃ k d, s.takeSamples i l = { s with clk := k, dfe := d } ∧ k.waking = [] := by
  unfold State.takeSamples
  simp only []
  generalize hu : ({ s with dfe := _ } : State) = u
  have hframe : u = { s with dfe := u.dfe } := by rw [← hu]
  have hquiet : u.clk.waking = [] := by rw [hframe]; exact h
  rcases Laws.runSamples_cases u ((s.dfe.taken.getD i []).length + _) with he | ⟨n, he⟩
  · rw [he, hframe]
    exact ⟨s.clk, u.dfe, rfl, h⟩
  · rw [he, Laws.elapse_quiet u n hquiet]
    exact ⟨_, u.dfe, by rw [hframe], elapse_waking_quiet u n hquiet⟩

/-- The samples of both paths of a channel. -/
theorem takeBoth_quiet (s : State) (i : Nat) (a b : List Adc) (h : s.clk.waking = []) :
    ∃ k d, (s.takeSamples i a).takeSamples (3 + i) b = { s with clk := k, dfe := d } := by
  obtain ⟨k, d, h1, hk⟩ := takeSamples_quiet s i a h
  obtain ⟨k', d', h2, -⟩ := takeSamples_quiet { s with clk := k, dfe := d } (3 + i) b hk
  exact ⟨k', d', by rw [h1, h2]⟩

/-- What DIV_DECISION can do (R174): the samples come; a channel that correlates may end a window in them, and then notes the decision
that was pending before. -/
theorem divDecision_cases {s : State} (c : Nat) (a b : List Adc) (hw : s.clk.waking = []) :
    ∃ k d, s.divDecision c a b = { s with clk := k, dfe := d } ∨
      s.correlating c = true ∧ ∃ h', DecidesFrom (s.chan c) h' ∧ h'.winEnded = true ∧ s.divDecision c a b =
        ({ s with clk := k, dfe := d } : State).setChan c
          { h' with decBefore := some ((s.chan c).decBefore.getD (s.chan c).decision) } := by
  obtain ⟨k, d, hu⟩ := takeBoth_quiet s (s.get (R.CH_BAND c)) a b hw
  refine ⟨k, d, ?_⟩
  simp only [State.divDecision, hu]
  split
  · exact .inl rfl
  · rename_i hc
    split
    · have hcorr : s.correlating c = true := by simpa using show ¬(!s.correlating c) = true from hc
      refine .inr ⟨hcorr, _, decidesFrom_trans ?_ (decidesFrom_chanRun ..), ‹_›, rfl⟩
      exact decidesFrom_keep ⟨rfl, rfl, rfl, rfl⟩ rfl
    · exact .inl rfl

theorem correlating_iff (s : State) (c : Nat) : s.correlating c = true ↔ 2 ≤ s.chState c ∧ s.chState c ≤ 4 := by
  simp [State.correlating]

/-- R174 to R177: DIV_DECISION. -/
theorem divDecisions {s : State} (hs : Settled s) (c : Fin 192) (hw : s.clk.waking = []) (a b : List Adc) :
    let h := s.chan c
    Completes (.divDecision c a b) s (fun t =>
      t = { s with ch := t.ch, clk := t.clk, dfe := t.dfe } ∧ (∀ d : Fin 192, d ≠ c → t.chan d = s.chan d) ∧
      (¬(2 ≤ s.chState c ∧ s.chState c ≤ 4) → t.ch = s.ch) ∧ (t.chan c).prim = h.prim ∧ (t.chan c).dphi = h.dphi ∧
      (t.chan c = h ∨ (t.chan c).winEnded = true ∧ (t.chan c).decBefore = some (h.decBefore.getD h.decision)) ∧
      ∀ o, (t.chan c).decision = some o → h.decision = some o ∨ o ≠ h.prim ∧ h.dphiV = true) := by
  intro h
  obtain ⟨k, d, hrun | ⟨hcorr, h', ⟨⟨hprim, hdphi, -, -⟩, hdec⟩, hend, hrun⟩⟩ := divDecision_cases c a b hw
  · exact completes_calm hs (congrArg done hrun) (permit_of_regs rfl) rfl rfl
      ⟨rfl, fun _ _ => rfl, fun _ => rfl, rfl, rfl, .inl rfl, fun o ho => .inl ho⟩
  · refine completes_calm hs (congrArg done hrun) (permit_of_regs rfl) rfl rfl
      ⟨rfl, fun d hd => chan_setChan_ne _ _ _ _ (fun e => hd (Fin.ext e)), fun hn => absurd ((correlating_iff s c).mp hcorr) hn, ?_⟩
    rw [chan_setChan_self]
    exact ⟨hprim, hdphi, .inr ⟨hend, rfl⟩, hdec⟩

/-- R174: a void window, or one of a single aerial, decides nothing. -/
theorem windowEnd_void {s : State} {c : Nat} {h : Chan} (hv : h.winVoid = true ∨ s.bothAer c = false) :
    (s.windowEnd c h).decision = h.decision := by
  have hskip : (h.winVoid || h.tickZero || !s.bothAer c) = true := by rcases hv with hv | hv <;> simp [hv]
  simp only [State.windowEnd, hskip, if_true]

/-- R174: a window that the primary aerial wins, or that is tied, leaves no decision. -/
theorem windowEnd_primary {s : State} {c : Nat} {h : Chan} (hv : h.winVoid = false) (hz : h.tickZero = false)
    (hb : s.bothAer c = true) (he : h.winE.getD (1 - h.prim) 0 ≤ h.winE.getD h.prim 0) : (s.windowEnd c h).decision = none := by
  have hnames : windowNames h.prim (s.act (R.CH_HYST c)) h.winE = h.prim := if_pos he
  simp [State.windowEnd, hnames, hv, hz, hb]

end Sys2Proof.Proofs
end

section
/-! Records in the Pool (O34). -/

namespace Sys2Proof.Proofs

open Sys2Proof Sys2Proof.Machine Sys2Proof.Safety

/-! ### A word that an internal master writes leaves the channels -/

/-- An access that is denied changes neither memory nor channels, and of the registers ACC_VIOL alone (R458). -/
theorem violation_shown (s : State) (m a t : Nat) (k : AccKind) :
    (s.violation m a t k).mem = s.mem ∧ (s.violation m a t k).ch = s.ch ∧
      ∀ b, b < 0x70E004 ∨ 0x70E007 < b → (s.violation m a t k).rg b = s.rg b := by
  unfold State.violation
  extract_lets kind s1 s2 s3 s4
  have hrg : ∀ b, b < 0x70E004 ∨ 0x70E007 < b → s4.rg b = s.rg b := fun b hb => by
    have hne : b ≠ (R.ACC_VIOL 3).gwa := by simp only [R.ACC_VIOL]; omega
    rw [show s4 = s3.addSat (R.ACC_VIOL 3) 1 from rfl, State.addSat, rg_put_ne _ _ hne,
      rg_setRg_ne _ _ (by omega), rg_setRg_ne _ _ (by omega), rg_setRg_ne _ _ (by omega)]
  split <;> exact ⟨rfl, rfl, hrg⟩

theorem bwRefuse_ch (s : State) (m a : Nat) : (s.bwRefuse m a).ch = s.ch := by
  unfold State.bwRefuse
  extract_lets u
  have hu : u.ch = s.ch := putB_ch ..
  clear_value u
  split <;> exact hu

theorem wipeHit_ch (s : State) (m a : Nat) : (s.wipeHit m a).ch = s.ch := by
  unfold State.wipeHit
  split <;> rfl

theorem frozenHit_ch (s : State) (m a : Nat) : (s.frozenHit m a).ch = s.ch := by
  unfold State.frozenHit
  split <;> rfl

theorem retainedRefusal_ch {s t : State} {m a : Nat} {r : Region} (h : s.retainedRefusal m a r = some t) : t.ch = s.ch := by
  unfold State.retainedRefusal at h
  split at h
  · split at h <;> cases h
    exact bwRefuse_ch s m a
  · split at h
    · cases h; exact bwRefuse_ch s m a
    · split at h
      · cases h; exact wipeHit_ch s m a
      · split at h <;> cases h
        rfl
  · cases h

theorem testAdvance_ch (s : State) (n : Nat) : (s.testAdvance n).ch = s.ch := by
  unfold State.testAdvance
  extract_lets u
  split <;> rfl

theorem touchSlice_ch (s : State) (a : Nat) : (s.touchSlice a).ch = s.ch := by
  unfold State.touchSlice State.sliceAbandon
  split
  · split
    · extract_lets u k
      split
      · exact testAdvance_ch _ _
      · rfl
    · rfl
  · rfl

theorem memWriteAs_ch (s : State) (m a : Nat) (w : Word) : (s.memWriteAs m a w).ch = s.ch := by
  unfold State.memWriteAs
  extract_lets r
  split
  · exact retainedRefusal_ch ‹_›
  · split
    · exact frozenHit_ch s m a
    · split
      · exact touchSlice_ch s a
      · rfl

theorem memWriteChecked_ch (s : State) (m a : Nat) (w : Word) : (s.memWriteChecked m a w).ch = s.ch := by
  unfold State.memWriteChecked
  split
  · rfl
  · split
    · exact memWriteAs_ch s m a w
    · exact (violation_shown s m a _ _).2.1

/-- The state once an internal master has written words, each at its place from `base` on. -/
def wordsWrite (m base : Nat) (l : List (Word × Nat)) (s : State) : State :=
  l.foldl (fun s e => s.memWriteChecked m (base + e.2) e.1) s

theorem wordsWrite_cons (m base : Nat) (e : Word × Nat) (l : List (Word × Nat)) (s : State) :
    wordsWrite m base (e :: l) s = wordsWrite m base l (s.memWriteChecked m (base + e.2) e.1) := rfl

theorem wordsWrite_ch (m base : Nat) (l : List (Word × Nat)) (s : State) :
    (wordsWrite m base l s).ch = s.ch := by
  induction l generalizing s with
  | nil => rfl
  | cons e t ih => rw [wordsWrite_cons, ih, memWriteChecked_ch]

theorem chan_wordsWrite (m base : Nat) (l : List (Word × Nat)) (s : State) (d : Nat) : (wordsWrite m base l s).chan d = s.chan d := by
  simp only [State.chan, wordsWrite_ch]

/-! ### Words that go to the Pool -/

theorem regionOf_pool {a : Nat} (h : 0x100000 ≤ a) (h' : a < 0x300000) : regionOf a = .pool ((a - 0x100000) / 0x10000) := by
  unfold regionOf
  rw [if_neg (by omega), if_neg (by omega), if_pos h']

theorem allowed_congr {s t : State} (h : ∀ b, b < 0x70E004 ∨ 0x70E007 < b → t.rg b = s.rg b) (m k : Nat) :
    t.allowed m k .write = s.allowed m k .write := by
  simp only [State.allowed, h (0x70E101 + k) (by omega)]

/-- Where the access tables let a master write no bank of the Pool, its words are not stored (R117). -/
theorem wordsWrite_shut {m base : Nat} (l : List (Word × Nat)) (hl : ∀ e ∈ l, 0x100000 ≤ base + e.2 ∧ base + e.2 < 0x300000)
    {s : State} (hs : PoolShut s m) :
    (wordsWrite m base l s).mem = s.mem := by
  induction l generalizing s with
  | nil => rfl
  | cons e t ih =>
    obtain ⟨hlo, hhi⟩ := hl e List.mem_cons_self
    have hdeny := hs ((base + e.2 - 0x100000) / 0x10000) (by omega)
    have hword : s.memWriteChecked m (base + e.2) e.1 =
        s.violation m (base + e.2) ((base + e.2 - 0x100000) / 0x10000) .write := by
      simp [State.memWriteChecked, regionOf_pool hlo hhi, Region.target, hdeny]
    obtain ⟨hmem, -, hrg⟩ := violation_shown s m (base + e.2) ((base + e.2 - 0x100000) / 0x10000) .write
    rw [wordsWrite_cons, hword, ih (fun e he => hl e (List.mem_cons_of_mem _ he)) fun b hb => (allowed_congr hrg m b).trans (hs b hb),
      hmem]

/-- A word that the access tables let an internal master write to the Pool is stored. -/
theorem memWriteChecked_open {s : State} {m a : Nat} (hs : PoolOpen s m) (hlo : 0x100000 ≤ a) (hhi : a < 0x300000) (w : Word) :
    s.memWriteChecked m a w = s.memPut a w := by
  obtain ⟨hfrozen, hborrowed, hallow⟩ := hs
  have hbank := hallow ((a - 0x100000) / 0x10000) (by omega)
  have hf : s.frozenAt a = false := by simp [State.frozenAt, hfrozen]
  have ht : s.touchSlice a = s := by simp [State.touchSlice, hborrowed]
  simp [State.memWriteChecked, State.memWriteAs, regionOf_pool hlo hhi, Region.target, hbank, State.retainedRefusal, hf,
    Region.isMemory, ht]

/-- Words stored one after the other, from `base + k` on. -/
theorem wordsWrite_open {m base : Nat} (l : List Word) (k : Nat) (hlo : 0x100000 ≤ base + k) (hhi : base + k + l.length ≤ 0x300000)
    {s : State} (hs : PoolOpen s m) :
    wordsWrite m base (l.zipIdx k) s = s.memPuts (base + k) l := by
  induction l generalizing s k with
  | nil => rfl
  | cons w t ih =>
    rw [List.length_cons] at hhi
    rw [List.zipIdx_cons, wordsWrite_cons, memWriteChecked_open hs hlo (by omega)]
    exact ih (k + 1) (by omega) (by omega) (s := s.memPut (base + k) w) hs

theorem memPuts_frame (s : State) (a : Nat) (l : List Word) :
    s.memPuts a l = { s with mem := (s.memPuts a l).mem, memSt := (s.memPuts a l).memSt } := by
  induction l generalizing s a with
  | nil => rfl
  | cons w t ih => rw [State.memPuts, ih]; rfl

theorem memGet_memPuts_off (s : State) (a : Nat) (l : List Word) {b : Nat} (h : b < a ∨ a + l.length ≤ b) :
    (s.memPuts a l).memGet b = s.memGet b := by
  induction l generalizing s a with
  | nil => rfl
  | cons w t ih =>
    rw [List.length_cons] at h
    rw [State.memPuts, ih _ _ (by omega), Laws.memGet_memPut, if_neg (by omega)]

/-- Words written upward read back. -/
theorem memGet_memPuts (s : State) (a : Nat) (l : List Word) {k : Nat} (h : k < l.length) :
    (s.memPuts a l).memGet (a + k) = l.getD k 0 := by
  induction l generalizing s a k with
  | nil => cases h
  | cons w t ih =>
    cases k with
    | zero => rw [State.memPuts, memGet_memPuts_off _ _ _ (by omega), Laws.memGet_memPut, if_pos (by omega)]; rfl
    | succ k =>
      rw [State.memPuts, show a + (k + 1) = a + 1 + k by omega, ih _ _ (by simpa using h)]
      rfl

theorem wordsPut_memPuts (s : State) (a : Nat) (l : List Word) : WordsPut s (s.memPuts a l) a l :=
  ⟨fun _ hk => memGet_memPuts s a l hk, fun _ hb => memGet_memPuts_off s a l hb⟩

/-! ### The record post (R190 to R192) -/

theorem recordWords_length (p : PeriodBuf) (seq : Nat) : (recordWords p seq).length = 48 := by
  simp only [recordWords]
  split <;> rfl

/-- A channel once its record has been posted. -/
def postedChan (h : Chan) : Chan := { h with buf := none, seq := (h.seq + 1) % 65536 }

theorem chan_setFlag (s : State) (base c d : Nat) : (s.setFlag base c).chan d = s.chan d := rfl

theorem postRecord_none {s : State} {c : Nat} (h : (s.chan c).buf = none) (bad : List Nat) : s.postRecord c bad = s := by
  simp only [State.postRecord, h]

/-- A record that waits is written, and its ready flag rises. -/
theorem postRecord_some {s : State} {c : Nat} {p : PeriodBuf} (h : (s.chan c).buf = some p) :
    s.postRecord c [] =
      (wordsWrite 8 (s.recordBase c (s.chan c).seq) (recordWords p (s.chan c).seq).zipIdx
        (s.setChan c (postedChan (s.chan c)))).setFlag 0x705038 c := by
  simp only [State.postRecord, h, List.foldl_nil, wordsWrite, postedChan]

/-- The channels after the post of one record. -/
theorem postRecord_chan {s : State} {c : Nat} {p : PeriodBuf} (h : (s.chan c).buf = some p) (d : Nat) :
    (s.postRecord c []).chan d =
      if d = c then postedChan (s.chan c) else s.chan d := by
  rw [postRecord_some h, ← chan_setChan, chan_setFlag, chan_wordsWrite]

theorem postRecord_buf (s : State) (c : Nat) : ((s.postRecord c []).chan c).buf = none := by
  cases h : (s.chan c).buf with
  | none => rw [postRecord_none h, h]
  | some p => rw [postRecord_chan h, if_pos rfl]; rfl

theorem postRecord_chan_ne (s : State) {c d : Nat} (hd : d ≠ c) : (s.postRecord c []).chan d = s.chan d := by
  cases h : (s.chan c).buf with
  | none => rw [postRecord_none h]
  | some p => rw [postRecord_chan h, if_neg hd]

theorem postBelow_succ (s : State) (n : Nat) : s.postBelow (n + 1) = (s.postBelow n).postRecord n [] := by
  simp [State.postBelow, forUp, List.range_succ]

/-- After the post of the channels below `n` none of them has a record that waits. -/
theorem postBelow_buf (s : State) {n d : Nat} (hd : d < n) : ((s.postBelow n).chan d).buf = none := by
  induction n with
  | zero => cases hd
  | succ n ih =>
    rw [postBelow_succ]
    by_cases h : d = n
    · rw [h]; exact postRecord_buf ..
    · rw [postRecord_chan_ne _ h]; exact ih (by omega)

/-- Where no lower channel has a record that waits, none is posted before. -/
theorem postBelow_none {s : State} {n : Nat} (h : ∀ d < n, (s.chan d).buf = none) : s.postBelow n = s := by
  induction n with
  | zero => rfl
  | succ n ih =>
    rw [postBelow_succ, ih fun d hd => h d (by omega)]
    exact postRecord_none (h n (by omega)) _

/-- After PERIOD_END no record of a channel up to `c` waits; past the record post, none at all. -/
theorem periodEnd_buf (s : State) {c d : Nat} (hd : d < 192) (h : d ≤ c ∨ 12288 ≤ s.clk.phase) :
    ((s.periodEnd c []).chan d).buf = none := by
  unfold State.periodEnd
  split
  · exact postBelow_buf s hd
  · rename_i hpost
    have hd : d ≤ c := h.resolve_right (by simpa [State.postOver] using hpost)
    by_cases hdc : d = c
    · rw [hdc]; exact postRecord_buf ..
    · rw [postRecord_chan_ne _ hdc]; exact postBelow_buf s (by omega)

/-- Within the record post, with no lower record waiting, PERIOD_END posts the record of its channel. -/
theorem periodEnd_own {s : State} {c : Nat} (hp : s.clk.phase < 12288) (h : ∀ d < c, (s.chan d).buf = none) (bad : List Nat) :
    s.periodEnd c bad = s.postRecord c bad := by
  have hpost : s.postOver = false := by simpa [State.postOver] using hp
  rw [State.periodEnd, hpost, if_neg Bool.false_ne_true, postBelow_none h]

/-- A flag that is set reads 1. -/
theorem setFlag_shown (s : State) (base c : Nat) : ((s.setFlag base c).rg (base + c / 16)).getLsbD (c % 16) = true := by
  have h : c % 16 < 16 := Nat.mod_lt _ (by decide)
  rw [State.setFlag, rg_setRg_self, BitVec.getLsbD_or, BitVec.getLsbD_ofNat, Nat.testBit_two_pow_self]
  simp [h]

/-- The record of a channel lies in the Pool (R190). -/
theorem recordBase_pool {s : State} {c : Nat} (hc : c < 192) (seq : Nat) (hlo : 0x100 ≤ s.act R.CH_REC_BASE_BASE)
    (hhi : s.act R.CH_REC_BASE_BASE ≤ 0x2DB) : 0x100000 ≤ s.recordBase c seq ∧ s.recordBase c seq + 48 ≤ 0x300000 := by
  unfold State.recordBase
  omega

/-! ### PERIOD_END -/

/-- What the post of a channel's record leaves in the channels and in its ready flag. -/
def RecordPosted (s t : State) (c : Fin 192) : Prop :=
  (∀ d : Fin 192, d ≠ c → t.chan d = s.chan d) ∧ (t.chan c).buf = none ∧ (t.chan c).seq = ((s.chan c).seq + 1) % 65536 ∧
    (t.rg (0x705038 + c / 16)).getLsbD (c % 16) = true

theorem recordPosted_postRecord {s : State} {c : Fin 192} {p : PeriodBuf} (h : (s.chan c).buf = some p) :
    RecordPosted s (s.postRecord c []) c := by
  refine ⟨fun d hd => postRecord_chan_ne s fun e => hd (Fin.ext e), postRecord_buf .., ?_, ?_⟩
  · rw [postRecord_chan h, if_pos rfl]; rfl
  · rw [postRecord_some h]; exact setFlag_shown ..

theorem recordPosted_finish {s t : State} {c : Fin 192} (h : RecordPosted s t c) : RecordPosted s t.finish c := by
  obtain ⟨hothers, hbuf, hseq, hflag⟩ := h
  simp only [RecordPosted, chan_finish, rg_finish t (0x705038 + c / 16) (by omega)]
  exact ⟨hothers, hbuf, hseq, hflag⟩

theorem poolShut_setChan {s : State} {m : Nat} (h : PoolShut s m) (c : Nat) (v : Chan) : PoolShut (s.setChan c v) m := h

theorem poolOpen_setChan {s : State} {m : Nat} (h : PoolOpen s m) (c : Nat) (v : Chan) : PoolOpen (s.setChan c v) m := h

/-- Memory after a post that the access tables bar. -/
theorem postRecord_shut {s : State} {c : Fin 192} (hm : PoolShut s 8) (hlo : 0x100 ≤ s.act R.CH_REC_BASE_BASE)
    (hhi : s.act R.CH_REC_BASE_BASE ≤ 0x2DB) : (s.postRecord c []).mem = s.mem := by
  cases h : (s.chan c).buf with
  | none => rw [postRecord_none h]
  | some p =>
    rw [postRecord_some h, State.setFlag, setRg_mem, ← setChan_mem s c (postedChan (s.chan c))]
    refine wordsWrite_shut _ (fun e he => ?_) (poolShut_setChan hm c _)
    have hplace := (List.mem_zipIdx he).2.1
    rw [recordWords_length] at hplace
    have := recordBase_pool c.isLt (s.chan c).seq hlo hhi
    omega

/-- A post that the access tables let through. -/
theorem postRecord_open {s : State} {c : Fin 192} {p : PeriodBuf} (h : (s.chan c).buf = some p) (hm : PoolOpen s 8)
    (hlo : 0x100 ≤ s.act R.CH_REC_BASE_BASE) (hhi : s.act R.CH_REC_BASE_BASE ≤ 0x2DB) :
    s.postRecord c [] = ((s.setChan c (postedChan (s.chan c))).memPuts (s.recordBase c (s.chan c).seq)
      (recordWords p (s.chan c).seq)).setFlag 0x705038 c := by
  have := recordBase_pool c.isLt (s.chan c).seq hlo hhi
  rw [postRecord_some h, wordsWrite_open _ 0 (by omega) (by rw [recordWords_length]; omega) (poolOpen_setChan hm c _), Nat.add_zero]

theorem memPuts_regs (s : State) (a : Nat) (l : List Word) : (s.memPuts a l).regs = s.regs := by rw [memPuts_frame]

theorem memPuts_flt (s : State) (a : Nat) (l : List Word) : (s.memPuts a l).flt = s.flt := by rw [memPuts_frame]

theorem memPuts_permitPrev (s : State) (a : Nat) (l : List Word) : (s.memPuts a l).permitPrev = s.permitPrev := by
  rw [memPuts_frame]

/-- R190: a record begins with its sequence number and the tick at which its period started. -/
theorem recordWords_head (p : PeriodBuf) (seq : Nat) : (recordWords p seq).getD 0 0 = BitVec.ofNat 16 seq ∧
    (recordWords p seq).getD 1 0 = BitVec.ofNat 16 p.start.tick := ⟨rfl, rfl⟩

/-- The words of a record that is let through, its first two, and nothing else but the channel and its ready flag. -/
theorem postRecord_open_shown {s : State} {c : Fin 192} {p : PeriodBuf} (h : (s.chan c).buf = some p) (hm : PoolOpen s 8)
    (hlo : 0x100 ≤ s.act R.CH_REC_BASE_BASE) (hhi : s.act R.CH_REC_BASE_BASE ≤ 0x2DB) :
    let t := s.postRecord c []
    let base := s.recordBase c (s.chan c).seq
    t.permitPrev = s.permitPrev ∧ t.flt = s.flt ∧ RegsKept s t [0x705038 + c / 16] ∧
      WordsPut s t base (recordWords p (s.chan c).seq) ∧
      t.memGet base = BitVec.ofNat 16 (s.chan c).seq ∧ t.memGet (base + 1) = BitVec.ofNat 16 p.start.tick := by
  intro t base
  have ht : t = _ := postRecord_open h hm hlo hhi
  obtain ⟨hseq, htick⟩ := recordWords_head p (s.chan c).seq
  have hlen := recordWords_length p (s.chan c).seq
  generalize recordWords p (s.chan c).seq = l at *
  generalize postedChan (s.chan c) = v at ht
  have hwords : WordsPut s t base l := ht ▸ wordsPut_memPuts (s.setChan c v) base l
  clear_value t base
  refine ⟨?_, ?_, fun a ha => ?_, hwords, ?_, ?_⟩
  · rw [ht, State.setFlag, setRg_permitPrev, memPuts_permitPrev, setChan_permitPrev]
  · rw [ht, State.setFlag, setRg_flt, memPuts_flt, setChan_flt]
  · rw [ht, State.setFlag, rg_setRg_ne _ _ (by simpa using ha), rg_congr (memPuts_regs ..), rg_setChan]
  · rw [← hseq]; exact hwords.1 0 (by omega)
  · rw [← htick]; exact hwords.1 1 (by omega)

/-- R190 to R192: PERIOD_END. -/
theorem periodEnds {s : State} (hs : Settled s) (c : Fin 192) :
    let h := s.chan c
    Completes (.periodEnd c []) s (fun t => ∀ d : Fin 192, d ≤ c ∨ 12288 ≤ s.clk.phase → (t.chan d).buf = none) ∧
    (s.clk.phase < 12288 → (∀ d : Fin 192, d < c → (s.chan d).buf = none) → let base := s.recordBase c h.seq
      (h.buf = none → Completes (.periodEnd c []) s (fun t => t = s)) ∧
      ∀ p, h.buf = some p → 0x100 ≤ s.act R.CH_REC_BASE_BASE → s.act R.CH_REC_BASE_BASE ≤ 0x2DB →
        (PoolShut s 8 → Completes (.periodEnd c []) s (fun t => RecordPosted s t c ∧ t.mem = s.mem)) ∧
        (PoolOpen s 8 → Completes (.periodEnd c []) s (fun t => RecordPosted s t c ∧
          t.flt = s.flt ∧ RegsKept s t [0x705038 + c / 16] ∧ WordsPut s t base (recordWords p h.seq) ∧
          t.memGet base = BitVec.ofNat 16 h.seq ∧ t.memGet (base + 1) = BitVec.ofNat 16 p.start.tick))) := by
  intro h
  refine ⟨⟨_, rfl, fun d hd => (congrArg Chan.buf (chan_finish ..)).trans (periodEnd_buf s d.isLt hd)⟩, ?_⟩
  intro hphase hbelow base
  have hown : exec (.periodEnd c []) s = done (s.postRecord c []) :=
    congrArg done (periodEnd_own hphase (fun d hd => hbelow ⟨d, Nat.lt_trans hd c.isLt⟩ hd) [])
  refine ⟨fun hbuf => ?_, fun p hbuf hlo hhi => ⟨fun hm => ?_, fun hm => ?_⟩⟩
  · exact completes_calm hs (hown.trans (congrArg done (postRecord_none hbuf []))) rfl rfl rfl rfl
  · exact ⟨_, hown.trans (done_eq _), recordPosted_finish (recordPosted_postRecord hbuf),
      (finish_mem _).trans (postRecord_shut hm hlo hhi)⟩
  · obtain ⟨hprev, hflt, hregs, hwords⟩ := postRecord_open_shown hbuf hm hlo hhi
    refine completes_calm hs hown (permit_of_rg fun a ha => hregs a ?_) hprev (congrArg FaultSt.now hflt)
      ⟨recordPosted_postRecord hbuf, hflt, hregs, hwords⟩
    have : 0x707010 ≤ a := (by decide : ∀ a ∈ permitRegs, 0x707010 ≤ a) a ha
    simp only [List.mem_singleton]
    omega

end Sys2Proof.Proofs
end

section
/-! O34. -/

namespace Sys2Proof.Proofs

open Sys2Proof Sys2Proof.Machine Sys2Proof.Safety

/-- A write of a word of the Channel Table that is no register is dropped. -/
theorem descWrite_nowhere {s : State} (hs : Settled s) {m : Master} (hl : s.live = true) (ha : s.allowed m 35 .write = true)
    (hn : NoneWaits s m) (c : Fin 192) (w : Fin 64) (v : Word) (hr : regAt (0x640000 + c.val * 64 + w.val) = none) :
    Completes (.descWrite m c w v) s (fun t => t = s) :=
  completes_calm hs ((exec_descWrite hl ha hn c w v).trans (congrArg done (descStore_none hr))) rfl rfl rfl rfl

/-- Settles O34, one event of a channel after the other. -/
theorem channelEvents : Obligations.ChannelEvents := by
  intro s hs
  refine ⟨fun m c w v hl ha hn => ⟨fun hr => descWrite_nowhere hs hl ha hn c w v hr, fun g k hr => descWrites hs hl ha hn c w v hr⟩,
    fun c => ?_, fun g => dirSuspects hs g⟩
  obtain ⟨hbufs, hrecord⟩ := periodEnds hs c
  exact ⟨hbufs, hrecord, staleLimits hs c, dphiLapses hs c, fun hw a b => divDecisions hs c hw a b, windowEnd_void,
    windowEnd_primary⟩

end Sys2Proof.Proofs
end

section
/-! A tracked notch, and the spectra that go to the Pool with the notches they assign (O32). -/

namespace Sys2Proof.Proofs

open Sys2Proof Sys2Proof.Machine Sys2Proof.Safety

/-! ### NOTCH_TRACK (R106, R113) -/

/-- AUTO notch `k` follows a tone: it holds one, its set is in use, and a path that runs the set delivers samples. -/
def NotchFollows (s : State) (k : Nat) : Prop :=
  s.notchAssigned k = true ∧ s.notchManualAct k = false ∧ ¬(3 ≤ k / 8 ∧ s.notchLink (k / 8 % 3) = true) ∧
    (s.fe.deliver.getD (k / 8) false = true ∨
      k / 8 < 3 ∧ s.notchLink (k / 8 % 3) = true ∧ s.fe.deliver.getD (k / 8 + 3) false = true)

/-- NOTCH_TRACK moves a notch that follows a tone, and no other. -/
theorem notchTrack_eq (s : State) (k : Nat) (up : Bool) [Decidable (NotchFollows s k)] :
    s.notchTrack k up = if NotchFollows s k then
      { s with dfe := { s.dfe with
        track := listPut s.dfe.track k (s.dfe.track.getD k 0 + (if up then 1 else -1)) 0
        trackLog := s.dfe.trackLog ++ [(k, s.samplesNow, s.dfe.track.getD k 0)] } } else s := by
  have hlink : (decide (k / 8 < 3) && s.notchLink (k / 8)) = (decide (k / 8 < 3) && s.notchLink (k / 8 % 3)) := by
    by_cases h : k / 8 < 3
    · rw [Nat.mod_eq_of_lt h]
    · simp [h]
  unfold State.notchTrack
  extract_lets p used samples f
  refine ite_congr (propext ?_) (fun _ => rfl) (fun _ => rfl)
  simp only [NotchFollows, used, samples, p, hlink, Bool.and_eq_true, Bool.or_eq_true, Bool.not_eq_true', ← Bool.not_eq_true,
    decide_eq_true_eq, and_assoc]

/-- A read of FREQ of an AUTO notch gives the tracked frequency (R30). -/
theorem regView_notchFreq {s : State} {k : Nat} (hk : k < 48) (h : s.notchManual k = false) :
    s.regView (0x704050 + k) = BitVec.ofInt 16 (s.dfe.track.getD k 0) := by
  have hpage : (0x704050 + k) / 0x1000 = 0x704 := by omega
  have hview : s.regView (0x704050 + k) = s.dfeReadView (0x704050 + k) (s.rg (0x704050 + k)) := by
    unfold State.regView
    rw [hpage]
    rfl
  rw [hview, State.dfeReadView, if_pos (by omega)]
  simp [h]

/-! ### Words to the Pool leave the paths (R116, R117) -/

/-- Sample conditioning, the active values and the registers below the access tables' are the same in both states. -/
def PathsKept (s t : State) : Prop := t.dfe = s.dfe ∧ t.active = s.active ∧ ∀ b < 0x70E004, t.rg b = s.rg b

theorem pathsKept_trans {s t u : State} (h : PathsKept s t) (h' : PathsKept t u) : PathsKept s u :=
  ⟨h'.1.trans h.1, h'.2.1.trans h.2.1, fun b hb => (h'.2.2 b hb).trans (h.2.2 b hb)⟩

theorem pathsKept_violation (s : State) (m a t : Nat) (k : AccKind) : PathsKept s (s.violation m a t k) := by
  refine ⟨?_, ?_, fun b hb => (violation_shown s m a t k).2.2 b (.inl hb)⟩ <;>
  · unfold State.violation
    extract_lets
    split <;> rfl

theorem memWriteChecked_shut {s : State} {m a : Nat} (hs : PoolShut s m) (hlo : 0x100000 ≤ a) (hhi : a < 0x300000) (w : Word) :
    s.memWriteChecked m a w = s.violation m a ((a - 0x100000) / 0x10000) .write := by
  have hdeny := hs ((a - 0x100000) / 0x10000) (by omega)
  simp [State.memWriteChecked, regionOf_pool hlo hhi, Region.target, hdeny]

theorem pathsKept_wordsWrite_shut {m base : Nat} (l : List (Word × Nat))
    (hl : ∀ e ∈ l, 0x100000 ≤ base + e.2 ∧ base + e.2 < 0x300000) {s : State} (hs : PoolShut s m) :
    PathsKept s (wordsWrite m base l s) := by
  induction l generalizing s with
  | nil => exact ⟨rfl, rfl, fun _ _ => rfl⟩
  | cons e t ih =>
    obtain ⟨hlo, hhi⟩ := hl e List.mem_cons_self
    have hkept := pathsKept_violation s m (base + e.2) ((base + e.2 - 0x100000) / 0x10000) .write
    have hrg := (violation_shown s m (base + e.2) ((base + e.2 - 0x100000) / 0x10000) .write).2.2
    rw [wordsWrite_cons, memWriteChecked_shut hs hlo hhi]
    exact pathsKept_trans hkept
      (ih (fun e he => hl e (List.mem_cons_of_mem _ he)) fun b hb => (allowed_congr hrg m b).trans (hs b hb))

theorem pathsKept_memPuts (s : State) (a : Nat) (l : List Word) : PathsKept s (s.memPuts a l) := by
  rw [memPuts_frame]
  exact ⟨rfl, rfl, fun _ _ => rfl⟩

/-! ### The six spectra as one run of words (R115, R116) -/

/-- The words of the first `n` spectra of `l`, one spectrum after the other. -/
def spectraWords (l : List (List Word)) (n : Nat) : List Word := (List.range n).flatMap (fun i => l.getD i [])

theorem spectraWords_succ (l : List (List Word)) (n : Nat) : spectraWords l (n + 1) = spectraWords l n ++ l.getD n [] := by
  simp [spectraWords, List.range_succ]

theorem spectraWords_length {l : List (List Word)} {n : Nat} (hl : ∀ i < n, (l.getD i []).length = 1024) :
    (spectraWords l n).length = n * 1024 := by
  induction n with
  | zero => rfl
  | succ n ih => rw [spectraWords_succ, List.length_append, ih fun i hi => hl i (by omega), hl n (by omega)]; omega

/-- Words counted from a place on are words written from there. -/
theorem wordsWrite_from (m base k j : Nat) (l : List Word) (s : State) :
    wordsWrite m (base + k) (l.zipIdx j) s = wordsWrite m base (l.zipIdx (k + j)) s := by
  induction l generalizing s j with
  | nil => rfl
  | cons w t ih => rw [List.zipIdx_cons, List.zipIdx_cons, wordsWrite_cons, wordsWrite_cons, ih, Nat.add_assoc, Nat.add_assoc]

/-- A spectrum without a parity error is written word by word. -/
theorem specWrite_words (s : State) (base : Nat) (l : List Word) : s.specWrite base l [] = wordsWrite 8 base l.zipIdx s := by
  simp [State.specWrite, wordsWrite]

/-- The spectra of whole length, each at its place, are one run of words. -/
theorem specWrites_words {l : List (List Word)} {n : Nat} (hl : ∀ i < n, (l.getD i []).length = 1024) (base : Nat) (s : State) :
    (List.range n).foldl (fun s i => s.specWrite (base + i * 0x400) ((l.getD i []).take 1024) []) s =
      wordsWrite 8 base (spectraWords l n).zipIdx s := by
  induction n with
  | zero => rfl
  | succ n ih =>
    have hlen := spectraWords_length fun i hi => hl i (Nat.lt_succ_of_lt hi)
    have hwhole : (l.getD n []).take 1024 = l.getD n [] := List.take_of_length_le (Nat.le_of_eq (hl n (by omega)))
    rw [List.range_succ, List.foldl_append, ih fun i hi => hl i (by omega), spectraWords_succ, List.zipIdx_append, hlen,
      List.foldl_cons, List.foldl_nil, hwhole, specWrite_words, wordsWrite_from, Nat.add_comm (n * 0x400)]
    exact List.foldl_append.symm

/-! ### What a spectrum assigns (R112, R114) -/

/-- Notch `k` is an AUTO notch without a tone, of a set in use. -/
def NotchFree (s : State) (k : Nat) : Prop :=
  k < 48 ∧ s.notchAssigned k = false ∧ s.notchManualAct k = false ∧ ¬(24 ≤ k ∧ s.notchLink (k / 8 % 3) = true)

theorem notchFree_of_kept {s t : State} (hact : t.active = s.active) (hget : ∀ f : Fld, f.gwa < 0x704030 → t.get f = s.get f)
    {k : Nat} (h : NotchFree t k) : NotchFree s k := by
  obtain ⟨hk, hassigned, hmanual, hlink⟩ := h
  refine ⟨hk, ?_, ?_, ?_⟩
  · have hgwa : (R.DFE_NOTCH_STAT_ASSIGNED (k / 8)).gwa < 0x704030 := by simp only [R.DFE_NOTCH_STAT_ASSIGNED]; omega
    rwa [State.notchAssigned, ← hget _ hgwa]
  · rwa [State.notchManualAct, ← act_congr hact]
  · rwa [State.notchLink, ← act_congr hact]

/-- From `s` to `t` free notches of sets in use are assigned and quiet ones counted or released; nothing else changes. -/
def Assigns (s t : State) : Prop :=
  ∃ a q r, t = { s with dfe := { s.dfe with assign := a, quiet := q, release := r } } ∧
    ∀ e ∈ a, e ∈ s.dfe.assign ∨ NotchFree s e.1

theorem assigns_refl (s : State) : Assigns s s := ⟨_, _, _, rfl, fun _ => .inl⟩

theorem assigns_trans {s t u : State} (h : Assigns s t) (h' : Assigns t u) : Assigns s u := by
  obtain ⟨a, q, r, rfl, hfree⟩ := h
  obtain ⟨a', q', r', rfl, hfree'⟩ := h'
  exact ⟨a', q', r', rfl, fun e he => (hfree' e he).elim (hfree e) .inr⟩

theorem assigns_foldl {f : State → Nat → State} {l : List Nat} (hf : ∀ n ∈ l, ∀ s, Assigns s (f s n)) (s : State) :
    Assigns s (l.foldl f s) := by
  induction l generalizing s with
  | nil => exact assigns_refl s
  | cons n t ih => exact assigns_trans (hf n List.mem_cons_self s) (ih (fun n hn => hf n (List.mem_cons_of_mem _ hn)) _)

theorem assigns_shown {s t : State} (h : Assigns s t) : t.regs = s.regs ∧ t.mem = s.mem ∧ t.dfe.specBuf = s.dfe.specBuf ∧
    ∀ e ∈ t.dfe.assign, e ∈ s.dfe.assign ∨ NotchFree s e.1 := by
  obtain ⟨a, q, r, rfl, hfree⟩ := h
  exact ⟨rfl, rfl, rfl, hfree⟩

/-- The powers of a spectrum assign free notches of its set alone. -/
theorem assigns_notchAssign {s : State} {p : Nat} (hp : p < 6) (hused : ¬(3 ≤ p ∧ s.notchLink (p % 3) = true))
    (l : List Nat) :
    Assigns s (s.notchAssign p l) := by
  unfold State.notchAssign
  extract_lets med th free half placed bins go d u
  have hgo : Assigns s u := by
    refine ⟨_, _, _, rfl, fun e he => (List.mem_append.mp he).imp_right fun hgo => ?_⟩
    obtain ⟨n, hn, rfl⟩ := List.mem_map.mp hgo
    obtain ⟨hrange, hfree⟩ := List.mem_filter.mp (List.of_mem_zip hn).1
    have h8 : n.1 < 8 := List.mem_range.mp hrange
    simp only [Bool.and_eq_true, Bool.not_eq_true'] at hfree
    obtain ⟨⟨-, hmanual⟩, hassigned⟩ := hfree
    have hset : (8 * p + n.1) / 8 = p := by omega
    exact ⟨by omega, hassigned, hmanual, by rw [hset]; exact fun h => hused ⟨by omega, h.2⟩⟩
  refine assigns_trans hgo (assigns_foldl (fun n _ v => ?_) u)
  extract_lets k bin low q
  split
  · exact assigns_refl v
  · split <;> exact ⟨_, _, _, rfl, fun _ => .inl⟩

/-! ### SPECTRUM -/

/-- Where the spectra that wait go (R116). -/
def specPlace (s : State) : Nat := s.get R.DFE_SPEC_BASE_BASE * 0x1000 + s.dfe.specBuf * 0x1800

/-- The state once the spectra are in the Pool. -/
def spectraStored (s : State) : State := wordsWrite 8 (specPlace s) (spectraWords s.dfe.spectra 6).zipIdx s

/-- The state once DFE_SPEC_SEQ shows the buffer of `s` and counts its spectra. -/
def spectraCounted (s : State) : State := (s.put R.DFE_SPEC_SEQ_BUF s.dfe.specBuf).addWrap R.DFE_SPEC_SEQ_SEQ 1

theorem spectraCounted_dfe (s : State) : (spectraCounted s).dfe = s.dfe := (put_dfe ..).trans (put_dfe ..)

theorem spectraCounted_mem (s : State) : (spectraCounted s).mem = s.mem := (put_mem ..).trans (put_mem ..)

theorem spectraCounted_active (s : State) : (spectraCounted s).active = s.active := (put_active ..).trans (put_active ..)

theorem get_spectraCounted (s : State) {f : Fld} (h : f.gwa ≠ 0x70404B) : (spectraCounted s).get f = s.get f :=
  (get_put_apart _ _ f _ (by decide) (.inl h.symm)).trans (get_put_apart s _ f _ (by decide) (.inl h.symm))

theorem specBuf_spectraCounted (s : State) : (spectraCounted s).get R.DFE_SPEC_SEQ_BUF = s.dfe.specBuf % 2 :=
  (get_put_apart _ _ _ _ (by decide) (by decide)).trans (get_put_self s _ _ (by decide))

theorem specSeq_spectraCounted (s : State) :
    (spectraCounted s).get R.DFE_SPEC_SEQ_SEQ = (s.get R.DFE_SPEC_SEQ_SEQ + 1) % 32768 := by
  have hbuf : (s.put R.DFE_SPEC_SEQ_BUF s.dfe.specBuf).get R.DFE_SPEC_SEQ_SEQ = s.get R.DFE_SPEC_SEQ_SEQ :=
    get_put_apart s _ _ _ (by decide) (by decide)
  rw [spectraCounted, State.addWrap, hbuf]
  exact get_put_self _ _ _ (by decide)

theorem spectrum_none {s : State} (h : s.dfe.specReady = false) (bad : List (Nat × Nat)) : s.spectrum bad = s := by
  simp [State.spectrum, h]

/-- Spectra that wait are stored and counted, then notches are assigned, and the buffers change places. -/
theorem spectrum_ready {s : State} (h : s.dfe.specReady = true) (hl : ∀ i < 6, (s.dfe.spectra.getD i []).length = 1024) :
    ∃ u, Assigns (spectraCounted (spectraStored s)) u ∧
      s.spectrum [] = { u with dfe := { u.dfe with specReady := false, specBuf := 1 - u.dfe.specBuf } } := by
  unfold State.spectrum
  rw [h, if_neg (by simp)]
  extract_lets spectra pw base s1 s2 s3 d
  have hstored : s2 = spectraCounted (spectraStored s) := congrArg spectraCounted (specWrites_words hl base s)
  refine ⟨s3, hstored ▸ assigns_foldl (fun p hp v => ?_) s2, rfl⟩
  have hp6 : p < 6 := List.mem_range.mp hp
  extract_lets b la lb
  split
  · split
    · split
      · exact assigns_notchAssign hp6 (by omega) _
      · exact assigns_refl v
    · exact assigns_refl v
  · next hlink =>
    split
    · exact assigns_notchAssign hp6 (fun hused => hlink hused.2) _
    · exact assigns_refl v

/-- The six spectra lie in the Pool (R116). -/
theorem specPlace_pool {s : State} (hbuf : s.dfe.specBuf < 2) (hlegal : Legal s 0x70404A) :
    0x100000 ≤ specPlace s ∧ specPlace s + 6 * 1024 ≤ 0x300000 := by
  have hrange := hlegal _ _ rfl ⟨11, 0, .rw, .live, [(256, 733)]⟩ (by decide) rfl
  have hbase : 256 ≤ s.get R.DFE_SPEC_BASE_BASE ∧ s.get R.DFE_SPEC_BASE_BASE ≤ 733 := by
    simpa [RegField.accepts, State.get, R.DFE_SPEC_BASE_BASE] using hrange
  unfold specPlace
  omega

section
variable {s : State} (hl : ∀ i < 6, (s.dfe.spectra.getD i []).length = 1024) (hbuf : s.dfe.specBuf < 2)
  (hlegal : Legal s 0x70404A)
include hl hbuf hlegal

/-- Each word of the spectra has its place in the Pool. -/
theorem spectraWords_pool : ∀ e ∈ (spectraWords s.dfe.spectra 6).zipIdx,
    0x100000 ≤ specPlace s + e.2 ∧ specPlace s + e.2 < 0x300000 := fun e he => by
  have hplace := (List.mem_zipIdx he).2.1
  rw [spectraWords_length hl] at hplace
  have := specPlace_pool hbuf hlegal
  omega

theorem spectraStored_open (hm : PoolOpen s 8) :
    spectraStored s = s.memPuts (specPlace s) (spectraWords s.dfe.spectra 6) := by
  obtain ⟨hlo, hhi⟩ := specPlace_pool hbuf hlegal
  rw [spectraStored, wordsWrite_open _ 0 (by omega) (by rw [spectraWords_length hl]; omega) hm, Nat.add_zero]

theorem pathsKept_spectraStored (hm : PoolOpen s 8 ∨ PoolShut s 8) : PathsKept s (spectraStored s) := by
  rcases hm with hopen | hshut
  · rw [spectraStored_open hl hbuf hlegal hopen]
    exact pathsKept_memPuts ..
  · exact pathsKept_wordsWrite_shut _ (spectraWords_pool hl hbuf hlegal) hshut

/-- What SPECTRUM shows of spectra that wait, and what it leaves of memory as their words have made it. -/
theorem spectrum_shown (hready : s.dfe.specReady = true) (hm : PoolOpen s 8 ∨ PoolShut s 8) :
    let t := s.spectrum []
    t.dfe.specReady = false ∧ t.dfe.specBuf = 1 - s.dfe.specBuf ∧ t.get R.DFE_SPEC_SEQ_BUF = s.dfe.specBuf ∧
      t.get R.DFE_SPEC_SEQ_SEQ = (s.get R.DFE_SPEC_SEQ_SEQ + 1) % 32768 ∧
      (∀ e ∈ t.dfe.assign, e ∈ s.dfe.assign ∨ NotchFree s e.1) ∧ t.mem = (spectraStored s).mem := by
  obtain ⟨u, hu, ht⟩ := spectrum_ready hready hl
  obtain ⟨hregs, hmem, hbufs, hfree⟩ := assigns_shown hu
  obtain ⟨hdfe, hact, hrg⟩ := pathsKept_spectraStored hl hbuf hlegal hm
  have hget : ∀ f : Fld, f.gwa < 0x70E004 → (spectraStored s).get f = s.get f := fun f hf => by rw [State.get, hrg _ hf]; rfl
  have hcounted : (spectraCounted (spectraStored s)).dfe = s.dfe := (spectraCounted_dfe _).trans hdfe
  rw [hcounted] at hbufs hfree
  intro t
  have hshown : ∀ f, t.get f = (spectraCounted (spectraStored s)).get f := get_congr ((congrArg State.regs ht).trans hregs)
  have hassign : t.dfe.assign = u.dfe.assign := congrArg (·.dfe.assign) ht
  refine ⟨congrArg (·.dfe.specReady) ht, (congrArg (·.dfe.specBuf) ht).trans (congrArg (1 - ·) hbufs), ?_, ?_, ?_,
    (congrArg State.mem ht).trans (hmem.trans (spectraCounted_mem _))⟩
  · rw [hshown, specBuf_spectraCounted, hdfe, Nat.mod_eq_of_lt hbuf]
  · rw [hshown, specSeq_spectraCounted, hget _ (by decide)]
  · rw [hassign]
    exact fun e he => (hfree e he).imp_right (notchFree_of_kept ((spectraCounted_active _).trans hact) fun f hf =>
      (get_spectraCounted _ (by omega)).trans (hget f (by omega)))

end

/-- Memory that is that of a state in which the words stand holds them too. -/
theorem wordsPut_of_mem {s t u : State} {a : Nat} {l : List Word} (h : u.mem = t.mem) (hp : WordsPut s t a l) :
    WordsPut s u a l := by
  simp only [WordsPut, State.memGet, h] at hp ⊢
  exact hp

/-! ### O32 -/

/-- R112, R115 to R117: SPECTRUM. -/
theorem completes_spectrum {s : State} (hs : Settled s) (hl : ∀ i < 6, (s.dfe.spectra.getD i []).length = 1024)
    (hbuf : s.dfe.specBuf < 2) (hlegal : Legal s 0x70404A) :
    Completes (.spectrum []) s (fun t => (s.dfe.specReady = false → t = s) ∧
      (s.dfe.specReady = true → PoolOpen s 8 ∨ PoolShut s 8 → t.dfe.specReady = false ∧
        t.dfe.specBuf = 1 - s.dfe.specBuf ∧ t.get R.DFE_SPEC_SEQ_BUF = s.dfe.specBuf ∧
        t.get R.DFE_SPEC_SEQ_SEQ = (s.get R.DFE_SPEC_SEQ_SEQ + 1) % 32768 ∧
        (∀ e ∈ t.dfe.assign, e ∈ s.dfe.assign ∨ NotchFree s e.1) ∧ (PoolShut s 8 → t.mem = s.mem) ∧
        (PoolOpen s 8 → WordsPut s t (specPlace s) (spectraWords s.dfe.spectra 6)))) := by
  refine ⟨(s.spectrum []).finish, rfl, fun hready => ?_, fun hready hm => ?_⟩
  · rw [spectrum_none hready]
    exact finish_calm hs rfl rfl (settled_now hs)
  · obtain ⟨hdone, hswap, hshown, hcount, hfree, hmem⟩ := spectrum_shown hl hbuf hlegal hready hm
    rw [get_finish _ _ (by decide), get_finish _ _ (by decide), finish_dfe, finish_mem]
    refine ⟨hdone, hswap, hshown, hcount, hfree, fun hshut => ?_, fun hopen => ?_⟩
    · exact hmem.trans (wordsWrite_shut _ (spectraWords_pool hl hbuf hlegal) hshut)
    · refine wordsPut_of_mem ((finish_mem _).trans hmem) ?_
      rw [spectraStored_open hl hbuf hlegal hopen]
      exact wordsPut_memPuts ..

/-- R106, R113: NOTCH_TRACK. -/
theorem completes_notchTrack {s : State} (hs : Settled s) (k : Fin 48) (up : Bool) :
    Completes (.notchTrack k up) s (fun t => (¬NotchFollows s k → t = s) ∧
      (NotchFollows s k → t = { s with dfe := t.dfe } ∧
        t.dfe.track.getD k 0 = s.dfe.track.getD k 0 + (if up then 1 else -1) ∧
        (∀ j, j ≠ k.val → t.dfe.track.getD j 0 = s.dfe.track.getD j 0) ∧
        (s.notchManual k = false → t.regView (0x704050 + k) = BitVec.ofInt 16 (t.dfe.track.getD k 0)))) := by
  classical
  have hexec : exec (.notchTrack k up) s = done _ := congrArg done (notchTrack_eq s k up)
  by_cases hok : NotchFollows s k
  · rw [if_pos hok] at hexec
    refine completes_calm hs hexec rfl rfl rfl ⟨fun h => absurd hok h, fun _ => ⟨rfl, ?_, fun j hj => ?_, fun hauto => ?_⟩⟩
    · rw [getD_listPut, if_pos rfl]
    · rw [getD_listPut, if_neg hj]
    · exact regView_notchFreq k.isLt hauto
  · rw [if_neg hok] at hexec
    exact completes_calm hs hexec rfl rfl rfl ⟨fun _ => rfl, fun h => absurd h hok⟩

/-- Settles O32: SPECTRUM writes, counts and assigns, NOTCH_TRACK moves one notch. -/
theorem conditioning : Obligations.Conditioning := fun _ hs =>
  ⟨fun hl hbuf hlegal => completes_spectrum hs hl hbuf hlegal, fun k up => completes_notchTrack hs k up⟩

end Sys2Proof.Proofs
end
